-- ==== Sys2Proof/Word.lean ====
section
/-! DEFINITION. Words, bytes and sparse tables: the plain data the panel's state is written in. -/

namespace Sys2Proof

/-- One byte. -/
abbrev Byte := BitVec 8

/-- Sixteen, thirty-two and sixty-four bit words (R15: little-endian in memory). -/
abbrev W16 := BitVec 16
abbrev W32 := BitVec 32
abbrev W64 := BitVec 64

/-- A sparse table: key and value pairs with keys strictly rising.  A key that is not listed holds
the table's default value, which each reader names. -/
abbrev Tab (α : Type) := List (Nat × α)

end Sys2Proof
end

