-- ==== Sys2Proof/Syntax.lean ====
section
/-! DEFINITION. The commands of the panel: one constructor of `Instr` for each row of the table of
operations and events (spec/opcode_table.json), with the operands that fix its effect.  What the
world outside the panel supplies (host-memory contents, sensor readings, test outcomes, elapsed
times) is an operand. -/

namespace Sys2Proof

/-! ## Operands of micro-ops (chapters 03 and 04) -/

/-- Where and when a micro-op issues: logical rank, cluster of the die, stream core of the cluster, and
the budgeted cycle of the stitch in which it issues (R119, R120). -/
structure Issue where
  rank : Nat
  clu : Nat
  sc : Nat
  cyc : Nat
  deriving DecidableEq, Repr

/-- Fields of a control micro-op (R124). -/
structure CtlF where
  imm : W32
  waddr : BitVec 23
  ixa : BitVec 4
  dst : BitVec 4
  srca : BitVec 4
  srcb : BitVec 4
  subop : BitVec 4
  body : BitVec 16
  deriving DecidableEq, Repr

/-- Fields of a vector micro-op (R135). -/
structure VecF where
  imm : W32
  maddr : BitVec 20
  ixa : BitVec 4
  func : BitVec 8
  type : BitVec 3
  mod : Bool
  rnd : Bool
  bsrc : Bool
  dst : BitVec 5
  srca : BitVec 5
  srcb : BitVec 5
  srcc : BitVec 5
  lenm1 : BitVec 6
  deriving DecidableEq, Repr

/-- Fields of MTL (R99). -/
structure MtlF where
  saddr : BitVec 20
  eaddr : BitVec 20
  ncolm1 : BitVec 9
  kblk : BitVec 4
  wfmt : BitVec 3
  buf : Bool
  deriving DecidableEq, Repr

/-- Fields of MMA (R102). -/
structure MmaF where
  asaddr : BitVec 20
  aaddr : BitVec 20
  masksel : BitVec 2
  arow0 : BitVec 8
  rowsm1 : BitVec 8
  afmt : BitVec 2
  zero : Bool
  buf : Bool
  deriving DecidableEq, Repr

/-- Fields of MDR (R107). -/
structure MdrF where
  daddr : BitVec 20
  dstride : BitVec 16
  masksel : BitVec 2
  drow0 : BitVec 8
  rowsm1 : BitVec 8
  dmode : BitVec 2
  clr : Bool
  deriving DecidableEq, Repr

/-- Fields of DMR and DMW (R149). -/
structure DmF where
  paddr : BitVec 34
  pix : BitVec 4
  caddr : BitVec 20
  cix : BitVec 4
  carry : Bool
  lenm1 : BitVec 17
  ctr : BitVec 3
  deriving DecidableEq, Repr

/-- Fields of SSN, SRV, FSN and FRV (R151). -/
structure FmF where
  drank : BitVec 16
  dclass : BitVec 4
  tag : BitVec 8
  slot : BitVec 16
  caddr : BitVec 20
  cix : BitVec 4
  lenm1 : BitVec 12
  ctr : BitVec 3
  deriving DecidableEq, Repr

/-- The control micro-ops, in the order of their operation codes (R123). -/
inductive CtlOp where
  | nop | loop | seti | alu | ldw | stw | mask | syw
  deriving DecidableEq, Repr

/-- The vector micro-ops (R123). -/
inductive VecOp where
  | vld | vst | vew | vrd | vsf | vsmx | vnrm | vtopk | vrng | cvt | vflg
  deriving DecidableEq, Repr

/-- The transfer micro-ops with the layout of R151. -/
inductive FmOp where
  | ssn | srv | fsn | frv
  deriving DecidableEq, Repr

/-- A descriptor of a stream core's store (R117), decoded. -/
inductive Uop where
  | ctl (op : CtlOp) (f : CtlF)
  | vec (op : VecOp) (f : VecF)
  | mtl (f : MtlF)
  | mma (f : MmaF)
  | mdr (f : MdrF)
  | dm (write : Bool) (f : DmF)
  | fm (op : FmOp) (f : FmF)
  | knot (kidx : BitVec 12)
  deriving DecidableEq, Repr

/-! ## Operands of fabric, link and memory events (chapters 07 to 09) -/

/-- The route header of a free flit (R251). -/
structure RouteHdr where
  addr : BitVec 34
  off : BitVec 17
  msg : BitVec 12
  srank : BitVec 16
  sclass : BitVec 4
  drank : BitVec 16
  dclass : BitVec 4
  tag : Byte
  hops : BitVec 6
  cm : Bool
  ece : Bool
  kind : BitVec 3
  tepoch : BitVec 4
  deriving DecidableEq, Repr

/-- A free flit: its header, its channel (R280) and its payload of up to 256 bytes. -/
structure FreeFlit where
  hdr : RouteHdr
  chan : Nat
  payload : List Byte
  deriving DecidableEq, Repr

/-- The set header of a set flit (R278). -/
structure SetHdr where
  lentry : W16
  drank : Byte
  srank : Byte
  order : Bool
  due : BitVec 12
  dstitch : Byte
  deriving DecidableEq, Repr

/-- A set flit on its way, with the set-slot entry of its source, which a fault record names (R246). -/
structure SetFlit where
  hdr : SetHdr
  entry : Nat
  payload : List Byte
  deriving DecidableEq, Repr

/-- The fields of an Axust frame that its CRC covers (R277), with the payload beside it. -/
structure AxFrame where
  chan : Nat
  seq : BitVec 12
  ackseq : BitVec 12
  nakseq : BitVec 12
  nakv : Bool
  replay : Bool
  hdr : BitVec 128
  payload : List Byte
  deriving DecidableEq, Repr

/-- What one end of a link sends over the sideband when training ends (R276). -/
structure LinkIdent where
  die : Nat
  port : Nat
  serial : List Byte
  version : BitVec 32
  deriving DecidableEq, Repr

/-- What a retrain or the fallback ladder finds (R271, R275, R286): whether PHYRETRAIN succeeds, the
working data lanes of each module, the frame lanes that each module's two bundles have lost (0 from the leading end), the lanes repaired
from the redundant ones, what the leading and the following end receive in the identity check (none: what the layout gives), and the largest
delays that the calibration of a training observes in the two directions, in slot times (R182: 0 from the leading end). -/
structure LadderEnv where
  step1 : Bool := true
  lanes0 : Nat := 64
  lanes1 : Nat := 64
  frame0 : Nat × Nat := (0, 0)
  frame1 : Nat × Nat := (0, 0)
  repairs : Nat := 0
  saved : Bool := false
  ident : Option (LinkIdent × LinkIdent) := none
  delay0 : Nat := 0
  delay1 : Nat := 0
  deriving DecidableEq, Repr

/-- Whether a module's frame bundles work: each has lost at most the one lane that its spare replaces (R271). -/
def bundleOk (lost : Nat × Nat) : Bool := decide (lost.1 < 2) && decide (lost.2 < 2)

/-- What the check of a standby link finds (R296): the ladder's findings where the wake's check fails, whether the wake took longer than 10 µs,
the delays of the 64 calibration flits in the two directions in slot times, and whether a repair wake takes the link over. -/
structure StandbyFind where
  wake : Option LadderEnv := none
  slow : Bool := false
  delays0 : List Nat := []
  delays1 : List Nat := []
  taken : Bool := false
  deriving DecidableEq, Repr

/-- What the sector checks of a read find (R312): sectors corrected, sectors of the unit that cannot be corrected, and those of the row's
other units that the recovery reads, by place in the row (0 P, 1 Q, then the data slots from 2 on, as in R302). -/
structure MemCheck where
  corrected : Nat := 0
  erased : BitVec 4 := 0
  others : List (Nat × BitVec 4) := []
  deriving DecidableEq, Repr

/-- What a visit of the patrol scrub finds (R322): a write that reaches the row while it is visited, the sectors corrected, those that
cannot be corrected by place in the row, whether one bad data unit is located and rewritten, and the parity units rewritten. -/
structure ScrubFind where
  written : Bool := false
  corrected : Nat := 0
  erased : List (Nat × BitVec 4) := []
  located : Bool := false
  parity : Nat := 0
  deriving DecidableEq, Repr

/-- A record of an acknowledgement flit (R254): message number, first flit index and count. -/
structure AckRec where
  msg : BitVec 12
  off : BitVec 17
  count : Nat
  deriving DecidableEq, Repr

/-! ## Operands of mailbox requests (chapter 12) -/

/-- A licence as its verification finds it (R10): the serial it is bound to, whether its signature
verifies, its variant (`true` for CRD-P144-X), its identifier and its issue time. -/
structure Licence where
  serial : List Byte := []
  sigOk : Bool := true
  variantX : Bool := true
  licid : W64 := 0
  issued : W64 := 0
  deriving DecidableEq, Repr

/-- A Herus firmware image as its verification finds it (R447, R459). -/
structure Firmware where
  version : W32 := 0
  sigOk : Bool := true
  floor : Nat := 0
  deriving DecidableEq, Repr

/-- What stands outside the mailbox and fixes a request's outcome: whether the bulk buffer can be read
and written over PCIe (R426), the bytes it holds, the estimated wait and remainder in microseconds
(R419, R427), the verdicts of signature checks, and the dies that fail, do not answer or are not ready
(R428). -/
structure MbEnv where
  readOk : Bool := true
  writeOk : Bool := true
  bulk : List Byte := []
  wait : Nat := 0
  remain : Nat := 0
  lic : Licence := {}
  fw : Firmware := {}
  silent : List Nat := []
  notReady : List Nat := []
  returnFail : List Nat := []
  ladder : LadderEnv := {}
  trains : Bool := true
  deriving DecidableEq, Repr

/-- The request area's header (R408) and the function it stands in: 0 PF0, 1 to 63 VF1 to VF63, 64
PF1. -/
structure MbReq where
  fn : Nat
  tag : W32
  noint : Bool := false
  bulkv : Bool := false
  blen : W32 := 0
  baddr : W64 := 0
  env : MbEnv := {}
  deriving DecidableEq, Repr

/-- The values of one ring pair in TENANT_CONFIGURE (R443). -/
structure RingCfg where
  en : Byte
  k : Byte
  sqbase : W64
  cqbase : W64
  deriving DecidableEq, Repr

/-- The request parameters of TENANT_CONFIGURE (R443). -/
structure TenantCfg where
  tenant : Byte
  which : W16
  quota : W32
  age : W32
  wstripe : Byte
  woff : W64
  wlen : W64
  rings : List RingCfg
  deriving DecidableEq, Repr

/-! ## Operands of ring requests (chapter 11) -/

/-- The fields of a submission descriptor apart from OP (R380). -/
structure Desc where
  stopv : Bool := false
  inline : Bool := false
  noint : Bool := false
  handle : W32 := 0
  usertag : W64 := 0
  count : W32 := 0
  stoptok : W32 := 0
  arg : W64 := 0
  toks : List W32 := []
  deriving DecidableEq, Repr

/-- A ring pair of a tenant. -/
structure RingRef where
  tenant : Nat
  pair : Nat
  deriving DecidableEq, Repr

/-! ## Operands of lifecycle, power and thermal events (chapters 13 to 15) -/

/-- What a park port's training finds (R400, R470): trains, device present, capacity in GiB. -/
structure ParkDev where
  trains : Bool := true
  present : Bool := true
  gib : Nat := 1024
  deriving DecidableEq, Repr

/-- What a cast-on attempt meets (R463 to R471).  Lists name dies by control-fabric index (R261); `links` gives what training and
calibration find on links, by leading end (8 d + p), where it is not a full link with no delay; `sync` the largest delays of the stitch marks at a
die on its first and on its second path (R182), where they are not 0;
`programmed` is slot A, slot B and the boot-slot selector as an external programmer has left them in flash while PANEL_RST_N was asserted (R596). -/
structure CastOnEnv where
  sfdpOk : Bool := true
  rootKey : Bool := true
  anchorNOk : Bool := true
  anchorFails : Bool := false
  ringSilent : List Nat := []
  treeOk : Bool := true
  inrushFail : List Nat := []
  links : List (Nat × LadderEnv) := []
  syncDepthOk : Bool := true
  sync : List (Nat × Nat × Nat) := []
  programmed : Option (Option Firmware × Option Firmware × Bool) := none
  untrained : List Nat := []
  memCheckOk : Bool := true
  bistFail : List Nat := []
  co6Silent : List Nat := []
  hostDieOk : Bool := true
  standbyOk : Bool := true
  park : List ParkDev := []
  deriving DecidableEq, Repr

/-- The two kinds of sideband request between link ends (R292). -/
inductive SideReq where
  | retrain | width
  deriving DecidableEq, Repr

/-- What a repair meets (R491 to R503): microseconds from the last fault to resumption, whether the
spare powers up, and the links by leading end whose wake's check fails, with what the ladder finds on each (R295). -/
structure RepairEnv where
  us : Nat := 0
  spareOk : Bool := true
  wakeFailed : List (Nat × LadderEnv) := []
  tornRows : List (Nat × Nat) := []
  deriving DecidableEq, Repr

/-- How a die has lost its timing link (R157): whether the link retrains or wakes, and what a repair meets where the die has no other. -/
structure TimingLoss where
  retraining : Bool
  rep : RepairEnv := {}
  deriving DecidableEq, Repr

/-- A frame as it arrives on a link (R277): its 256 bits, its payload, and what the ladder and a repair meet where it asks for a replay
too many (R284). -/
structure FrameIn where
  bits : BitVec 256
  payload : List Byte := []
  env : LadderEnv := {}
  rep : RepairEnv := {}
  deriving DecidableEq, Repr

/-- A frame that has gone unacknowledged (R283), and what the ladder and a repair meet where it has been replayed too often (R284). -/
structure ReplayDue where
  seq : BitVec 12
  env : LadderEnv := {}
  rep : RepairEnv := {}
  deriving DecidableEq, Repr

/-- What a sideband request meets (R292): the request of the receiving end itself, if it has one outstanding, and what the ladder and a
repair meet. -/
structure RequestMet where
  own : Option SideReq := none
  env : LadderEnv := {}
  rep : RepairEnv := {}
  deriving DecidableEq, Repr

/-- A read of panel memory: the header of its request flit, and what the sector checks find (R312). -/
structure ReadIn where
  tag : RouteHdr
  found : MemCheck := {}
  deriving DecidableEq, Repr

/-- A visit of the patrol scrub: its stripe, and what it finds (R322). -/
structure ScrubStep where
  stripe : Nat
  found : ScrubFind := {}
  deriving DecidableEq, Repr

/-- The draws that the monitors report as 1 ms means, in watts (R525). -/
structure Draws where
  panel : Nat
  compute : Nat
  memory : Nat
  deriving DecidableEq, Repr

/-- What a round boundary meets: the length of the round in nanoseconds and the mean draws over it
(R528), and whether every compute junction is at 97 degrees or below and whether a die at its floor is
at 100 or above (R540). -/
structure BoundaryEnv where
  tRoundNs : Nat := 0
  draws : Draws := ⟨0, 0, 0⟩
  allCool : Bool := true
  hotAtFloor : Bool := false
  repair : RepairEnv := {}
  deriving DecidableEq, Repr

/-- The kinds of event that reset a host port (R376). -/
inductive PortReset where
  | perst | hotReset | linkDown | flr
  deriving DecidableEq, Repr

/-- Why a course is lost (R487, R505): PWR_GOOD, VIN, or VBASE and base dies silent. -/
inductive CourseCause where
  | pwrGood | vin | vbase
  deriving DecidableEq, Repr

/-- The causes of R315 that take a stack out of service, coded as DETAIL of MSO (R327). -/
inductive StackCause where
  | channel | errors | temperature | vdramVpp | baseDie
  deriving DecidableEq, Repr

/-- The conditions that a course's monitor acts on (R523). -/
inductive CourseMonitor where
  | over420 | over440 | below430 | under165 | under150
  deriving DecidableEq, Repr

/-- The memory rails of a course (R524). -/
inductive MemRail where
  | vdram | vpp | vbase
  deriving DecidableEq, Repr

/-- Why ANC-S takes over (R454). -/
inductive TakeoverCause where
  | carrier | heartbeats | supply
  deriving DecidableEq, Repr

/-- Why a cluster's rail is reported by its regulator (R522). -/
inductive RegFault where
  | regulation | header
  deriving DecidableEq, Repr

/-- Reads that the panel issues to host memory and that may fail (R384, R426). -/
inductive HostRead where
  | descriptor (r : RingRef)
  | tokenArray (tenant : Nat) (usertag : W64)
  | bulkIn (fn : Nat)
  deriving DecidableEq, Repr

/-- The conditions that drive THERM_ALERT_N (R542). -/
structure AlertEnv where
  dieHot : Bool := false
  stackHot : Bool := false
  heldOneSecond : Bool := true
  deriving DecidableEq, Repr

/-! ## The commands -/

/-- The commands of the panel, in the order of the table of operations and events. -/
inductive Instr where
  -- mailbox commands (R416)
  | identify (q : MbReq)
  | statusRead (q : MbReq)
  | interfaceCaps (q : MbReq)
  | licenceInstall (q : MbReq)
  | licenceRead (q : MbReq)
  | patternStage (q : MbReq)
  | patternCommit (q : MbReq)
  | patternStart (q : MbReq)
  | patternStop (q : MbReq) (form : Byte)
  | weightsIntakeOpen (q : MbReq) (base len woff : W64)
  | weightsIntakeClose (q : MbReq)
  | setWrite (q : MbReq) (scope : W16) (item count : Byte) (entries : List Byte)
  | setSwapAt (q : MbReq) (target : W64)
  | setRead (q : MbReq) (die : W16) (which item : Byte)
  | modeSet (q : MbReq) (mode : Byte)
  | powerCapSet (q : MbReq) (cap : W32)
  | powerRead (q : MbReq)
  | coolantReport (q : MbReq) (tmem tcmp : W16)
  | thermalRead (q : MbReq)
  | healthRead (q : MbReq) (scope port : Byte) (index : W16)
  | darnRead (q : MbReq)
  | repairPolicySet (q : MbReq) (impaired scoremin repeats : Byte)
  | siteRetire (q : MbReq) (course wale : Byte)
  | faultLogRead (q : MbReq) (first : W64) (max : W32)
  | flagsRead (q : MbReq)
  | flagsClear (q : MbReq) (mask : Byte)
  | tenantConfigure (q : MbReq) (cfg : TenantCfg)
  | tenantReset (q : MbReq) (tenant : Byte)
  | shaperSet (q : MbReq) (tenant shaper : Byte) (rate depth : W32)
  | sessionExport (q : MbReq) (handle : W32)
  | sessionImport (q : MbReq) (tenant : Byte)
  | tailLogRead (q : MbReq) (handle first : W32)
  | roundFence (q : MbReq) (action : Byte)
  | resetFabric (q : MbReq)
  | resetWarm (q : MbReq)
  | bindOff (q : MbReq) (round sess : Byte)
  | timeRead (q : MbReq)
  | timerArm (q : MbReq) (timer action : Byte) (target : W64)
  | linkRead (q : MbReq) (die : W16) (port : Byte)
  | linkRetrain (q : MbReq) (die : W16) (port form : Byte)
  | memoryScrubSet (q : MbReq) (period : W16) (rebuild course col : Byte)
  | memoryStatus (q : MbReq)
  | firmwareStage (q : MbReq)
  | firmwareActivate (q : MbReq) (when_ : Byte)
  | mailboxTakeUp (env : MbEnv)
  -- ring requests (R347)
  | ringOpen (r : RingRef) (d : Desc)
  | ringAppend (r : RingRef) (d : Desc)
  | ringStep (r : RingRef) (d : Desc)
  | ringDraft (r : RingRef) (d : Desc)
  | ringCancel (r : RingRef) (d : Desc)
  | ringClose (r : RingRef) (d : Desc)
  | ringPark (r : RingRef) (d : Desc)
  | ringUnpark (r : RingRef) (d : Desc)
  -- register and port events
  | doorbellWrite (fn pair : Nat) (tail head : Option W16)
  | tokenArrayArrived (tenant : Nat) (usertag : W64) (toks : List W32)
  | intCauseClear (fn : Nat) (mask : W32)
  | registerWrite (fn off : Nat) (data : List (Option Byte))
  | misalignedAccess (fn off len : Nat) (write : Bool)
  | pairLoRead (fn off len : Nat)
  | busMasterEnable (fn : Nat) (en : Bool)
  | hostPortReset (port : Nat) (kind : PortReset)
  | vfFlr (vf : Nat)
  | apertureWrite (off : Nat) (data : List Byte)
  | apertureRead (off len : Nat)
  -- micro-ops (R123)
  | nop (i : Issue) (f : CtlF)
  | loop (i : Issue) (f : CtlF)
  | seti (i : Issue) (f : CtlF)
  | alu (i : Issue) (f : CtlF)
  | ldw (i : Issue) (f : CtlF)
  | stw (i : Issue) (f : CtlF)
  | mask (i : Issue) (f : CtlF)
  | syw (i : Issue) (f : CtlF)
  | sywSatisfied (i : Issue)
  | vld (i : Issue) (f : VecF)
  | vst (i : Issue) (f : VecF)
  | vew (i : Issue) (f : VecF)
  | vrd (i : Issue) (f : VecF)
  | vsf (i : Issue) (f : VecF)
  | vsmx (i : Issue) (f : VecF)
  | vnrm (i : Issue) (f : VecF)
  | vtopk (i : Issue) (f : VecF)
  | vrng (i : Issue) (f : VecF)
  | cvt (i : Issue) (f : VecF)
  | vflg (i : Issue) (f : VecF)
  | mtl (i : Issue) (f : MtlF)
  | mma (i : Issue) (f : MmaF)
  | mdr (i : Issue) (f : MdrF)
  | dmr (i : Issue) (f : DmF)
  | dmw (i : Issue) (f : DmF)
  | ssn (i : Issue) (f : FmF)
  | srv (i : Issue) (f : FmF)
  | fsn (i : Issue) (f : FmF)
  | frv (i : Issue) (f : FmF)
  | knot (i : Issue) (kidx : BitVec 12)
  | dmTransferComplete (rank clu sc idx : Nat)
  | freeMessageComplete (rank clu sc idx : Nat)
  -- time, sync chain and rounds (chapters 05, 06 and 10)
  | dieArrival (die : Nat)
  | stitchStart (die : Nat)
  | holdLine (die : Nat) (left : List (Nat × Nat))
  | mark (die : Nat) (count : BitVec 48) (phaseErr : Int)
  | syncFrameReceive (die : Nat) (frame : BitVec 80)
  | tbu (rank clu : Nat)
  | tbs
  | extend (quantum : BitVec 12)
  | report (die : Nat)
  | freq (die : Nat)
  | freeze (point : BitVec 48)
  | freezePoint
  | release (die : Nat)
  | resume (point : BitVec 48)
  | resumePoint
  | arrive (die : Nat) (kidx : BitVec 12)
  | fire (k : BitVec 48) (kidx : BitVec 12) (env : BoundaryEnv)
  | sectionStart
  | knotTimeout
  | fault (die : Nat) (code : Byte)
  | abort (cause : BitVec 12) (failed : List Nat)
  | idleSnapshot
  | pageWaitTimeout (tenant : Nat) (usertag : W64)
  | parkCopyDone (index : Nat)
  | unparkDone (index : Nat)
  | parkTransferFail (index : Nat) (poison : Bool)
  | parkPortDown (port : Nat)
  -- fabric (chapter 07)
  | setFlitForward (die port : Nat) (slot : Nat) (f : SetFlit)
  | setFlitLanding (rank : Nat) (slot : Nat) (f : SetFlit)
  | freeFlitRoute (die slot : Nat)
  | freeFlitAck (die : Nat) (drank : W16) (dclass : BitVec 4) (recs : List AckRec) (ece : Bool)
  | ackTimer (die : Nat) (srank : W16) (msg : BitVec 12)
  | retransmitTimeout (die : Nat) (msg : BitVec 12) (off : BitVec 17)
  | controlPacket (die : Nat) (port : Nat) (bytes : List Byte)
  | controlResend (die : Nat) (port : Nat) (seq : W16)
  | syncPathSwitch (die : Nat)
  | timingLinkLost (die : Nat) (loss : TimingLoss)
  -- configuration-set swaps and timers (R189 to R193)
  | nack (die : Nat)
  | swap (target : BitVec 48)
  | withhold (target : BitVec 48)
  | armAnswer (die : Nat) (ready : Bool)
  | armTimeout
  | swapAtTarget
  | timerFire (fn timer : Nat)
  -- links (chapter 08)
  | axustFrameReceive (die port : Nat) (frame : FrameIn)
  | replayTimeout (die port : Nat) (due : ReplayDue)
  | linkFault (die port : Nat) (env : LadderEnv) (rep : RepairEnv)
  | rawFlitReceive (die port : Nat) (payload : List Byte) (header tail : BitVec 128)
  | retrainRequest (die port : Nat) (kind : SideReq) (met : RequestMet)
  | keepaliveLost (die port : Nat)
  | standbyCheck (die port : Nat) (found : StandbyFind)
  -- panel memory (chapter 09)
  | memRead (paddr : BitVec 34) (rank : W16) (cls : BitVec 4) (read : ReadIn)
  | memWrite (paddr : BitVec 34) (mask : BitVec 4) (data : List Byte)
  | stackOut (course col : Nat) (cause : StackCause) (env : RepairEnv)
  | scrubVisit (visit : ScrubStep)
  | refreshRateChange (course col : Nat) (temp : Nat)
  | stackRebuildDone (course col : Nat)
  -- lifecycle (chapter 13)
  | coldReset (env : CastOnEnv)
  | panelRstAssert
  | warmReset (env : CastOnEnv)
  | coursePowerTimeout (course : Nat)
  | backoffExpiry (env : CastOnEnv)
  | flashHandoverTimeout
  | anchorTakeover (cause : TakeoverCause)
  | herusBindOff
  -- repair, power and cooling (chapters 14 and 15)
  | clusterOvercurrent (course wale clu : Nat) (env : RepairEnv)
  | regulatorFault (course wale clu : Nat) (kind : RegFault) (env : RepairEnv)
  | dieSilent (course wale : Nat) (env : RepairEnv)
  | courseLoss (course : Nat) (cause : CourseCause) (env : RepairEnv)
  | healthScoring (minute : Nat)
  | pwrWarnAssert
  | pwrWarnDeassert
  | forcedLeanPoint
  | pwrGoodDeassert (course : Nat) (ns : Nat) (railsOk : Bool) (env : RepairEnv)
  | courseCurrentLimit (course : Nat) (m : CourseMonitor) (env : RepairEnv)
  | memoryRailFault (course : Nat) (rail : MemRail) (env : RepairEnv)
  | ringSupplyLoss
  | refclkLoss (die : Nat)
  | marginTrim (warns : List (Nat × Nat))
  | capControl (d : Draws)
  | throttleStep (temps : List (Nat × Nat)) (raise : Bool)
  | thermalTrip (die temp : Nat)
  | resistanceMeasure (compPower memPower : Nat) (hotC hotM : Nat) (steadyC steadyM : Bool)
  | thermalCycleSample (temps : List (Nat × Nat))
  | healthFlashWrite
  -- SMBus, JTAG and pins (chapter 18)
  | setEndpointId (eid : Byte)
  | getEndpointId
  | getMctpVersionSupport
  | getMessageTypeSupport
  | getState
  | getPower
  | getTime
  | getFault
  | coolant (tmem tcmp : W16)
  | bypass (tdi : Bool)
  | samplePreload (pins : List Bool)
  | extest (pins : List Bool)
  | pwrGoodAssert (course : Nat)
  | hostPerstNDeassert (port : Nat)
  | standbyAnchorFailure
  | soleAnchorFailure
  | thermAlertChange (env : AlertEnv)
  | hostMemoryReadFailed (r : HostRead)
  | vfEnableChange (enable : Bool) (numvfs : Nat)
  deriving DecidableEq, Repr

end Sys2Proof
end

