-- ==== Sys2Proof/Decode.lean ====
section
/-! DEFINITION. Decoding.  The table of operations and events gives no row any bits, so no word spells a
command.  The descriptors of a stream core's store do have an encoding (R99, R102, R107, R124, R135,
R149, R151, R154), which PATTERN_STAGE reads. -/

namespace Sys2Proof

/-- The command that a word spells by the bits of the table: it gives none. -/
def decodeTableWord (_nbits _w : Nat) : Option Instr := none

/-! ## Descriptors -/

/-- The bits of a control descriptor (R124). -/
def encodeCtl (opc : BitVec 8) (f : CtlF) : BitVec 128 :=
  f.imm ++ f.waddr ++ (0 : BitVec 5) ++ f.ixa ++ f.dst ++ f.srca ++ f.srcb ++ f.subop ++ f.body ++
    (0 : BitVec 24) ++ opc

/-- The fields of a control descriptor. -/
def decodeCtl (b : BitVec 128) : CtlF :=
  { imm := b.extractLsb' 96 32, waddr := b.extractLsb' 73 23, ixa := b.extractLsb' 64 4
    dst := b.extractLsb' 60 4, srca := b.extractLsb' 56 4, srcb := b.extractLsb' 52 4
    subop := b.extractLsb' 48 4, body := b.extractLsb' 32 16 }

/-- The bits of a vector descriptor (R135). -/
def encodeVec (opc : BitVec 8) (f : VecF) : BitVec 128 :=
  f.imm ++ f.maddr ++ f.ixa ++ (0 : BitVec 8) ++ f.func ++ f.type ++ BitVec.ofBool f.mod ++
    BitVec.ofBool f.rnd ++ BitVec.ofBool f.bsrc ++ f.dst ++ f.srca ++ f.srcb ++ f.srcc ++
    (0 : BitVec 1) ++ f.lenm1 ++ (0 : BitVec 15) ++ opc

/-- The fields of a vector descriptor. -/
def decodeVec (b : BitVec 128) : VecF :=
  { imm := b.extractLsb' 96 32, maddr := b.extractLsb' 76 20, ixa := b.extractLsb' 72 4
    func := b.extractLsb' 56 8, type := b.extractLsb' 53 3, mod := b.getLsbD 52, rnd := b.getLsbD 51
    bsrc := b.getLsbD 50, dst := b.extractLsb' 45 5, srca := b.extractLsb' 40 5
    srcb := b.extractLsb' 35 5, srcc := b.extractLsb' 30 5, lenm1 := b.extractLsb' 23 6 }

/-- The bits of MTL (R99). -/
def encodeMtl (f : MtlF) : BitVec 128 :=
  (0 : BitVec 12) ++ f.saddr ++ (0 : BitVec 12) ++ f.eaddr ++ (0 : BitVec 32) ++ f.ncolm1 ++ f.kblk ++
    f.wfmt ++ (0 : BitVec 7) ++ BitVec.ofBool f.buf ++ (0x40 : BitVec 8)

/-- The fields of MTL. -/
def decodeMtl (b : BitVec 128) : MtlF :=
  { saddr := b.extractLsb' 96 20, eaddr := b.extractLsb' 64 20, ncolm1 := b.extractLsb' 23 9
    kblk := b.extractLsb' 19 4, wfmt := b.extractLsb' 16 3, buf := b.getLsbD 8 }

/-- The bits of MMA (R102). -/
def encodeMma (f : MmaF) : BitVec 128 :=
  (0 : BitVec 12) ++ f.asaddr ++ (0 : BitVec 12) ++ f.aaddr ++ (0 : BitVec 30) ++ f.masksel ++ f.arow0 ++
    f.rowsm1 ++ (0 : BitVec 3) ++ f.afmt ++ BitVec.ofBool f.zero ++ (0 : BitVec 1) ++
    BitVec.ofBool f.buf ++ (0x41 : BitVec 8)

/-- The fields of MMA. -/
def decodeMma (b : BitVec 128) : MmaF :=
  { asaddr := b.extractLsb' 96 20, aaddr := b.extractLsb' 64 20, masksel := b.extractLsb' 32 2
    arow0 := b.extractLsb' 24 8, rowsm1 := b.extractLsb' 16 8, afmt := b.extractLsb' 11 2
    zero := b.getLsbD 10, buf := b.getLsbD 8 }

/-- The bits of MDR (R107). -/
def encodeMdr (f : MdrF) : BitVec 128 :=
  (0 : BitVec 12) ++ f.daddr ++ (0 : BitVec 16) ++ f.dstride ++ (0 : BitVec 30) ++ f.masksel ++ f.drow0 ++
    f.rowsm1 ++ (0 : BitVec 4) ++ f.dmode ++ BitVec.ofBool f.clr ++ (0 : BitVec 1) ++ (0x42 : BitVec 8)

/-- The fields of MDR. -/
def decodeMdr (b : BitVec 128) : MdrF :=
  { daddr := b.extractLsb' 96 20, dstride := b.extractLsb' 64 16, masksel := b.extractLsb' 32 2
    drow0 := b.extractLsb' 24 8, rowsm1 := b.extractLsb' 16 8, dmode := b.extractLsb' 10 2
    clr := b.getLsbD 9 }

/-- The bits of DMR and DMW (R149). -/
def encodeDm (opc : BitVec 8) (f : DmF) : BitVec 128 :=
  f.paddr ++ f.pix ++ f.caddr ++ f.cix ++ BitVec.ofBool f.carry ++ f.lenm1 ++ f.ctr ++ (0 : BitVec 37) ++ opc

/-- The fields of DMR and DMW. -/
def decodeDm (b : BitVec 128) : DmF :=
  { paddr := b.extractLsb' 94 34, pix := b.extractLsb' 90 4, caddr := b.extractLsb' 70 20
    cix := b.extractLsb' 66 4, carry := b.getLsbD 65, lenm1 := b.extractLsb' 48 17
    ctr := b.extractLsb' 45 3 }

/-- The bits of SSN, SRV, FSN and FRV (R151). -/
def encodeFm (opc : BitVec 8) (f : FmF) : BitVec 128 :=
  f.drank ++ f.dclass ++ f.tag ++ (0 : BitVec 4) ++ f.slot ++ (0 : BitVec 10) ++ f.caddr ++ f.cix ++
    f.lenm1 ++ f.ctr ++ (0 : BitVec 23) ++ opc

/-- The fields of SSN, SRV, FSN and FRV. -/
def decodeFm (b : BitVec 128) : FmF :=
  { drank := b.extractLsb' 112 16, dclass := b.extractLsb' 108 4, tag := b.extractLsb' 100 8
    slot := b.extractLsb' 80 16, caddr := b.extractLsb' 50 20, cix := b.extractLsb' 46 4
    lenm1 := b.extractLsb' 34 12, ctr := b.extractLsb' 31 3 }

/-- Operation code of a control micro-op (R123). -/
def ctlOpc : CtlOp → BitVec 8
  | .nop => 0x00 | .loop => 0x01 | .seti => 0x02 | .alu => 0x03
  | .ldw => 0x04 | .stw => 0x05 | .mask => 0x06 | .syw => 0x07

/-- Operation code of a vector micro-op (R123). -/
def vecOpc : VecOp → BitVec 8
  | .vld => 0x10 | .vst => 0x11 | .vew => 0x20 | .vrd => 0x21 | .vsf => 0x22 | .vsmx => 0x23
  | .vnrm => 0x24 | .vtopk => 0x25 | .vrng => 0x26 | .cvt => 0x27 | .vflg => 0x28

/-- Operation code of SSN, SRV, FSN and FRV (R151). -/
def fmOpc : FmOp → BitVec 8
  | .ssn => 0x52 | .srv => 0x53 | .fsn => 0x54 | .frv => 0x55

/-- The 128 bits of a descriptor. -/
def encodeUop : Uop → BitVec 128
  | .ctl op f => encodeCtl (ctlOpc op) f
  | .vec op f => encodeVec (vecOpc op) f
  | .mtl f => encodeMtl f
  | .mma f => encodeMma f
  | .mdr f => encodeMdr f
  | .dm w f => encodeDm (if w then 0x51 else 0x50) f
  | .fm op f => encodeFm (fmOpc op) f
  | .knot k => (0 : BitVec 100) ++ k ++ (0 : BitVec 8) ++ (0x60 : BitVec 8)

/-- The descriptor with the fields that its bits give under its operation code; `none` for a code that
R123 does not list. -/
def readUop (b : BitVec 128) : Option Uop :=
  match (b.extractLsb' 0 8).toNat with
  | 0x00 => some (.ctl .nop (decodeCtl b))
  | 0x01 => some (.ctl .loop (decodeCtl b))
  | 0x02 => some (.ctl .seti (decodeCtl b))
  | 0x03 => some (.ctl .alu (decodeCtl b))
  | 0x04 => some (.ctl .ldw (decodeCtl b))
  | 0x05 => some (.ctl .stw (decodeCtl b))
  | 0x06 => some (.ctl .mask (decodeCtl b))
  | 0x07 => some (.ctl .syw (decodeCtl b))
  | 0x10 => some (.vec .vld (decodeVec b))
  | 0x11 => some (.vec .vst (decodeVec b))
  | 0x20 => some (.vec .vew (decodeVec b))
  | 0x21 => some (.vec .vrd (decodeVec b))
  | 0x22 => some (.vec .vsf (decodeVec b))
  | 0x23 => some (.vec .vsmx (decodeVec b))
  | 0x24 => some (.vec .vnrm (decodeVec b))
  | 0x25 => some (.vec .vtopk (decodeVec b))
  | 0x26 => some (.vec .vrng (decodeVec b))
  | 0x27 => some (.vec .cvt (decodeVec b))
  | 0x28 => some (.vec .vflg (decodeVec b))
  | 0x40 => some (.mtl (decodeMtl b))
  | 0x41 => some (.mma (decodeMma b))
  | 0x42 => some (.mdr (decodeMdr b))
  | 0x50 => some (.dm false (decodeDm b))
  | 0x51 => some (.dm true (decodeDm b))
  | 0x52 => some (.fm .ssn (decodeFm b))
  | 0x53 => some (.fm .srv (decodeFm b))
  | 0x54 => some (.fm .fsn (decodeFm b))
  | 0x55 => some (.fm .frv (decodeFm b))
  | 0x60 => some (.knot (b.extractLsb' 16 12))
  | _ => none

/-- Decode a descriptor.  A descriptor with a RSVD field that is not 0 is refused (R20): encoding what was
read, which writes 0 there, must give the same bits. -/
def decodeUop (b : BitVec 128) : Option Uop :=
  match readUop b with
  | some u => if encodeUop u = b then some u else none
  | none => none

end Sys2Proof
end

