-- ==== Sys2Proof/Config.lean ====
section
/-! DEFINITION. What the manual leaves open: free values, each an uninterpreted constant applied to the
counter `State.free`, and the constants an implementation fixes. -/

namespace Sys2Proof.Config

open Sys2Proof

/-- A choice among `n` free things that the manual does not make: which free page, block or staging
place is taken (R341, R352, R401).  Log entry 5. -/
opaque freeChoice : Nat → Nat

/-- A byte of which the manual states no value (the page bytes of a session image at and beyond
position LEN - 1, R549).  Log entry 6. -/
opaque freeByte : Nat → Byte

/-- A byte of a unit whose stack is lost in a failed stripe, of which the manual states no value (R320): by a counter and the
byte's address.  Log entry 124. -/
opaque lostByte : Nat → Nat → Byte

/-- The first unit of the place that a resident image takes in an allocation (R217 type 6, R305), which the manual
does not state, for given PLACE_WEIGHTS, PLACE_WORK and PLACE_RESIDENT.  Log entry 15. -/
opaque residentBase : Nat → Nat → Nat → Nat

/-- The place of a rank's site block, followed by its slot tables, in the resident image, in 256-byte units from its base, which the manual
does not state (R214, R221).  Log entry 15. -/
opaque residentSite : Nat → Nat

/-- The address that the flits of a free message carry (R153, R251): of panel memory for a stripe, a granule or a ring address otherwise.  The
manual does not state it; it is one for each job rank and tag.  Log entry 121. -/
opaque fsnAddr : Nat → Nat → BitVec 34

/-- A byte of a flit of invalidation messages (R280, R372), whose layout the manual does not state, by a counter.
Log entry 51. -/
opaque invalByte : Nat → Nat → Byte

/-- Rows that a rebuild has gone through at a reference count (R321, R328), which the manual does not state.  Log entry 26. -/
opaque rebuiltRows : Nat → Nat

/-- The tenant for whom a free flit on a ring port moves (R258, R394), which its header does not name, for the port's job rank and its ring
address.  Log entry 142. -/
opaque portTenant : Nat → Nat → Nat

/-- The time in slot times for which a freeze that an abort cancels has lasted, which no command measures (R174, R194), by a counter.  Log
entry 134. -/
opaque cancelledFreeze : Nat → W64

/-- DETAIL of an ADR raised for a destination that names no endpoint (R238), a kind that R229 does not list.  Log entry
122. -/
opaque endpointDetail : Nat → W16

/-- The hop-latency class that anchor OTP holds, class B when true, which the manual does not give (R183). Log entry
27. -/
opaque otpClassB : Bool

/-- The hardware revision (R573), which the manual does not give.  Log entry 17. -/
opaque hwRev : W32

/-- The panel's serial number, 16 ASCII characters (R573), which the manual does not give.  Log entry 17. -/
opaque serial : List Byte

/-- The priority class of a request whose opcode is no command, which the manual does not state (R410, R416).
Log entry 18. -/
opaque unknownClass : Nat → Nat

/-- A reading of a sensor that no state holds: rail currents and course powers (R525, R437).  Log entry 19. -/
opaque reading : Nat → Nat → Nat

/-- The rail voltage in mV that anchor OTP holds for a cluster (die * 4 + cluster) at a set point in MHz, with the
interpolation of R518.  Log entry 20. -/
opaque railMv : Nat → Nat → Nat

/-- A zone's allowance in W where its measured resistance is not positive, for which R538 states no value. Log
entry 21. -/
opaque allowance : Nat → Nat

/-- The checksum of a configuration set, of which the manual states no algorithm (R435). Log entry 22. -/
opaque setChecksum : List Byte → W32

/-- The position in its page of the entry that a byte of a page slice holds: stripe, byte offset, bytes of the slice
(R341, R549: the layout within a slice is the pattern's). Log entry 23. -/
opaque entryPos : Nat → Nat → Nat → Nat

/-- The size in bytes of a firmware slot of the board's flash, which the manual does not state (R447, R459). Log
entry 24. -/
opaque slotSize : Nat

end Sys2Proof.Config
end

