-- ==== Sys2Proof/Machine/Flags.lean ====
section
/-! DEFINITION. The four sticky flags of an engine (R76, R145): bit 0 overflow, bit 1 underflow,
bit 2 inexact, bit 3 invalid. -/

namespace Sys2Proof.Machine

/-- A set of sticky flags. -/
abbrev Flags := BitVec 4

/-- No flag. -/
def flagNone : Flags := 0
/-- Overflow. -/
def flagOv : Flags := 1
/-- Underflow. -/
def flagUn : Flags := 2
/-- Inexact. -/
def flagIx : Flags := 4
/-- Invalid. -/
def flagIv : Flags := 8

/-- A flag raised when a condition holds. -/
def flagIf (c : Bool) (f : Flags) : Flags := if c then f else 0

/-- The union of the flags of a list of results. -/
def flagsUnion (l : List Flags) : Flags := l.foldl (· ||| ·) 0

/-- The eight bits of a round record or summary (R78): the matrix engine's flags in bits 3:0, the
vector engine's in bits 7:4, as VFLG copies them (R145). -/
def flagPair (m v : Flags) : BitVec 8 := v ++ m

end Sys2Proof.Machine
end

