-- ==== Sys2Proof/Machine/Ops.lean ====
section
/-! DEFINITION. Operations on sparse tables and byte memories, bit fields and byte order. -/

namespace Sys2Proof.Machine

open Sys2Proof

/-! ## Sparse tables -/

/-- The value a table holds at key `k`; an unlisted key holds the default `d`. -/
def tabGet {α : Type} (d : α) : Tab α → Nat → α
  | [], _ => d
  | (k', v) :: t, k => if k' = k then v else tabGet d t k

/-- The table with no entry at key `k`. -/
def tabDel {α : Type} : Tab α → Nat → Tab α
  | [], _ => []
  | (k', v) :: t, k => if k' = k then t else (k', v) :: tabDel t k

/-- The table with an entry for `k` in its place in the rising order of keys. -/
def tabIns {α : Type} : Tab α → Nat → α → Tab α
  | [], k, v => [(k, v)]
  | (k', v') :: t, k, v =>
    if k < k' then (k, v) :: (k', v') :: t
    else if k' = k then (k, v) :: t
    else (k', v') :: tabIns t k v

/-- The table that holds `v` at key `k`.  Writing the default removes the entry, so tables with the
same contents are equal. -/
def tabPut {α : Type} [DecidableEq α] (d : α) (t : Tab α) (k : Nat) (v : α) : Tab α :=
  if v = d then tabDel t k else tabIns t k v

/-- Several writes, in order. -/
def tabPuts {α : Type} [DecidableEq α] (d : α) (t : Tab α) (l : List (Nat × α)) : Tab α :=
  l.foldl (fun t p => tabPut d t p.1 p.2) t

/-- The value at key `k` changed by `f`. -/
def tabMod {α : Type} [DecidableEq α] (d : α) (t : Tab α) (k : Nat) (f : α → α) : Tab α :=
  tabPut d t k (f (tabGet d t k))

/-- Every value of a table changed by `f`; a value that becomes the default is dropped. -/
def tabMap {α : Type} [DecidableEq α] (d : α) (f : α → α) (t : Tab α) : Tab α :=
  t.filterMap fun p => if f p.2 = d then none else some (p.1, f p.2)

/-- Keys strictly rise, all above `lo`, and no entry holds the default. -/
def tabWfFrom {α : Type} [DecidableEq α] (d : α) : Option Nat → Tab α → Bool
  | _, [] => true
  | lo, (k, v) :: t =>
    (match lo with | none => true | some l => decide (l < k)) && decide (v ≠ d) &&
      tabWfFrom d (some k) t

/-- The canonical form of a table. -/
def tabWf {α : Type} [DecidableEq α] (d : α) (t : Tab α) : Bool := tabWfFrom d none t

/-! ## Byte memories -/

/-- A byte memory (cluster memory R129, panel memory R303): a byte never written reads zero. -/
abbrev Mem := Tab Byte

/-- The canonical form of a byte memory. -/
abbrev Memory.wf (m : Mem) : Prop := tabWf (0 : Byte) m = true

/-- Read one byte. -/
def memGet (m : Mem) (a : Nat) : Byte := tabGet 0 m a

/-- Write one byte. -/
def memPut (m : Mem) (a : Nat) (b : Byte) : Mem := tabPut 0 m a b

/-- The `n` bytes from address `a`. -/
def memRead (m : Mem) (a n : Nat) : List Byte := (List.range n).map fun i => memGet m (a + i)

/-- Write bytes from address `a` on. -/
def memWrite (m : Mem) (a : Nat) : List Byte → Mem
  | [] => m
  | b :: bs => memWrite (memPut m a b) (a + 1) bs

/-- Write a list of address and byte pairs, in order. -/
def memPuts (m : Mem) (l : List (Nat × Byte)) : Mem := l.foldl (fun m p => memPut m p.1 p.2) m

/-- Address and byte pairs for bytes stored from `a` on. -/
def cellsAt (a : Nat) (l : List Byte) : List (Nat × Byte) := l.zipIdx.map fun p => (a + p.2, p.1)

/-! ## Byte order and fields (R15: little-endian) -/

/-- The number that bytes spell, the first byte least significant. -/
def leNat : List Byte → Nat
  | [] => 0
  | b :: bs => b.toNat + 256 * leNat bs

/-- The `n` low bytes of a number, least significant first. -/
def natLe : Nat → Nat → List Byte
  | 0, _ => []
  | n + 1, v => BitVec.ofNat 8 v :: natLe n (v / 256)

/-- The little-endian 32-bit word at a byte address. -/
def memWord (m : Mem) (a : Nat) : W32 := BitVec.ofNat 32 (leNat (memRead m a 4))

/-- Bits `h` down to `l` of a number. -/
def bitsOf (v h l : Nat) : Nat := (v / 2 ^ l) % 2 ^ (h + 1 - l)

/-- One bit of a number. -/
def bitOf (v i : Nat) : Bool := (v / 2 ^ i) % 2 == 1

/-- A number from a list of bits, the first the least significant. -/
def bitsNat : List Bool → Nat
  | [] => 0
  | b :: bs => b.toNat + 2 * bitsNat bs

/-- A little-endian number of `n` bytes at offset `o` of a byte list; absent bytes are zero. -/
def leAt (l : List Byte) (o n : Nat) : Nat := leNat ((l.drop o).take n)

/-- A byte list padded with zeros or cut to `n` bytes. -/
def fitBytes (n : Nat) (l : List Byte) : List Byte := (l ++ List.replicate (n - l.length) 0).take n

/-- A byte list with `src` laid over it at offset `o`. -/
def overlay (l : List Byte) (o : Nat) (src : List Byte) : List Byte :=
  l.take o ++ src.take (l.length - o) ++ l.drop (o + src.length)

/-- A two's-complement reading of the low `w` bits of a number. -/
def signedOf (w v : Nat) : Int :=
  let u := v % 2 ^ w
  if 2 * u < 2 ^ w then (u : Int) else (u : Int) - (2 : Int) ^ w

/-- Number of bits needed to write a number: 0 for 0. -/
def bitLen (n : Nat) : Nat := if n = 0 then 0 else n.log2 + 1

/-- Division rounding up. -/
def ceilDiv (a b : Nat) : Nat := (a + b - 1) / b

/-- Split a list into pieces of `n`; `fuel` bounds the number of pieces. -/
def chunksOf {α : Type} (n : Nat) : Nat → List α → List (List α)
  | 0, _ => []
  | fuel + 1, l => if l.isEmpty then [] else l.take n :: chunksOf n fuel (l.drop n)

/-- A list with the element at an index replaced by `f` of it. -/
def listMod {α : Type} (f : α → α) : List α → Nat → List α
  | [], _ => []
  | x :: xs, 0 => f x :: xs
  | x :: xs, n + 1 => x :: listMod f xs n

/-- A list without the element at an index. -/
def listDrop {α : Type} : List α → Nat → List α
  | [], _ => []
  | _ :: xs, 0 => xs
  | x :: xs, n + 1 => x :: listDrop xs n

/-- A list of numbers without repeats, rising, with `x` added. -/
def setIns (x : Nat) : List Nat → List Nat
  | [] => [x]
  | y :: ys => if x < y then x :: y :: ys else if x = y then y :: ys else y :: setIns x ys

/-- A list of numbers without `x`. -/
def setDel (x : Nat) (l : List Nat) : List Nat := l.filter (· != x)

/-! ## Register accesses -/

/-- Whether an access is misaligned and crosses a register boundary (R569). -/
def crosses (off len : Nat) : Bool :=
  (if 8 < len then off % 4 != 0 else (len == 2 || len == 4 || len == 8) && off % len != 0) &&
    off / 4 != (off + len - 1) / 4

end Sys2Proof.Machine
end

