-- ==== Sys2Proof/Machine/Formats.lean ====
section
/-! DEFINITION. Number formats, roundings and conversions (chapter 02): exact values as an integer
times a power of two, narrowed once at the end. -/

namespace Sys2Proof.Machine

open Sys2Proof

/-! ## Exact values -/

/-- The exact value `m * 2^e`. -/
structure Dy where
  m : Int
  e : Int
  deriving DecidableEq, Repr

/-- Two to a power that is not negative. -/
def pow2 (k : Int) : Int := (2 : Int) ^ k.toNat

/-- Exact sum. -/
def dyAdd (a b : Dy) : Dy :=
  let e := min a.e b.e
  ⟨a.m * pow2 (a.e - e) + b.m * pow2 (b.e - e), e⟩

/-- Exact negation. -/
def dyNeg (a : Dy) : Dy := ⟨-a.m, a.e⟩

/-- Exact product. -/
def dyMul (a b : Dy) : Dy := ⟨a.m * b.m, a.e + b.e⟩

/-- Exact comparison `a < b`. -/
def dyLt (a b : Dy) : Bool := decide ((dyAdd a (dyNeg b)).m < 0)

/-- Exact equality of values. -/
def dyEq (a b : Dy) : Bool := decide ((dyAdd a (dyNeg b)).m = 0)

/-- Greatest integer not above the value. -/
def dyFloor (a : Dy) : Int := if 0 ≤ a.e then a.m * pow2 a.e else a.m >>> (-a.e).toNat

/-! ## Floating formats (R47, R66 to R68, R73) -/

/-- A floating format: exponent and mantissa widths, exponent of the least normal value, largest finite
value `maxM * 2^maxE`, and whether results below the least normal value become zero (R67). -/
structure FFmt where
  eb : Nat
  mb : Nat
  emin : Int
  maxM : Nat
  maxE : Int
  flush : Bool
  deriving DecidableEq, Repr

/-- binary32 (largest 0x7F7F_FFFF, R68). -/
def fmt32 : FFmt := ⟨8, 23, -126, 0xFFFFFF, 104, true⟩
/-- bfloat16. -/
def fmtB16 : FFmt := ⟨8, 7, -126, 0xFF, 120, true⟩
/-- binary16 (largest 65,504). -/
def fmt16 : FFmt := ⟨5, 10, -14, 0x7FF, 5, false⟩

/-- `m / 2^s` rounded to an integer, to nearest with ties to even or toward zero (R71), with whether a
non-zero bit was discarded. -/
def roundAt (rtz : Bool) (m s : Nat) : Nat × Bool :=
  if bitLen m + 1 < s then (0, m != 0)
  else
    let k := m >>> s
    let r := m % 2 ^ s
    let up := !rtz && (decide (2 ^ s < 2 * r) || (decide (2 * r = 2 ^ s) && s != 0 && k % 2 == 1))
    (if up then k + 1 else k, r != 0)

/-- The code of the magnitude `k * 2^q`, exact in the format. -/
def fPack (F : FFmt) (k : Nat) (q : Int) : Nat :=
  let e := (k.log2 : Int) + q
  if k = 0 then 0
  else if e < F.emin then k
  else (e - F.emin + 1).toNat * 2 ^ F.mb + (k * 2 ^ F.mb / 2 ^ k.log2 - 2 ^ F.mb)

/-- Whether `k * 2^q` is beyond the largest finite value. -/
def fBeyond (F : FFmt) (k : Nat) (q : Int) : Bool :=
  if F.maxE ≤ q then
    decide (64 < q - F.maxE) || decide (F.maxM < k * 2 ^ (q - F.maxE).toNat)
  else decide (F.maxM * 2 ^ (F.maxE - q).toNat < k)

/-- The magnitude code of `m * 2^e` rounded into a format, with the flags raised (R67, R68, R73): the
rounding grid is that of the format, subnormals included. -/
def fMag (F : FFmt) (rtz : Bool) (m : Nat) (e : Int) : Nat × Flags :=
  if m = 0 then (0, 0)
  else
    let q := max ((m.log2 : Int) + e - F.mb) (F.emin - F.mb)
    let kr := if q ≤ e then (m * 2 ^ (e - q).toNat, false) else roundAt rtz m (q - e).toNat
    let ix := flagIf kr.2 flagIx
    if kr.1 = 0 then (0, flagUn ||| ix)
    else if fBeyond F kr.1 q then (fPack F F.maxM F.maxE, flagOv ||| ix)
    else if F.flush && decide (kr.1 < 2 ^ F.mb) then (0, flagUn ||| flagIx)
    else (fPack F kr.1 q, ix)

/-- A value rounded into a format with a sign bit; an exact zero takes the sign `zneg`. -/
def fEnc (F : FFmt) (rtz zneg : Bool) (d : Dy) : Nat × Flags :=
  let s := if d.m = 0 then zneg else decide (d.m < 0)
  let c := fMag F rtz d.m.natAbs d.e
  (s.toNat * 2 ^ (F.eb + F.mb) + c.1, c.2)

/-- RN of an exact value to binary32 (R66 to R68). -/
def rn (d : Dy) (zneg : Bool := false) : W32 × Flags :=
  let c := fEnc fmt32 false zneg d
  (BitVec.ofNat 32 c.1, c.2)

/-- The sign bit of a binary32 code. -/
def neg32 (w : W32) : Bool := w.msb

/-- The largest finite binary32 value with a sign. -/
def max32 (neg : Bool) : W32 := if neg then 0xFF7FFFFF else 0x7F7FFFFF

/-- Zero with a sign. -/
def zero32 (neg : Bool) : W32 := if neg then 0x80000000 else 0

/-- A binary32 input as an engine reads it (R67, R68): a subnormal is a signed zero, an infinity the
largest value of its sign with overflow, a NaN +0 with invalid. -/
def rd32 (w : W32) : W32 × Flags :=
  let x := bitsOf w.toNat 30 23
  let f := bitsOf w.toNat 22 0
  if x = 255 then (if f = 0 then (max32 (neg32 w), flagOv) else (0, flagIv))
  else if x = 0 then (zero32 (neg32 w), 0)
  else (w, 0)

/-- The exact value of a binary32 code that `rd32` gave. -/
def dy32 (w : W32) : Dy :=
  let x := bitsOf w.toNat 30 23
  let f := bitsOf w.toNat 22 0
  if x = 0 then ⟨0, 0⟩
  else
    let k : Int := 2 ^ 23 + f
    ⟨if neg32 w then -k else k, (x : Int) - 150⟩

/-- binary32 sum of two codes (R66). -/
def add32 (a b : W32) : W32 × Flags :=
  let a' := rd32 a
  let b' := rd32 b
  let s := dyAdd (dy32 a'.1) (dy32 b'.1)
  let bothZero := (dy32 a'.1).m = 0 ∧ (dy32 b'.1).m = 0
  let r := rn s (decide bothZero && neg32 a'.1 && neg32 b'.1)
  (r.1, r.2 ||| a'.2 ||| b'.2)

/-- binary32 negation of a code as read. -/
def neg32c (a : W32) : W32 × Flags :=
  let a' := rd32 a
  (a'.1 ^^^ 0x80000000, a'.2)

/-- binary32 difference. -/
def sub32 (a b : W32) : W32 × Flags :=
  let b' := neg32c b
  let r := add32 a b'.1
  (r.1, r.2 ||| b'.2)

/-- binary32 product. -/
def mul32 (a b : W32) : W32 × Flags :=
  let a' := rd32 a
  let b' := rd32 b
  let r := rn (dyMul (dy32 a'.1) (dy32 b'.1)) (neg32 a'.1 != neg32 b'.1)
  (r.1, r.2 ||| a'.2 ||| b'.2)

/-- RN(RN(a × b) + c) (R66, R137). -/
def fma32 (a b c : W32) : W32 × Flags :=
  let p := mul32 a b
  let r := add32 p.1 c
  (r.1, r.2 ||| p.2)

/-- The order of MIN and MAX on codes as read, -0 below +0 (R137). -/
def lt32z (a b : W32) : Bool :=
  dyLt (dy32 a) (dy32 b) || (dyEq (dy32 a) (dy32 b) && neg32 a && !neg32 b)

/-- binary32 minimum. -/
def min32 (a b : W32) : W32 × Flags :=
  let a' := rd32 a
  let b' := rd32 b
  (if lt32z b'.1 a'.1 then b'.1 else a'.1, a'.2 ||| b'.2)

/-- binary32 maximum. -/
def max32f (a b : W32) : W32 × Flags :=
  let a' := rd32 a
  let b' := rd32 b
  (if lt32z a'.1 b'.1 then b'.1 else a'.1, a'.2 ||| b'.2)

/-- binary32 magnitude. -/
def abs32 (a : W32) : W32 × Flags :=
  let a' := rd32 a
  (a'.1 &&& 0x7FFFFFFF, a'.2)

/-- Comparison of two codes, -0 equal to +0: greater, greater or equal, equal. -/
def cmp32 (f : Nat) (a b : W32) : W32 × Flags :=
  let a' := rd32 a
  let b' := rd32 b
  let x := dy32 a'.1
  let y := dy32 b'.1
  let c := if f = 0 then dyLt y x else if f = 1 then !dyLt x y else dyEq x y
  (if c then 1 else 0, a'.2 ||| b'.2)

/-- An exact scaling by `2^n` of a binary32 code as read, saturating or flushing (R139). -/
def scale32 (w : W32) (n : Int) : W32 × Flags :=
  let d := dy32 w
  if d.m = 0 then (w, 0)
  else
    let e := (d.m.natAbs.log2 : Int) + d.e + n
    if e < -126 then (zero32 (neg32 w), flagUn ||| flagIx)
    else if 127 < e then (max32 (neg32 w), flagOv)
    else rn ⟨d.m, d.e + n⟩

/-! ## Elements of MX and T5 (R46 to R53) -/

/-- The element formats, in the order of the codes of WFMT (R99). -/
inductive ElemFmt where
  | e2m1 | e2m3 | e3m2 | e4m3 | e5m2 | mxint8 | t5
  deriving DecidableEq, Repr

/-- Width in bits of an element that is stored on its own. -/
def elemW : ElemFmt → Nat
  | .e2m1 => 4
  | .e2m3 => 6
  | .e3m2 => 6
  | _ => 8

/-- Grid exponent q (R54). -/
def elemQ : ElemFmt → Int
  | .e2m1 => -1
  | .e2m3 => -3
  | .e3m2 => -4
  | .e4m3 => -9
  | .e5m2 => -16
  | .mxint8 => -6
  | .t5 => 0

/-- Bits b of the largest significand (R54). -/
def elemB : ElemFmt → Nat
  | .e2m1 => 4
  | .e2m3 => 6
  | .e3m2 => 9
  | .e4m3 => 18
  | .e5m2 => 32
  | .mxint8 => 8
  | .t5 => 1

/-- Largest exponent emax of an element (R74). -/
def elemEmax : ElemFmt → Int
  | .e4m3 => 8
  | .e5m2 => 15
  | .e2m3 => 2
  | .e3m2 => 4
  | .e2m1 => 2
  | _ => 0

/-- The floating format of an MX element (R47). -/
def elemFF : ElemFmt → FFmt
  | .e4m3 => ⟨4, 3, -6, 7, 6, false⟩
  | .e5m2 => ⟨5, 2, -14, 7, 13, false⟩
  | .e2m3 => ⟨2, 3, 0, 15, -1, false⟩
  | .e3m2 => ⟨3, 2, -2, 7, 2, false⟩
  | .e2m1 => ⟨2, 1, 0, 3, 1, false⟩
  | .mxint8 => ⟨0, 7, 0, 127, -6, false⟩
  | .t5 => ⟨0, 0, 0, 1, 0, false⟩

/-- Significand of a floating element with `eb` exponent and `mb` mantissa bits, on the format's grid. -/
def elemSigF (eb mb code : Nat) : Int :=
  let x := bitsOf code (eb + mb - 1) mb
  let f := bitsOf code (mb - 1) 0
  let k : Nat := if x = 0 then f else (2 ^ mb + f) * 2 ^ (x - 1)
  if bitOf code (eb + mb) then -(k : Int) else k

/-- Significand and flags of an element code as an engine reads it (R47 to R49).  A T5 element is read
through `t5Digit`. -/
def elemSig (fm : ElemFmt) (code : Nat) : Int × Flags :=
  match fm with
  | .e2m1 => (elemSigF 2 1 code, 0)
  | .e2m3 => (elemSigF 2 3 code, 0)
  | .e3m2 => (elemSigF 3 2 code, 0)
  | .e4m3 => if code % 128 = 127 then (0, flagIv) else (elemSigF 4 3 code, 0)
  | .e5m2 =>
    if bitsOf code 6 2 = 31 then
      if bitsOf code 1 0 = 0 then (if bitOf code 7 then -3758096384 else 3758096384, flagOv)
      else (0, flagIv)
    else (elemSigF 5 2 code, 0)
  | .mxint8 => (signedOf 8 code, 0)
  | .t5 => (0, 0)

/-- Whether a T5 byte code is valid (R53). -/
def t5Valid (b : Byte) : Bool := decide (b.toNat < 243)

/-- Digit `k` of a T5 byte as a trit (R51); every digit of an invalid byte reads zero (R53). -/
def t5Digit (b : Byte) (k : Nat) : Int :=
  if t5Valid b then
    match b.toNat / 3 ^ k % 3 with
    | 0 => 0
    | 1 => 1
    | _ => -1
  else 0

/-- Bytes of element data and of scales of a T5 tensor of `n` elements (R52). -/
def t5Bytes (n : Nat) : Nat :=
  (n / 65536) * (13108 + 1024) + ceilDiv (n % 65536) 5 + ceilDiv (n % 65536) 64

/-- Number of elements of the pack that holds element `e` of a tensor of `n`. -/
def t5PackN (n e : Nat) : Nat := min 65536 (n - e / 65536 * 65536)

/-- Offset in the tensor of the byte that holds element `e` (R52). -/
def t5ElemOff (e : Nat) : Nat := e / 65536 * 14132 + e % 65536 / 5

/-- Offset in a tensor of `n` elements of the scale byte of element `e` (R52). -/
def t5ScaleOff (n e : Nat) : Nat :=
  e / 65536 * 14132 + ceilDiv (t5PackN n e) 5 + e % 65536 / 64

/-- Code of element `i` of a packed array of `w`-bit elements that starts on a byte (R50): blocks of 32
follow one another without gaps, so the array is one little-endian bit string. -/
def packedElem (w : Nat) (l : List Byte) (i : Nat) : Nat :=
  (leAt l (i * w / 8) 2 / 2 ^ (i * w % 8)) % 2 ^ w

/-- Elements packed into bytes (R50). -/
def packElems (w : Nat) (l : List Nat) : List Byte :=
  natLe (ceilDiv (l.length * w) 8) (l.foldr (fun c acc => c % 2 ^ w + 2 ^ w * acc) 0)

/-! ## ACC56 (R57 to R63) -/

/-- An ACC56 value: significand and exponent. -/
structure Acc where
  m : BitVec 56
  e : BitVec 10
  deriving DecidableEq, Repr

/-- Canonical zero (0, -512). -/
def Acc.zero : Acc := ⟨0, BitVec.ofInt 10 (-512)⟩

/-- Left shift that normalises `m` from exponent `e`: until bits 55 and 54 differ, or E is -512. -/
def accShift (m e : Int) : Nat :=
  let x := if m < 0 then (-m - 1).toNat else m.toNat
  if m = 0 then 0 else min (55 - bitLen x) (e + 512).toNat

/-- Arithmetic shift right by a count that may be large. -/
def asr (m : Int) (s : Nat) : Int := if 2048 < s then (if m < 0 then -1 else 0) else m >>> s

/-- Flags of an alignment by `s` bits: underflow when a non-zero value becomes 0, inexact when a
non-zero bit is lost (R76). -/
def alignFlags (m : Int) (s : Nat) : Flags :=
  let x := asr m s
  flagIf (decide (m ≠ 0) && decide (x = 0)) flagUn |||
    flagIf (decide (m ≠ 0) && (decide (2048 < s) || decide (x * (2 : Int) ^ s ≠ m))) flagIx

/-- The accumulator step of R59, with saturation (R61) and flags (R76). -/
def accStep (a c : Acc) : Acc × Flags :=
  let ma := a.m.toInt
  let ea := a.e.toInt
  let k := accShift c.m.toInt c.e.toInt
  let mc := c.m.toInt * (2 : Int) ^ k
  let ec := c.e.toInt - k
  let e := max ea ec
  let xa := asr ma (e - ea).toNat
  let xc := asr mc (e - ec).toNat
  let fl := alignFlags ma (e - ea).toNat ||| alignFlags mc (e - ec).toNat
  let s := xa + xc
  let ovf := decide (s < -(2 : Int) ^ 55) || decide ((2 : Int) ^ 55 ≤ s)
  let s1 := if ovf then asr s 1 else s
  let e1 := if ovf then e + 1 else e
  let fo := flagIf (ovf && decide (s % 2 ≠ 0)) flagIx
  let n := accShift s1 e1
  let s2 := s1 * (2 : Int) ^ n
  let e2 := if s2 = 0 then -512 else e1 - n
  if 511 < e2 then
    (⟨BitVec.ofInt 56 (if s2 < 0 then -(2 : Int) ^ 55 else 2 ^ 55 - 1), 511⟩,
      fl ||| fo ||| flagOv)
  else (⟨BitVec.ofInt 56 s2, BitVec.ofInt 10 e2⟩, fl ||| fo)

/-- The exact value of an ACC56. -/
def accDy (a : Acc) : Dy := ⟨a.m.toInt, a.e.toInt - 55⟩

/-- Twelve bytes of an ACC56 (R63). -/
def accBytes (a : Acc) : List Byte :=
  natLe 12 ((a.m.signExtend 64).toNat + a.e.toNat * 2 ^ 64)

/-- An ACC56 from its twelve bytes, exactly as encoded (R63). -/
def accOfBytes (l : List Byte) : Acc :=
  ⟨BitVec.ofNat 56 (leAt l 0 12), BitVec.ofNat 10 (leAt l 0 12 / 2 ^ 64)⟩

/-- ACC56 to binary32 under a rounding (R71 to R73); zero gives +0. -/
def accTo32 (rtz : Bool) (a : Acc) : W32 × Flags :=
  let c := fEnc fmt32 rtz false (accDy a)
  (BitVec.ofNat 32 c.1, c.2)

/-- One product block of a column: block sum B and unbiased combined scale S (R55). -/
structure BlockSum where
  b : Int
  s : Int
  deriving DecidableEq, Repr

/-- The chunk of R58 over the contributing blocks, with the alignment flags; with none, canonical zero
(R93). -/
def chunkOf (wf af : ElemFmt) (l : List BlockSum) : Acc × Flags :=
  let q := elemQ wf + elemQ af
  let h : Int := (elemB wf + elemB af + 5 : Nat)
  match l.map (fun b => b.s + q + h) with
  | [] => (Acc.zero, 0)
  | x :: xs =>
    let t := xs.foldl max x
    let al := l.map fun b =>
      let s := (t - 52) - (b.s + q)
      if s ≤ 0 then (b.b * pow2 (-s), flagNone) else (asr b.b s.toNat, alignFlags b.b s.toNat)
    let c := (al.map Prod.fst).sum
    (⟨BitVec.ofInt 56 c, BitVec.ofInt 10 (t + 3)⟩, flagsUnion (al.map Prod.snd))

/-! ## Integers (R69, R137) -/

/-- Width in bits of a TYPE code: 1 int8, 2 int16, otherwise 32. -/
def typeW (t : Nat) : Nat := if t = 1 then 8 else if t = 2 then 16 else 32

/-- A lane read as an integer of width `w`. -/
def laneInt (w : Nat) (x : W32) : Int := signedOf w x.toNat

/-- An exact integer narrowed to width `w`, saturating or wrapping, sign-extended to a lane (R69). -/
def intOut (w : Nat) (sat : Bool) (v : Int) : W32 × Flags :=
  let hi : Int := (2 : Int) ^ (w - 1) - 1
  let lo : Int := -(2 : Int) ^ (w - 1)
  if sat then
    if hi < v then (BitVec.ofInt 32 hi, flagOv)
    else if v < lo then (BitVec.ofInt 32 lo, flagOv)
    else (BitVec.ofInt 32 v, 0)
  else (BitVec.ofInt 32 (signedOf w (v % (2 : Int) ^ w).toNat), 0)

/-! ## Conversions (R70 to R74) -/

/-- A binary16 lane as read: NaN is +0 with invalid, infinity the largest binary32 value with overflow,
subnormals are exact. -/
def rd16to32 (x : Nat) : W32 × Flags :=
  let n := bitOf x 15
  let e := bitsOf x 14 10
  let f := bitsOf x 9 0
  if e = 31 then (if f = 0 then (max32 n, flagOv) else (0, flagIv))
  else
    let k : Int := if e = 0 then f else 1024 + f
    let q : Int := if e = 0 then -24 else (e : Int) - 25
    rn ⟨if n then -k else k, q⟩ n

/-- A binary32 lane to binary16 (R72, R73). -/
def cvt32to16 (rtz : Bool) (w : W32) : W32 × Flags :=
  let a := rd32 w
  let x := bitsOf w.toNat 30 23
  let c := fEnc fmt16 rtz (neg32 a.1) (dy32 a.1)
  -- an infinity saturates to the destination's largest value
  (BitVec.ofNat 32 c.1, if x = 255 then a.2 else c.2 ||| a.2)

/-- A binary32 lane to bfloat16. -/
def cvt32toB16 (rtz : Bool) (w : W32) : W32 × Flags :=
  let a := rd32 w
  let x := bitsOf w.toNat 30 23
  let c := fEnc fmtB16 rtz (neg32 a.1) (dy32 a.1)
  (BitVec.ofNat 32 c.1, if x = 255 then a.2 else c.2 ||| a.2)

/-- A binary32 lane to an integer of width `w`, saturating (R72, R73). -/
def cvt32toInt (w : Nat) (rtz : Bool) (x : W32) : W32 × Flags :=
  let a := rd32 x
  let d := dy32 a.1
  let kr := if 0 ≤ d.e then (d.m.natAbs * 2 ^ d.e.toNat, false)
    else roundAt rtz d.m.natAbs (-d.e).toNat
  let v : Int := if d.m < 0 then -(kr.1 : Int) else kr.1
  let r := intOut w true v
  (r.1, if bitsOf x.toNat 30 23 = 255 then a.2 else r.2 ||| a.2 ||| flagIf kr.2 flagIx)

/-- The integer of a lane of width `w` to binary32. -/
def cvtIntTo32 (w : Nat) (rtz : Bool) (x : W32) : W32 × Flags :=
  let c := fEnc fmt32 rtz false ⟨laneInt w x, 0⟩
  (BitVec.ofNat 32 c.1, c.2)

/-- The scale exponent X of a block (R74): FLOOR or FIT over the lanes as read. -/
def blockX (fm : ElemFmt) (fit : Bool) (l : List Dy) : Int :=
  let amax := l.foldl (fun a d => let d' : Dy := ⟨d.m.natAbs, d.e⟩; if dyLt a d' then d' else a) ⟨0, 0⟩
  if amax.m = 0 then -127
  else
    let fl := (amax.m.natAbs.log2 : Int) + amax.e - elemEmax fm
    let top : Dy := ⟨(elemFF fm).maxM, (elemFF fm).maxE + fl⟩
    max (-127) (min 127 (if fit && dyLt top amax then fl + 1 else fl))

/-- One element code of `d / 2^X` (R73, R74): every zero is the +0 code. -/
def encElem (fm : ElemFmt) (rtz : Bool) (x : Int) (d : Dy) : Nat × Flags :=
  match fm with
  | .mxint8 =>
    let e := d.e - x + 6
    let kr := if 0 ≤ e then (d.m.natAbs * 2 ^ (min e 512).toNat, false) else roundAt rtz d.m.natAbs (-e).toNat
    let ov := decide (127 < kr.1)
    let k := min kr.1 127
    let v : Int := if d.m < 0 then -(k : Int) else k
    ((BitVec.ofInt 8 v).toNat,
      flagIf kr.2 flagIx ||| flagIf ov flagOv ||| flagIf (decide (d.m ≠ 0) && decide (k = 0)) flagUn)
  | _ =>
    let F := elemFF fm
    let c := fMag F rtz d.m.natAbs (d.e - x)
    (if c.1 = 0 then 0 else (decide (d.m < 0)).toNat * 2 ^ (F.eb + F.mb) + c.1, c.2)

/-- A block of 32 binary32 lanes to an MX block: scale byte, element codes, flags (R74).  DESIGN CHOICE: an infinity among the inputs is read as
the largest finite value and then scaled and rounded with the block, so it may set inexact, and under FIT need not give the largest element; R73 states
no more than that it saturates.  Log entry 131. -/
def encBlock (fm : ElemFmt) (fit rtz : Bool) (l : List W32) : Byte × List Nat × Flags :=
  let rd := l.map rd32
  let ds := rd.map fun r => dy32 r.1
  let x := blockX fm fit ds
  let allZero := ds.all fun d => d.m == 0
  let es := ds.map (encElem fm rtz x)
  if allZero then (0, l.map fun _ => 0, flagsUnion (rd.map Prod.snd))
  else (BitVec.ofInt 8 (x + 127), es.map Prod.fst, flagsUnion (rd.map Prod.snd) ||| flagsUnion (es.map Prod.snd))

/-- An MX element under its scale byte as binary32 (R46, R49, R73); the flags leave out the invalid flag
of a scale of 0xFF, which is set once for its block. -/
def mxTo32 (fm : ElemFmt) (scale : Byte) (code : Nat) : W32 × Flags :=
  if scale = 0xFF then (0, 0)
  else
    let i := elemSig fm code
    let r := rn ⟨i.1, elemQ fm + (scale.toNat : Int) - 127⟩
    (r.1, r.2 ||| i.2)

/-- A T5 digit under its scale byte as binary32. -/
def t5To32 (scale b : Byte) (k : Nat) : W32 × Flags :=
  if scale = 0xFF then (0, 0) else rn ⟨t5Digit b k, (scale.toNat : Int) - 127⟩

end Sys2Proof.Machine
end

