-- ==== Sys2Proof/Machine/State.lean ====
section
/-! DEFINITION. The state of the panel as plain data, the reasons a step can stop, and reset. -/

namespace Sys2Proof.Machine

open Sys2Proof

/-! ## Reasons to stop -/

/-- Faults of a step: none.  The panel's own faults (R229, R162, R327 and the rest) are records in the state,
not stops, so no command raises a fault of the model. -/
inductive Fault
  deriving DecidableEq, Repr

/-- Refusals of a step. -/
inductive Refusal where
  /-- Raised by the dispatch for a command that has no meaning in this model yet.  Safe. -/
  | notModelled (mnemonic : String)
  /-- Raised by a command whose operands no part of the panel can have (`Instr.wf` is false): a rank,
  die, link, function or reserved code that does not exist, or a micro-op that Herus refuses at staging
  (R116, R123, R219).  Safe. -/
  | illFormed
  deriving DecidableEq, Repr

/-! ## What the outside sees -/

/-- What leaves the panel. -/
inductive Emission where
  /-- A completion record written to slot `slot` of a completion ring (R381). -/
  | record (tenant pair slot : Nat) (bytes : List Byte)
  /-- An MSI-X message (R375). -/
  | msix (fn vector : Nat) (addr : W64) (data : W32)
  /-- Bulk output written to host memory (R426). -/
  | bulk (fn : Nat) (addr : W64) (bytes : List Byte)
  /-- Data of a register read (R569). -/
  | readData (fn off : Nat) (bytes : List Byte)
  /-- A PCIe access ended as an unsupported request. -/
  | ur (fn off : Nat)
  /-- Data of an aperture read (R397). -/
  | apertureData (off : Nat) (bytes : List Byte)
  /-- An MCTP or SMBus reply (R592 to R594). -/
  | mctp (bytes : List Byte)
  /-- Bits shifted out or captured over JTAG (R597). -/
  | jtag (bits : List Bool)
  deriving DecidableEq, Repr

/-! ## Faults and their log (R228, R441) -/

/-- A fault record (R228), field by field. -/
structure FaultRec where
  round : W32 := 0
  epoch : W16 := 0
  stitch : BitVec 48 := 0
  entry : W16 := 0xFFFF
  slot : BitVec 12 := 0
  link : BitVec 4 := 0
  uop : BitVec 13 := 0
  sect : BitVec 12 := 0
  sc : BitVec 3 := 0
  clu : BitVec 2 := 0
  dkind : BitVec 2 := 0
  lrank : Byte := 0xFF
  pcourse : BitVec 4 := 0
  pcol : BitVec 4 := 0
  detail : W16 := 0
  addr : W32 := 0
  replay : Bool := false
  stop : Bool := false
  later : Bool := false
  code : Byte := 0
  deriving DecidableEq, Repr

/-- The fault log: the newest 4,096 records, oldest first, and the sequence number of the next one. -/
structure FaultLog where
  recs : List FaultRec := []
  next : W64 := 0
  deriving DecidableEq, Repr

/-! ## Clusters (chapters 02 to 04) -/

/-- A window of a stream core (R133): base, length, permissions, in granules or 256-byte units. -/
structure Window where
  base : Nat
  len : Nat
  r : Bool
  w : Bool
  deriving DecidableEq, Repr

/-- One level of the loop stack (R126): first descriptor of the body, its length, passes still to run
after the present one. -/
structure LoopFrame where
  first : Nat
  len : Nat
  left : Nat
  deriving DecidableEq, Repr

/-- Kinds of transfer that a stream core has outstanding (R150, R153). -/
inductive XferKind where
  | dmr | dmw | fsn | frv
  deriving DecidableEq, Repr

/-- An outstanding transfer.  `caddr` is in granules, `paddr` in 256-byte units; `msg` is its message number,
`next` the next flit to send, `moved` the number of flits written or acknowledged, `src` the job rank, class and number
of the message that an FRV has matched, `posted` the die's stitch count when it was posted (R36), `tooLong` whether its ADR for a message
longer than its buffer has been raised (R153). -/
structure Xfer where
  kind : XferKind
  paddr : Nat := 0
  caddr : Nat := 0
  flits : Nat := 1
  ctr : Nat := 0
  carry : Bool := false
  tag : Byte := 0
  drank : W16 := 0
  dclass : BitVec 4 := 0
  msg : BitVec 12 := 0
  next : Nat := 0
  moved : Nat := 0
  src : Option (W16 × BitVec 4 × BitVec 12) := none
  posted : BitVec 48 := 0
  tooLong : Bool := false
  deriving DecidableEq, Repr

/-- A stream core (R117).  `store` holds the 8,192 entries of the descriptor store by index: the issue word in bits 15:0, the
descriptor above; `uop` is the index of the next micro-op, `last` the budgeted cycle of the last issue (none: the next micro-op is the
first of its section), `next` the first budgeted cycle of the stitch after that issue, once it has begun. -/
structure Core where
  store : Tab (BitVec 144) := []
  uop : Nat := 0
  last : Option Nat := none
  next : Option Nat := none
  idx : Tab W32 := []
  ct : Tab W32 := []
  masks : Tab (BitVec 256) := []
  v : Tab W32 := []
  loops : List LoopFrame := []
  paused : Option (Nat × W32) := none
  knot : Option (BitVec 12) := none
  cwin : List Window := []
  pwin : List Window := []
  xfers : List Xfer := []
  vbusy : Nat := 0
  deriving DecidableEq, Repr

/-- A tile buffer (R84, R99, R100): loaded columns (0: none), blocks, weight format, the bytes loaded,
the cycle from which the tile can be used and the cycle after the last row of an MMA on it. -/
structure TileBuf where
  ncol : Nat := 0
  kblk : Nat := 0
  wfmt : ElemFmt := .e2m1
  elems : List Byte := []
  scales : List Byte := []
  ready : Nat := 0
  used : Nat := 0
  deriving DecidableEq, Repr

/-- What a micro-op that reads memory over several cycles does with the bytes once it has them (R131, R142 to R144): the candidates of a
VTOPK, ACC56 values to lanes, or the two operands of a merge. -/
inductive GatherOp where
  | topk (core dst k : Nat) (pairs : Bool) (base : W32)
  | acc32 (core dst n : Nat) (rtz : Bool)
  | merge (dst n : Nat)
  deriving DecidableEq, Repr

/-- The ranges of bytes that a gathering micro-op reads in one cycle: of its first and of its second operand. -/
abbrev Piece := (Nat × Nat) × (Nat × Nat)

/-- An effect that comes about in a later budgeted cycle (R121, R123).  The first group becomes visible
in that cycle; the second reads in it and brings about further effects. -/
inductive Eff where
  | idx (core r : Nat) (v : W32)
  | mask (core r : Nat) (v : BitVec 256)
  | lanes (core r : Nat) (l : List (Nat × W32))
  | mem (l : List (Nat × Byte))
  | flags (m v : Flags)
  | chunks (zero : Bool) (l : List (Nat × Acc))
  | ct (core r : Nat)
  | gather (op : GatherOp) (left : List Piece) (a b : List Byte)
  | ssnRead (entry addr ref : Nat)
  | mtlRead (buf scales : Bool) (off total addr n : Nat)
  | mmaRow (buf first : Bool) (row aaddr asaddr : Nat) (af : ElemFmt) (zero : Bool)
      (ncol kblk : Nat) (wf : ElemFmt)
  | mdrRow (row cols mode : Nat) (clr : Bool) (dst : Nat)
  deriving DecidableEq, Repr

/-- An effect and its budgeted cycle; `reads` is set for an effect that reads, which sees every effect
visible from its cycle. -/
structure Pend where
  cycle : Nat
  reads : Bool := false
  eff : Eff
  deriving DecidableEq, Repr

/-- The matrix engine (chapter 03): tile buffers, accumulator file, geometry in force, the cycles from
which each port is free, per accumulator row of 256 entries the cycle from which it can be read and
the last cycle in which a drain reads it, and the counters of R112. -/
structure Matrix where
  buf0 : TileBuf := {}
  buf1 : TileBuf := {}
  acc : Tab Acc := []
  ternary : Bool := false
  wFree : Nat := 0
  aFree : Nat := 0
  dFree : Nat := 0
  rowReady : Tab Nat := []
  rowRead : Tab Nat := []
  waitCount : W32 := 0
  busyCount : W32 := 0
  deriving DecidableEq, Repr

/-- A flit of an SRV that is read in a later stitch (R152): its budgeted cycle, its granule, its landing entry, and the core and
micro-op that a fault record names. -/
structure SrvJob where
  cycle : Nat
  ga : Nat
  entry : Nat
  sc : Nat
  uop : Nat
  deriving DecidableEq, Repr

/-- A set flit that an SSN has handed to the network interface (R152, R248): the stitch and the reference count of the handover, and its
payload (none: nothing handed over). -/
structure Handed where
  stitch : BitVec 48 := 0
  ref : Nat := 0
  payload : List Byte := []
  deriving DecidableEq, Repr

/-- A cluster.  `base` is the number of budgeted cycles before the present stitch and `enter` the first budgeted cycle of the section in
progress; `count` is its own copy of the stitch count (R158), `hdr` the header-switch stages that are closed and `droop` whether its
oscillator has fallen below the droop limit in this stitch (R27, R164); `handed` holds the set flits that its SSNs have handed over and that
have not left, by set-slot entry, `srvs` the flits that its SRVs read in a later stitch; `pausedAt` is the reference count at which the
cluster stopped for a set-section pause; `claims` holds the
banks that scheduled accesses take in coming cycles, each with its claimant code (R130, R229); `drain`
the cycles in which a drain holds the vector lanes; `mrec`, `vrec` its share of the die's round
record (R78); `pausedSet` whether the whole cluster is stopped in a set section (R122); `trim` how far margin trims hold the rail
above its characterised voltage, in mV (R518). -/
structure Cluster where
  cores : Tab Core := []
  mem : Mem := []
  mx : Matrix := {}
  mflags : Flags := 0
  vflags : Flags := 0
  mrec : Flags := 0
  vrec : Flags := 0
  base : Nat := 0
  enter : Nat := 0
  count : BitVec 48 := 0
  hdr : Nat := 0
  droop : Bool := false
  handed : Tab Handed := []
  srvs : List SrvJob := []
  pausedAt : Nat := 0
  inflight : List Pend := []
  claims : List (Nat × Nat × Nat) := []
  drain : List Nat := []
  pausedSet : Bool := false
  trim : Nat := 0
  vceil : Nat := 900
  warnIv : W32 := 0
  quiet : Nat := 0
  extCaused : W32 := 0
  freezeReqs : W32 := 0
  pauseCyc : W32 := 0
  tbu : W32 := 0
  deriving DecidableEq, Repr

/-! ## Dies: timebase, sets, sync chain (chapters 05 and 07) -/

/-- The operating modes, with the codes of MODE_SET. -/
inductive Mode where
  | steady | brisk | lean
  deriving DecidableEq, Repr

/-- A configuration set of a die (R434): set points per mode in MHz, voltage ceilings per cluster in mV,
shaper values by `tenant * 2 + shaper`, and the mode. -/
structure CfgSet where
  spSteady : Nat := 1250
  spBrisk : Nat := 1300
  spLean : Nat := 1000
  vceil : Tab Nat := []
  shapers : Tab (Nat × Nat) := []
  mode : Mode := .steady
  deriving DecidableEq, Repr

/-- A die's part in a pending swap (R190, R193). -/
inductive ArmState where
  | idle | armed | notReady
  deriving DecidableEq, Repr

/-- What every die holds (R158, R78, R190, R224): timebase, timing link, fault counts, arrival at a
knot, flag summary, sets.  `count`, `ref` and the rest are the die's own; `quanta` counts the extension quanta of its present stitch, `arrivedIn`
is the stitch in which it arrived at a knot, and `stale` is set from a swap until Herus has copied the active set into the shadow set (R436). -/
structure Die where
  ref : W64 := 0
  phase : Nat := 0
  len : Nat := 512
  quanta : Nat := 0
  count : BitVec 48 := 0
  epoch : W16 := 0
  depth : BitVec 6 := 0
  depthAlt : BitVec 6 := 0
  slew : Int := 0
  phaseMax : Nat := 0
  warns : W32 := 0
  tbCounts : Tab W32 := []
  tport : Option Nat := none
  holdover : Bool := false
  loadNext : Bool := false
  reporting : Bool := false
  arrived : Option (BitVec 12) := none
  arrivedIn : BitVec 48 := 0
  stale : Bool := false
  pfRun : Nat := 0
  lostRecs : W32 := 0
  summary : BitVec 8 := 0
  active : CfgSet := {}
  shadow : CfgSet := {}
  arm : ArmState := .idle
  swapGot : Option (BitVec 48) := none
  withheld : Bool := false
  lastSwap : W64 := 0
  deriving DecidableEq, Repr

/-- The lodestar (R156 to R177): mode in force, its reference count at the start of its present stitch, form of tick hold in that stitch,
freeze and resume points, totals of R194, the dies whose arrivals and whose nacks have come, the stitch in which the last
arrival came (R186), the dies that swapped at a target that others missed and are still to be returned (R192), and the opcode of the command whose swap
came last (R427). -/
structure Lode where
  mode : Mode := .steady
  startRef : W64 := 0
  quanta : Nat := 0
  stall : Nat := 0
  reported : Bool := false
  stretchedNow : Bool := false
  stretched : W64 := 0
  added : W64 := 0
  freezeAt : Option (BitVec 48) := none
  frozen : Bool := false
  resumeAt : Option (BitVec 48) := none
  holders : List Nat := []
  arrivals : List Nat := []
  arrivedAt : BitVec 48 := 0
  nacks : List Nat := []
  returning : List Nat := []
  swapOp : Nat := 0x31
  deriving DecidableEq, Repr

/-! ## Network interfaces (chapter 07) -/

/-- A free flit sent and not yet acknowledged (R254): its retransmissions so far and whether it is a
read request. -/
structure Sent where
  flit : FreeFlit
  tries : Nat := 0
  deriving DecidableEq, Repr

/-- What a destination holds of one message (R254, R255): the endpoint it is addressed to, the panel-memory address of its flit 0, its flit indices
seen, those not yet acknowledged, those of them that came with CM, and the reference count at its last flit. -/
structure RxMsg where
  srank : W16
  sclass : BitVec 4
  msg : BitVec 12
  drank : W16 := 0
  dclass : BitVec 4 := 0
  base : BitVec 34 := 0
  seen : List Nat := []
  unacked : List Nat := []
  marked : List Nat := []
  at_ : Nat := 0
  deriving DecidableEq, Repr

/-- A rate window (R256); `stamp` orders use, `halved` is the reference count at its last halving. -/
structure RateWin where
  drank : W16
  dclass : BitVec 4
  w : Nat := 32
  acked : Nat := 0
  stamp : Nat := 0
  halved : Option Nat := none
  deriving DecidableEq, Repr

/-- A control packet that a die has sent and not seen acknowledged (R263). -/
structure CtlSent where
  port : Nat
  seq : W16
  bytes : List Byte
  resends : Nat := 0
  deriving DecidableEq, Repr

/-- The network interface and node of one die (chapter 07).  `due` lists the outputs and slots of the
present stitch in which an on-time set flit has left, `used` those in which a replay, a late set flit, a free flit or an idle frame has (R281); `retime` the retiming buffers by output;
`landing` the landing buffer by position (an empty list: full bit clear); `arriving` the flits that have landed in the stitch they were sent
in, by position, which can be read from the next stitch on (R36, R152); `inq` the free flits at the inputs, `inj` those waiting to enter; `halves` the
rate-window halvings of the millisecond `halveWin` (R269). -/
structure NI where
  drained : Bool := false
  due : List (Nat × Nat) := []
  used : List (Nat × Nat) := []
  retime : List (Nat × SetFlit) := []
  landing : Tab (List Byte) := []
  arriving : List (Nat × List Byte) := []
  inq : List (Nat × FreeFlit) := []
  inj : List FreeFlit := []
  sent : List Sent := []
  rx : List RxMsg := []
  wins : List RateWin := []
  held : List FreeFlit := []
  nextMsg : BitVec 12 := 0
  ctlSeq : W16 := 0
  ctlSent : List CtlSent := []
  ctlDown : List Nat := []
  southTrunk : Bool := false
  halveWin : Nat := 0
  halves : Nat := 0
  stamp : Nat := 0
  cnt : Tab W32 := []
  deriving DecidableEq, Repr

/-! ## Links (chapter 08) -/

/-- The link states, with the codes of R274. -/
inductive LinkState where
  | down | training | axust | raw | standby | waking | retraining | disabled | failed
  deriving DecidableEq, Repr

/-- A frame in a replay buffer (R282). -/
structure Framed where
  seq : BitVec 12
  chan : Nat
  hdr : BitVec 128
  payload : List Byte
  tries : Nat := 0
  deriving DecidableEq, Repr

/-- One direction of a link: at the sender the next SEQ, the replay buffer, replays asked for and the
raw count, and the last frame sent, whose SEQ is the raw count on a RAW link; at the receiver the lowest SEQ not received, those received above it,
the NAKs to send and the raw count expected; the landing depth and least margin; the counters of R269 and R299. -/
structure LinkDir where
  nextSeq : BitVec 12 := 0
  buf : List Framed := []
  replays : List (BitVec 12) := []
  rseqTx : BitVec 12 := 0
  wire : Option AxFrame := none
  rxNext : BitVec 12 := 0
  rxGot : List (BitVec 12) := []
  naks : List (BitVec 12) := []
  rseqRx : BitVec 12 := 0
  depth : BitVec 6 := 0
  margin : Nat := 63
  load : Nat := 0
  cnt : Tab W32 := []
  deriving DecidableEq, Repr

/-- A die-to-die link, kept under its leading end (R273): state, working data lanes of the two modules,
frame bundles, the frame lanes that each module's two bundles have lost (R271), status bits of R298, an action in progress, outstanding requests of the leader and
the follower, and its two directions (0 from the leader). -/
structure Link where
  state : LinkState := .down
  lanes0 : Nat := 0
  lanes1 : Nat := 0
  fb0 : Bool := false
  fb1 : Bool := false
  frame0 : Nat × Nat := (0, 0)
  frame1 : Nat × Nat := (0, 0)
  overc : Bool := false
  saved : Bool := false
  sbfail : Bool := false
  failwhy : Nat := 0
  acting : Bool := false
  reqLead : Option SideReq := none
  reqFollow : Option SideReq := none
  d0 : LinkDir := {}
  d1 : LinkDir := {}
  cnt : Tab W32 := []
  deriving DecidableEq, Repr

/-! ## Panel memory (chapter 09) -/

/-- The stack states, with the codes of R301. -/
inductive StackState where
  | inService | out | dead | rebuilding
  deriving DecidableEq, Repr

/-- A memory stack: state, hottest sensor, refresh code, cause of the last loss, the operations that its base die has queued, oldest first
(R309), counters of R329. -/
structure Stack where
  state : StackState := .inService
  temp : Nat := 0
  refresh : Nat := 0
  outwhy : Nat := 0
  queue : List FreeFlit := []
  cnt : Tab W32 := []
  deriving DecidableEq, Repr

/-- Panel memory.  `data` holds each unit's bytes at `PADDR * 256 + offset`, stored or implied by its
row's parity (R318); `poison` the poisoned sectors of each unit (R313); stacks by `6 c + m`; `scrubRow` is the row that each
stripe's scrub takes next, all rows of the pass having been taken at 2^28, `scrubLast` the row it took last, `deferred` the rows that it visits again
after the last row of the pass (R322). -/
structure PanelMem where
  data : Mem := []
  poison : Tab (BitVec 4) := []
  stk : Tab Stack := []
  failed : List Nat := []
  rebuild : Option (Nat × Nat) := none
  scrubRow : Tab Nat := []
  scrubLast : Tab Nat := []
  deferred : Tab (List Nat) := []
  rebuildRow : Nat := 0
  period : Nat := 24
  deriving DecidableEq, Repr

/-! ## Grid (chapters 00, 01 and 14) -/

/-- The logical grid and what of it has failed: the skip of each wale (R14), retired sites
and lost courses (physical), dies that are silent, and the active anchor (`true`: ANC-S). -/
structure Grid where
  skip : List Nat := List.replicate 12 11
  retired : List Nat := []
  lostCourses : List Nat := []
  silent : List Nat := []
  impaired : List Nat := []
  anchorS : Bool := false
  changed : BitVec 64 := 0
  deriving DecidableEq, Repr

/-! ## Patterns (chapter 06) -/

/-- The patterns Herus holds (R218) as image bytes, after relocation for the committed and the running
one, and the run of the running one: section, its first stitch, whether a section is executing,
whether the round in progress is a replay, has raised a pattern fault (R225), and how often a
hardware cause has aborted it (R490); `memReplay` lists poisoned sectors whose reading has been replayed
(R313), `stopAtEnd` is set while a stop waits for the round-ending knot, `aborted` counts the requests
that the last stop completed with ABORTED, `resident` lists the ranges of panel memory, as first unit and units, to which the resident image
was written (R221, R313), `runFrom` is the sequence number of the first fault record
of the present run of the round. -/
structure Pattern where
  staged : Option (List Byte) := none
  committed : Option (List Byte) := none
  running : Option (List Byte) := none
  sect : Nat := 0
  first : BitVec 48 := 0
  inSect : Bool := false
  replay : Bool := false
  pfRound : Bool := false
  aborts : Nat := 0
  tbsReplay : Bool := false
  memReplay : List Nat := []
  stopAtEnd : Bool := false
  lgrAtEnd : Option (Nat × Nat) := none
  aborted : Nat := 0
  resident : List (Nat × Nat) := []
  runFrom : Nat := 0
  deriving DecidableEq, Repr

/-! ## Sessions, requests and rounds (chapters 10 and 16) -/

/-- The session states, with the codes of R337. -/
inductive SessState where
  | free | active | marked | parked | unparking | failed
  deriving DecidableEq, Repr

/-- A session-table entry (R338), kept by index, with what the round controller knows of it: its pages and
page-table blocks in order (tentative ones last), the rounds for which a failed copy keeps it from
being marked again (R370), and whether an import rebuilds it, so that
it carries no handle (R553). -/
structure Session where
  gen : Nat := 1
  state : SessState := .free
  tenant : Nat := 0
  seed : W64 := 0
  step : W32 := 0
  len : Nat := 0
  npage : Nat := 0
  idle : W32 := 0
  pport : Byte := 0xFF
  paddr : W64 := 0
  tailpos : W32 := 0
  lastRound : W64 := 0
  pages : List Nat := []
  blocks : List Nat := []
  noMark : W32 := 0
  rebuild : Bool := false
  deriving DecidableEq, Repr

/-- A fetched ring request (R349, R383).  `id` orders fetches; `op` is the descriptor's OP; `toks` the
tokens, absent until the token array has arrived (R384); `left` the tokens or rounds still to do;
`started` whether it has been admitted before, `inRound` whether the round in progress holds it;
`cancelled` whether a CANCEL ends it at the commit; `resv` completion entries reserved; `intern`
the function whose SESSION_IMPORT it rebuilds for; `late` whether a DRAFT has found no room (R350). -/
structure Req where
  id : Nat
  tenant : Nat
  pair : Nat
  op : Nat
  d : Desc
  index : Nat := 0
  toks : Option (List W32) := none
  left : Nat := 0
  applied : Nat := 0
  clamped : Bool := false
  started : Bool := false
  inRound : Bool := false
  cancelled : Bool := false
  waitPages : Bool := false
  resv : Nat := 0
  intern : Option Nat := none
  late : Bool := false
  deriving DecidableEq, Repr

/-- One session's part in a round: its request, kind (KIND of R357), the first position its rows consume,
the rows, d, and the APPEND tokens that the commit adds. -/
structure Part where
  req : Nat
  index : Nat
  kind : Nat
  pos : Nat
  rows : Nat
  d : Nat := 0
  toks : List W32 := []
  live : Bool := true
  deriving DecidableEq, Repr

/-- The session layout in force (R343 to R346): allocation A, bases and counts in 256-byte units where
they are places, the applied values of the session-layout record, and the release and source of the pattern last
started (R549). -/
structure Layout where
  alloc : Nat := 0
  npool : Nat := 0
  nblk : Nat := 0
  dirb : Nat := 0
  blkb : Nat := 0
  histb : Nat := 0
  tailb : Nat := 0
  poolb : Nat := 0
  appendMax : Nat := 1
  tailLen : Nat := 0
  vocab : Nat := 1
  pslice : List Nat := [0, 0, 0, 0, 0, 0]
  desc0 : Nat := 0
  desc1 : Nat := 0
  toolrel : Nat := 0
  srcid : List Byte := []
  deriving DecidableEq, Repr

/-- Invalidation messages on their way to one unit that caches session lines (R372): the die of the round controller that sent them,
the unit's job rank, their MSG, and the released pages and blocks that they name. -/
structure Inval where
  die : Nat
  drank : W16
  msg : BitVec 12
  pages : List Nat
  blocks : List Nat
  deriving DecidableEq, Repr

/-- The round controller (R330 to R372): the number of the last round admitted and of the last one
committed, whether a round is in progress with its parts, the fetched requests, the free list of
indices as ranges, the tenant that began the last turn, the layout, and the round fence (R560);
`freshOpen` is set from the fence's opening until the next round (R561).  `lines` are the 64-byte lines of the session table, the directories and the
blocks that have changed, and `gonePages` and `goneBlocks` what was released, since invalidations were last sent; `invals` the invalidations on their way and
`invalMsg` the next MSG of one (R372). -/
structure Round where
  no : W64 := 0
  last : W64 := 0
  active : Bool := false
  parts : List Part := []
  kstitch : BitVec 48 := 0
  reqs : List Req := []
  nextId : Nat := 0
  freeIdx : List (Nat × Nat) := []
  turn : Nat := 63
  layout : Option Layout := none
  fence : Bool := false
  fenceSess : List Nat := []
  freshOpen : Bool := false
  flagRound : W32 := 0
  panelFlags : Byte := 0
  lines : List Nat := []
  gonePages : List Nat := []
  goneBlocks : List Nat := []
  invals : List Inval := []
  invalMsg : BitVec 12 := 0
  deriving DecidableEq, Repr

/-! ## Rings, tenants and park memory (chapter 11) -/

/-- A ring pair (R378, R379).  `posted` holds the descriptors that the host has written, by index, and
`hostNext` the index of the next one it writes; `cqTail` counts records written, `cqHead` those
returned, both without wrap; `held` are records kept while bus mastering is off (R377). -/
structure RingPair where
  en : Bool := false
  k : Nat := 6
  sqbase : W64 := 0
  cqbase : W64 := 0
  sqTail : Nat := 0
  tailWas : Nat := 0
  tailAt : Option (BitVec 48) := none
  sqHead : Nat := 0
  cqHead : Nat := 0
  cqTail : Nat := 0
  err : Bool := false
  why : Nat := 0
  posted : Tab (Nat × Desc) := []
  hostNext : Nat := 0
  held : List (Nat × List Byte) := []
  deriving DecidableEq, Repr

/-- A token-bucket shaper (R391, R392): rate (0xFFFF_FFFF: unlimited), depth, balance with 24 fractional
bits, remainder below them in units of 2^-24 token / (2 * 10^9), reference count of the last update. -/
structure Shaper where
  rate : Nat := 0xFFFFFFFF
  depth : Nat := 1048576
  bal : Int := 1048576 * 16777216
  rem : Nat := 0
  at_ : W64 := 0
  deriving DecidableEq, Repr

/-- A tenant's window (R389): stripe, offset and length in 256-byte units. -/
structure TWin where
  stripe : Nat := 0
  off : Nat := 0
  len : Nat := 0
  deriving DecidableEq, Repr

/-- A tenant (R387, R394): its parameters, rings, shapers, epoch, whether a tenant reset is under way, and
the ring that supplied its last admitted request. -/
structure Tenant where
  quota : Nat := 0
  age : W32 := 0
  win : TWin := {}
  rings : Tab RingPair := []
  prompt : Shaper := {}
  gener : Shaper := {}
  epoch : W16 := 0
  resetting : Bool := false
  lastRing : Nat := 7
  deriving DecidableEq, Repr

/-- The states of a park port (R400), with the codes of R445. -/
inductive ParkState where
  | inService | down | empty
  deriving DecidableEq, Repr

/-- A copy to park memory or an unpark in progress (R367, R369, R402).  `done` is set when its writes are
acknowledged; `again` when it has been placed a second time (R404); `bind` when a bind-off marked it
(R479). -/
structure ParkJob where
  index : Nat
  unpark : Bool := false
  addr : Nat := 0
  bytes : Nat := 0
  done : Bool := false
  again : Bool := false
  bind : Bool := false
  deriving DecidableEq, Repr

/-- A parked image (R367, R401): its place and what it holds: for each page its slices of the six stripes
and its history block, as memories from 0; `going` once unparked, until the next boundary frees it
(R369). -/
structure ParkImage where
  index : Nat
  addr : Nat
  bytes : Nat
  going : Bool := false
  pages : List (List Mem × Mem) := []
  deriving DecidableEq, Repr

/-- A park port: state, capacity in 4 KiB pages, images, copies in progress, and the counts of a bind-off
under way (R406): attempted, parked, placed elsewhere, failed, bytes. -/
structure ParkPort where
  state : ParkState := .down
  cap : Nat := 0
  images : List ParkImage := []
  jobs : List ParkJob := []
  tried : Nat := 0
  parked : Nat := 0
  replaced : Nat := 0
  failed : Nat := 0
  bytes : Nat := 0
  copyFails : W32 := 0
  deriving DecidableEq, Repr

/-- Weight intake (R396 to R399): the target while one is open, and the counts since the last close. -/
structure Intake where
  open_ : Bool := false
  base : Nat := 0
  len : Nat := 0
  woff : Nat := 0
  sectors : W64 := 0
  discPart : W64 := 0
  discMap : W64 := 0
  deriving DecidableEq, Repr

/-! ## Functions, mailboxes and long commands (chapters 12 and 17) -/

/-- What a long command waits for (R418). -/
inductive LongOp where
  | stop
  | flagsClear (mask : Byte)
  | swap (target : BitVec 48) (checked : W64)
  | mode (m : Mode)
  | window (tenant : Nat) (cfg : TenantCfg)
  | tenantReset (tenant : Nat) (freed : Nat)
  | retire (die : Nat)
  | import_ (index : Nat)
  | fence
  | bindOff
  deriving DecidableEq, Repr

/-- The mailbox of a function (R407 to R414): request and response areas as 32-bit words, control
registers, the event queue, and whether a response is to be dropped after a reset (R414). -/
structure Mailbox where
  req : Tab W32 := []
  rsp : Tab W32 := []
  tag : W32 := 0
  own : Bool := false
  taken : Bool := false
  cls : Nat := 0
  rsptag : W32 := 0xFFFFFFFF
  head : Nat := 0
  tail : Nat := 0
  lost : W32 := 0
  events : Tab (List Byte) := []
  dropped : Bool := false
  long : Option (MbReq × LongOp) := none
  deriving DecidableEq, Repr

/-- A function of the host ports (chapters 11 and 17), kept under FUNC of R573: mailbox, timers, interrupt
causes, MSI-X table and pending bits (R375), bus-master enable, messages held, latches of R570, the
counters of R576 by word offset from 0x0001_0000, and whether a record of this boundary awaits vector 1
(R386). -/
structure Func where
  mb : Mailbox := {}
  timers : Tab (Option (BitVec 48)) := []
  cause : W32 := 0
  msix : Tab W32 := [(3, 1), (7, 1), (11, 1), (15, 1)]
  pba : BitVec 4 := 0
  bme : Bool := false
  heldMsix : List Nat := []
  latch : Tab (Option W32) := []
  cnt : Tab W32 := []
  cqDue : Bool := false
  deriving DecidableEq, Repr

/-- A configuration-set swap that is pending (R190, R193, R222). -/
inductive SwapKind where
  | sets | mode (m : Mode) | window (tenant : Nat)
  deriving DecidableEq, Repr

/-- The pending swap: kind, requesting function, target when one is named, dies that answered armed,
the mode that shadow sets held before a MODE_SET (R193), the lodestar's reference count when the request was taken up, whether the swap frame
has been sent and whether it is withheld. -/
structure Swap where
  kind : SwapKind
  fn : Nat
  since : W64 := 0
  old : Mode := .steady
  target : Option (BitVec 48) := none
  armed : List Nat := []
  sent : Bool := false
  withheld : Bool := false
  deriving DecidableEq, Repr

/-! ## Lifecycle (chapter 13) -/

/-- The kinds of reset of RKIND (R474). -/
inductive ResetKind where
  | cold | warm | fabric
  deriving DecidableEq, Repr

/-- What the board's flash and the OTP hold (R458, R459): the licence area, the two firmware slots by
version, the boot slot, the staged slot, the saved record with its firmware version and serial, skips and retired
sites, link settings with landing depths, sync depths on both paths by die and the mean coolant temperature at calibration in hundredths of a degree
(R185), the stacks of the stack map not in service, the version floor, and a CO0 failure held by the
boot ROM. -/
structure Flash where
  lic : Option Licence := none
  slotA : Option Firmware := some {}
  slotB : Option Firmware := none
  bootB : Bool := false
  staged : Option Firmware := none
  saved : Option W32 := none
  savedSerial : List Byte := []
  savedLinks : Tab Link := []
  savedSync : Tab (BitVec 6 × BitVec 6) := []
  savedCoolant : Int := 0
  savedSkip : List Nat := List.replicate 12 11
  retired : List Nat := []
  lostStacks : List Nat := []
  floor : Nat := 0
  co0Fail : List (Nat × Nat) := []
  deriving DecidableEq, Repr

/-- The boot state (R432, R474): PSTATE, PHASE, kinds and flags, failure fields, the courses lost at the
last cast-on, warm reset due after a response, reset held, the anchor that is out, and the codes of a
bind-off in progress, whether its marks have been placed (step 4 of R479), the sessions that have become
FAILED in it, what a cast-on that waits in CO0 or CO1 meets, and the courses it waits for. -/
structure Boot where
  pstate : Nat := 0
  phase : Nat := 0
  kind : ResetKind := .cold
  fast : Bool := false
  zeroed : Bool := false
  nolic : Bool := false
  fwfall : Bool := false
  nostby : Bool := false
  lostc : List Nat := []
  attempt : Nat := 1
  wait : Nat := 0
  failDie : Byte := 0xFF
  failPh : Nat := 0
  failWhy : W16 := 0
  failed : Bool := false
  heldRst : Bool := false
  warmDue : Bool := false
  trip : Bool := false
  dead : Bool := false
  ancNOut : Bool := false
  supplyLost : Bool := false
  binding : Option (Nat × Nat) := none
  bound : Bool := false
  boundGood : List Nat := []
  bindMarked : Bool := false
  bindFailed : Nat := 0
  classB : Bool := false
  co4Done : Bool := false
  fwver : W32 := 0
  co3Done : Bool := false
  cast : Option CastOnEnv := none
  lic : Option Licence := none
  licNext : Option Licence := none
  good : List Nat := List.range 12
  waiting : List Nat := []
  vinGone : List Nat := []
  tripRec : Option FaultRec := none
  deriving DecidableEq, Repr

/-! ## Health, power and cooling (chapters 14 and 15) -/

/-- A thermal-cycle counter of a die (R545, R546). -/
structure Cycles where
  up : Bool := false
  hi : Nat := 0
  lo : Nat := 0
  half : Nat := 0
  hot : Nat := 0
  most : Nat := 0
  deriving DecidableEq, Repr

/-- Repair policy and health (R506 to R509; `scoredAt` is the reference count at the last scoring): scores by part (die index, or 256 + course, or 512 + 8 d + p
for a link end), scorings below SCOREMIN, the counters' values at past whole minutes, charged faults with
their reference counts, denials by site and cause with the reference count at which the cause was last present, planned
repairs, and the repairs done since cast-on. -/
structure Health where
  impaired : Nat := 0
  scoreMin : Nat := 0
  repeats : Nat := 4
  scores : Tab Nat := []
  low : Tab Nat := []
  minute : Nat := 0
  snaps : List (Tab Nat) := []
  charged : List (Nat × W64) := []
  denied : List (Nat × Nat × W64) := []
  planned : List (Nat × Nat) := []
  repairs : Nat := 0
  stale : Bool := false
  scoredAt : W64 := 0
  pfCount : Tab Nat := []
  deriving DecidableEq, Repr

/-- Power (R511 to R534): host cap, cap set point, duties, the pause in progress and its idle means, course
and throttle set points in MHz, the dies last seen throttled (R539), brownout state, course counters by `16 * course + item` (R547), the last
means, the cap last reported with the reference count of that report (R531), and the reference counts of the last rise
of the cap set point (R527) and of the last over-current warning of each course (R523). -/
structure Power where
  hostCap : Nat := 10500
  capSp : Nat := 1350
  duty : Nat := 32
  dtherm : Nat := 32
  paceNeeded : Bool := false
  pause : Nat := 0
  idle : Draws := ⟨1300, 1000, 300⟩
  draws : Draws := ⟨0, 0, 0⟩
  courseSp : Tab Nat := []
  throttle : Tab Nat := []
  throttled : List Nat := []
  warn : Bool := false
  warnDone : Bool := false
  leanDue : Bool := false
  forced : Option (BitVec 48) := none
  lastEff : Nat := 10500
  effAt : Option W64 := none
  capRose : Option W64 := none
  ocAt : Tab (Option W64) := []
  cnt : Tab W32 := []
  deriving DecidableEq, Repr

/-- Cooling (R535 to R546): inlets in 0.01 degrees, accepted resistance measurements in K/W (newest first),
those stored in flash, allowances and thermal cap, die temperatures, cycle counts live and in flash, and
THERM_ALERT_N. -/
structure Thermal where
  tmem : Int := 4000
  tcmp : Int := 4000
  rc : List Rat := []
  rm : List Rat := []
  storedC : Option Rat := none
  storedM : Option Rat := none
  pc : Nat := 8620
  pm : Nat := 3000
  cap : Nat := 11500
  temps : Tab Nat := []
  cycles : Tab Cycles := []
  stored : Tab Cycles := []
  alert : Bool := false
  deriving DecidableEq, Repr

/-! ## Pins, SMBus, JTAG (chapter 18) -/

/-- Management and pins: the MCTP endpoint identifier, the JTAG instruction (0 BYPASS, 1 SAMPLE/PRELOAD,
2 EXTEST), bypass bit and boundary register (R597), PERST_N of the host ports asserted, park-port PERST_N
asserted, and the number of VFs enabled (R374). -/
structure Pins where
  eid : Option Byte := none
  jtagIr : Nat := 0
  jtagBypass : Bool := false
  boundary : List Bool := []
  driven : Option (List Bool) := none
  hostPerst : List Nat := [0, 1]
  parkPerst : List Nat := [0, 1, 2, 3, 4, 5]
  numVfs : Nat := 0
  deriving DecidableEq, Repr

/-! ## The whole state -/

/-- The panel: the queue of waiting commands (first in, first out), what has left the panel (newest first),
the counter that picks free values (the model's own), and every part of the hardware; `served` is the
function that Herus served last in each class (R417), PF1 where it has served none. -/
structure State where
  pending : List Instr := []
  out : List Emission := []
  free : Nat := 0
  grid : Grid := {}
  lode : Lode := {}
  dies : Tab Die := []
  clus : Tab Cluster := []
  nis : Tab NI := []
  links : Tab Link := []
  pmem : PanelMem := {}
  flog : FaultLog := {}
  pat : Pattern := {}
  rnd : Round := {}
  sess : Tab Session := []
  ten : Tab Tenant := []
  park : Tab ParkPort := []
  intake : Intake := {}
  fns : Tab Func := []
  served : Tab Nat := []
  swp : Option Swap := none
  flash : Flash := {}
  boot : Boot := {}
  hlt : Health := {}
  pwr : Power := {}
  thm : Thermal := {}
  pins : Pins := {}
  deriving DecidableEq, Repr

/-- The panel right after reset (R448, R474): every register at its reset value, memory with nothing
listed, nothing waiting. -/
def State.reset : State := {}

end Sys2Proof.Machine
end

