-- ==== Sys2Proof/Machine/Operands.lean ====
section
/-! DEFINITION. Operand forms of micro-ops: index registers, addresses, windows, bank claims and the
effects in flight of a cluster (chapter 04). -/

namespace Sys2Proof.Machine

open Sys2Proof

/-! ## Registers of a stream core (R117) -/

/-- The core `n` of a cluster. -/
def cluCore (c : Cluster) (n : Nat) : Core := tabGet {} c.cores n

/-- A cluster with core `n` changed. -/
def cluSetCore (c : Cluster) (n : Nat) (k : Core) : Cluster := { c with cores := tabPut {} c.cores n k }

/-- An index register; I0 reads 0. -/
def coreIdx (k : Core) (r : Nat) : W32 := if r = 0 then 0 else tabGet 0 k.idx r

/-- Write an index register; writes to I0 are ignored. -/
def coreSetIdx (k : Core) (r : Nat) (v : W32) : Core :=
  if r = 0 then k else { k with idx := tabPut 0 k.idx r v }

/-- A completion counter. -/
def coreCt (k : Core) (r : Nat) : W32 := tabGet 0 k.ct r

/-- Write a completion counter. -/
def coreSetCt (k : Core) (r : Nat) (v : W32) : Core := { k with ct := tabPut 0 k.ct r v }

/-- A row mask; selector 0 is every row live (R102). -/
def coreMask (k : Core) (r : Nat) : BitVec 256 :=
  if r = 0 then BitVec.allOnes 256 else tabGet 0 k.masks r

/-- Lane `l` of vector register `r`. -/
def coreLane (k : Core) (r l : Nat) : W32 := tabGet 0 k.v (r * 64 + l)

/-- Write lanes of a vector register. -/
def coreSetLanes (k : Core) (r : Nat) (l : List (Nat × W32)) : Core :=
  { k with v := tabPuts 0 k.v (l.map fun p => (r * 64 + p.1, p.2)) }

/-! ## Addresses and windows (R129, R133) -/

/-- Number of granules of cluster memory (R129). -/
def granules : Nat := 0x60000

/-- An address field with an index register added, modulo 2^32 (R133). -/
def ixAdd (a : Nat) (i : W32) : Nat := (a + i.toNat) % 2 ^ 32

/-- Whether the range of `n` units from `a` lies wholly within one window with the permission. -/
def inWindow (ws : List Window) (write : Bool) (a n : Nat) : Bool :=
  ws.any fun x => decide (x.base ≤ a) && decide (a + n ≤ x.base + x.len) && decide (0 < x.len) &&
    (if write then x.w else x.r)

/-- Whether the bytes `a` to `a + n - 1` of cluster memory may be touched. -/
def bytesOk (k : Core) (write : Bool) (a n : Nat) : Bool :=
  n == 0 || (decide (a + n ≤ granules * 64) &&
    inWindow k.cwin write (a / 64) ((a + n - 1) / 64 + 1 - a / 64))

/-- The granules that the bytes `a` to `a + n - 1` cover (R131). -/
def granulesOf (a n : Nat) : List Nat :=
  if n = 0 then [] else (List.range ((a + n - 1) / 64 + 1 - a / 64)).map (· + a / 64)

/-! ## Pattern faults of a micro-op (R229) -/

/-- What a micro-op reports of a pattern fault. -/
structure Pf where
  code : Byte
  detail : W16 := 0
  addr : W32 := 0
  entry : W16 := 0xFFFF
  link : BitVec 4 := 0
  slot : Option (BitVec 12) := none
  deriving DecidableEq, Repr

/-- ADR with its kind (R229) and the offending value. -/
def pfAdr (kind v : Nat) : Pf := { code := 0x05, detail := BitVec.ofNat 16 kind, addr := BitVec.ofNat 32 v }

/-- BCL with its kind, the earlier claimant, the bank or unit, and the granule (R229). -/
def pfBcl (kind claimant unit granule : Nat) : Pf :=
  { code := 0x03, detail := BitVec.ofNat 16 (kind * 8192 + claimant * 256 + unit),
    addr := BitVec.ofNat 32 granule }

/-! ## Bank claims (R130, R131) -/

/-- The granule accesses of a micro-op: budgeted cycle and granule. -/
abbrev Accesses := List (Nat × Nat)

/-- The bank of a granule (R129). -/
def bankOf (g : Nat) : Nat := g % 32

/-- The claimant that holds a bank in a cycle. -/
def claimFind (cl : List (Nat × Nat × Nat)) (cyc bank : Nat) : Option Nat :=
  (cl.find? fun x => x.1 == cyc && x.2.1 == bank).map fun x => x.2.2

/-- Add accesses one by one; the first that clashes is a BCL. -/
def claimAll (who : Nat) : Accesses → List (Nat × Nat × Nat) → List (Nat × Nat × Nat) ⊕ Pf
  | [], cl => .inl cl
  | (t, g) :: l, cl =>
    match claimFind cl t (bankOf g) with
    | some w => .inr (pfBcl 0 w (bankOf g) g)
    | none => claimAll who l ((t, bankOf g, who) :: cl)

/-! ## Effects in flight -/

/-- Rising order of effects: by cycle, what becomes visible before what reads. -/
def pendKey (p : Pend) : Nat := 2 * p.cycle + p.reads.toNat

/-- Add an effect behind those of the same place. -/
def pendIns (p : Pend) : List Pend → List Pend
  | [] => [p]
  | q :: l => if pendKey p < pendKey q then p :: q :: l else q :: pendIns p l

/-- Add several effects to a cluster. -/
def cluPend (c : Cluster) (l : List Pend) : Cluster :=
  { c with inflight := l.foldl (fun acc p => pendIns p acc) c.inflight }

/-- Flags set in a cluster's engines, with its share of the round record (R77, R78). -/
def cluFlags (c : Cluster) (m v : Flags) : Cluster :=
  { c with mflags := c.mflags ||| m, vflags := c.vflags ||| v, mrec := c.mrec ||| m, vrec := c.vrec ||| v }

/-! ### A row of an MMA (R91 to R94, R106) -/

/-- Significand and flags of element `k` of block `j` of column `n` of a tile. -/
def tileElem (b : TileBuf) (kblk : Nat) (wf : ElemFmt) (n j k : Nat) : Int × Flags :=
  let i := n * kblk * 32 + j * 32 + k
  match wf with
  | .t5 =>
    let x := (b.elems.drop (t5ElemOff i)).headD 0
    (t5Digit x (i % 65536 % 5), flagIf (!t5Valid x) flagIv)
  | _ => elemSig wf (packedElem (elemW wf) b.elems i)

/-- Scale byte of block `j` of column `n` of a tile. -/
def tileScale (b : TileBuf) (ncol kblk : Nat) (wf : ElemFmt) (n j : Nat) : Byte :=
  match wf with
  | .t5 => (b.elems.drop (t5ScaleOff (ncol * kblk * 32) (n * kblk * 32 + j * 32))).headD 0
  | _ => (b.scales.drop (n * kblk + j)).headD 0

/-- Significands and flags of the activation elements of one block. -/
def actBlock (row : List Byte) (af : ElemFmt) (j : Nat) : List (Int × Flags) :=
  (List.range 32).map fun k => elemSig af ((row.drop (j * 32 + k)).headD 0).toNat

/-- The chunk of one column for one row, with the flags of its alignment; a block with an invalid scale on either side is excluded
(R92). -/
def columnChunk (b : TileBuf) (row scales : List Byte) (af : ElemFmt) (ncol kblk : Nat) (wf : ElemFmt)
    (n : Nat) : Acc × Flags :=
  let blocks := (List.range kblk).filterMap fun j =>
    let sw := tileScale b ncol kblk wf n j
    let sa := (scales.drop j).headD 0
    if sw = 0xFF ∨ sa = 0xFF then none
    else
      let ws := (List.range 32).map (tileElem b kblk wf n j)
      let sum := ((ws.zip (actBlock row af j)).map fun p => p.1.1 * p.2.1).sum
      some (⟨sum, (sw.toNat : Int) - 127 + ((sa.toNat : Int) - 127)⟩ : BlockSum)
  chunkOf wf af blocks

/-- Flags that the blocks of one column of a tile carry: invalid scales, special codes and invalid T5 bytes (R106).  A special code sets its
flag whatever the other side's scale is, which the manual leaves open (log entry 125). -/
def columnFlags (b : TileBuf) (ncol kblk : Nat) (wf : ElemFmt) (n : Nat) : Flags :=
  flagsUnion ((List.range kblk).map fun j =>
    if tileScale b ncol kblk wf n j = 0xFF then flagIv
    else flagsUnion ((List.range 32).map fun k => (tileElem b kblk wf n j k).2))

/-- Flags that an activation row carries: invalid scales and special codes (R106), whatever the weight scales are (log entry 125). -/
def rowFlags (row scales : List Byte) (af : ElemFmt) (kblk : Nat) : Flags :=
  flagsUnion ((List.range kblk).map fun j =>
    if (scales.drop j).headD 0 = 0xFF then flagIv else flagsUnion ((actBlock row af j).map Prod.snd))

/-- Columns of a geometry (R89). -/
def geomCols (ternary : Bool) : Nat := if ternary then 512 else 256

/-- Rows of a geometry (R89). -/
def geomRows (ternary : Bool) : Nat := if ternary then 128 else 256

/-- An accumulator entry. -/
def accAt (m : Matrix) (i : Nat) : Acc := tabGet Acc.zero m.acc i

/-! ### Reads over several cycles (R131, R142 to R144) -/

/-- Whether candidate `a` ranks before `b`: larger value first, -0 equal to +0, then smaller index. -/
def topkBefore (a b : W32 × W32) : Bool :=
  dyLt (dy32 b.1) (dy32 a.1) || (dyEq (dy32 a.1) (dy32 b.1) && decide (a.2.toNat < b.2.toNat))

/-- Insert a candidate into a ranked list. -/
def topkIns (a : W32 × W32) : List (W32 × W32) → List (W32 × W32)
  | [] => [a]
  | b :: l => if topkBefore a b then a :: b :: l else b :: topkIns a l

/-- The best `k` candidates, ranked. -/
def topk (k : Nat) (l : List (W32 × W32)) : List (W32 × W32) :=
  l.foldl (fun acc a => (topkIns a acc).take k) []

/-- The little-endian word at a byte offset of a list of bytes. -/
def wordAt (l : List Byte) (o : Nat) : W32 := BitVec.ofNat 32 (leAt l o 4)

/-- The candidates that the bytes of a VTOPK hold, each with its index and the flags of reading it. -/
def topkCands (pairs : Bool) (base : W32) (l : List Byte) : List ((W32 × W32) × Flags) :=
  let w := if pairs then 8 else 4
  (List.range (l.length / w)).map fun i =>
    let v := rd32 (wordAt l (i * w))
    ((v.1, if pairs then wordAt l (i * w + 4) else base + BitVec.ofNat 32 i), v.2)

/-- The accumulator values in a list of bytes, 12 bytes each. -/
def accsOf (n : Nat) (l : List Byte) : List Acc := (List.range n).map fun i => accOfBytes ((l.drop (12 * i)).take 12)

/-- The steps of a merge: each accumulator with its incoming value (R144). -/
def mergeSteps (n : Nat) (a b : List Byte) : List (Acc × Flags) :=
  ((accsOf n a).zip (accsOf n b)).map fun p => accStep p.1 p.2

/-- What follows the last read of a gathering micro-op, in cycle `t`: VTOPK and the ACC56 source write their lanes, the merge writes the
accumulators, which can be read at issue + 13, and sets the flags of each value in the cycle that writes it, from issue + 10 on (R145). -/
def gatherEnd (t : Nat) (op : GatherOp) (a b : List Byte) : List Pend :=
  match op with
  | .topk core dst k pairs base =>
    let cand := topkCands pairs base a
    let best := (topk k (cand.map Prod.fst)).zipIdx
    [{ cycle := t + k + 7, eff := .flags 0 (flagsUnion (cand.map Prod.snd)) },
     { cycle := t + k + 7, eff := .lanes core dst (best.map fun p => (p.2, p.1.1)) },
     { cycle := t + k + 7, eff := .lanes core (dst + 1) (best.map fun p => (p.2, p.1.2)) }]
  | .acc32 core dst n rtz =>
    let r := (accsOf n a).map (accTo32 rtz)
    [{ cycle := t + 8, eff := .flags 0 (flagsUnion (r.map Prod.snd)) },
     { cycle := t + 8, eff := .lanes core dst (r.zipIdx.map fun p => (p.2, p.1.1)) }]
  | .merge dst n =>
    let st := mergeSteps n a b
    let fl := fun j => flagsUnion ((st.zipIdx.filter fun p => (12 * p.2 + 11) / 256 == j).map fun p => p.1.2)
    [{ cycle := t + 9, eff := .flags (fl 0) 0 }, { cycle := t + 10, eff := .flags (fl 1) 0 },
     { cycle := t + 11, eff := .flags (fl 2) 0 },
     { cycle := t + 11, eff := .mem (cellsAt dst (st.flatMap fun x => accBytes x.1)) }]

/-- The ranges of up to `per` bytes that an access of `n` bytes from `a` reads in successive cycles. -/
def piecesOf (a n per : Nat) : List (Nat × Nat) :=
  (List.range (ceilDiv n per)).map fun j => (a + j * per, min per (n - j * per))

/-- One effect brought about: the cluster after it and the effects it brings in its turn. -/
def effRun (c : Cluster) (t : Nat) : Eff → Cluster × List Pend
  | .idx n r v => (cluSetCore c n (coreSetIdx (cluCore c n) r v), [])
  | .mask n r v =>
    let k := cluCore c n
    (cluSetCore c n { k with masks := tabPut 0 k.masks r v }, [])
  | .lanes n r l => (cluSetCore c n (coreSetLanes (cluCore c n) r l), [])
  | .mem l => ({ c with mem := memPuts c.mem l }, [])
  | .flags m v => (cluFlags c m v, [])
  | .chunks zero l =>
    let st := l.map fun p => (p.1, accStep (if zero then Acc.zero else accAt c.mx p.1) p.2)
    let acc := tabPuts Acc.zero c.mx.acc (st.map fun p => (p.1, p.2.1))
    (cluFlags { c with mx := { c.mx with acc := acc } } (flagsUnion (st.map fun p => p.2.2)) 0, [])
  | .ct n r =>
    let k := cluCore c n
    (cluSetCore c n (coreSetCt k r (coreCt k r + 1)), [])
  | .gather op left a b =>
    (match left with
    | [] => (c, [])
    | p :: l =>
      let a' := a ++ memRead c.mem p.1.1 p.1.2
      let b' := b ++ memRead c.mem p.2.1 p.2.2
      (c, if l.isEmpty then gatherEnd t op a' b' else [{ cycle := t + 1, reads := true, eff := .gather op l a' b' }]))
  | .ssnRead entry addr ref =>
    ({ c with handed := tabPut {} c.handed entry { stitch := c.count, ref := ref, payload := memRead c.mem addr 256 } }, [])
  | .mtlRead buf scales off total addr n =>
    let b := if buf then c.mx.buf1 else c.mx.buf0
    let old := if scales then b.scales else b.elems
    let start := if off = 0 then List.replicate total (0 : Byte) else old
    let l := overlay start off (memRead c.mem addr n)
    let b' := if scales then { b with scales := l } else { b with elems := l }
    ({ c with mx := if buf then { c.mx with buf1 := b' } else { c.mx with buf0 := b' } }, [])
  | .mmaRow buf first row aaddr asaddr af zero ncol kblk wf =>
    let b := if buf then c.mx.buf1 else c.mx.buf0
    let rw := memRead c.mem aaddr 256
    let sc := memRead c.mem asaddr 8
    let cols := geomCols (wf == .t5)
    let ch := (List.range ncol).map fun n => (row * cols + n, columnChunk b rw sc af ncol kblk wf n)
    let wfl := if first then flagsUnion ((List.range ncol).map (columnFlags b ncol kblk wf)) else flagNone
    (c, [{ cycle := t + 20, eff := .flags (rowFlags rw sc af kblk ||| wfl ||| flagsUnion (ch.map fun p => p.2.2)) 0 },
         { cycle := t + 20, eff := .chunks zero (ch.map fun p => (p.1, p.2.1)) }])
  | .mdrRow row cols mode clr dst =>
    let is := (List.range cols).map (· + row * cols)
    let vals := is.map fun i => accAt c.mx i
    let cv := vals.map (accTo32 (mode == 1))
    let bytes := if mode = 2 then vals.flatMap accBytes else cv.flatMap fun x => natLe 4 x.1.toNat
    let fl := if mode = 2 then flagNone else flagsUnion (cv.map Prod.snd)
    let acc := if clr then is.foldl (fun a i => tabPut Acc.zero a i Acc.zero) c.mx.acc else c.mx.acc
    ({ c with mx := { c.mx with acc := acc } },
      [{ cycle := t + 8, eff := .flags 0 fl }, { cycle := t + 8, eff := .mem (cellsAt dst bytes) }])

/-- A bound on the effects that one effect brings, itself among them. -/
def effFuel : Eff → Nat
  | .gather _ l _ _ => l.length + 4
  | _ => 3

/-- Bring about, in order, every effect up to and in cycle `now`; `fuel` bounds their number. -/
def settleFuel : Nat → Nat → Cluster → Cluster
  | 0, _, c => c
  | fuel + 1, now, c =>
    match c.inflight with
    | [] => c
    | p :: l =>
      if p.cycle ≤ now then
        let r := effRun { c with inflight := l } p.cycle p.eff
        settleFuel fuel now (cluPend r.1 r.2)
      else c

/-- A cluster with every effect up to and in cycle `now` brought about. -/
def settle (now : Nat) (c : Cluster) : Cluster := settleFuel ((c.inflight.map fun p => effFuel p.eff).sum) now c

/-- A cluster whose pipelines have finished (R155); no reading takes more than 1,024 cycles, and no result 128 more. -/
def settleAll (c : Cluster) : Cluster :=
  settle (c.inflight.foldl (fun a p => max a p.cycle) 0 + 1152) c

/-! ## Issue (R119 to R126) -/

/-- The store entry of a core at an index; one that was never loaded is 0 (log entry 3). -/
def storeAt (k : Core) (i : Nat) : BitVec 144 := tabGet 0 k.store i

/-- NEXT of an issue word (R119). -/
def issueNext (e : BitVec 144) : Bool := e.getLsbD 15

/-- DELAY of an issue word (R119). -/
def issueDelay (e : BitVec 144) : Nat := (e.extractLsb' 0 9).toNat

/-- The budgeted cycle in which the next micro-op of a core is due, `b` being the budget (R119, R120): DELAY cycles after the first
cycle of the section, after the last issue, or after the first cycle of the stitch that follows that issue. -/
def coreDue (b : Nat) (c : Cluster) (k : Core) : Nat :=
  let e := storeAt k k.uop
  match k.last with
  | none => c.enter + issueDelay e
  | some l => (if issueNext e then k.next.getD (c.base + b) else l) + issueDelay e

/-- Whether a core issues: it is neither paused nor at a knot (R122). -/
def coreRuns (k : Core) : Bool := k.paused.isNone && k.knot.isNone

/-- Stop a cluster for a set-section pause at a reference count: it sends a freeze request (R122, R172). -/
def cluPause (ref : Nat) (c : Cluster) : Cluster :=
  { c with pausedSet := true, freezeReqs := c.freezeReqs + 1, pausedAt := ref }

/-- The budgeted cycles before `limit` in which the running cores of a cluster have micro-ops due, one for each core. -/
def dueBefore (b limit : Nat) (c : Cluster) : List (Nat × Nat) :=
  (List.range 8).filterMap fun n =>
    let k := cluCore c n
    if coreRuns k && decide (coreDue b c k < limit) then some (n, coreDue b c k) else none

/-- Whether no other core of the cluster has a micro-op due before cycle `now` of core `n`: micro-ops issue in the order of their
cycles, those of one cycle in ascending order of core number (R98, R130). -/
def dueFirst (b : Nat) (c : Cluster) (n now : Nat) : Bool :=
  (List.range 8).all fun m =>
    let k := cluCore c m
    m == n || !coreRuns k || decide (now < coreDue b c k) || (decide (now = coreDue b c k) && decide (n < m))

/-- Where a micro-op issues, and what of the pattern bears on it; `uop` is its descriptor-store index,
`ref` the die's reference count in the cycle of issue, `sp` its set point in MHz. -/
structure Ctx where
  rank : Nat
  die : Nat
  clu : Nat
  sc : Nat
  now : Nat
  uop : Nat
  ref : Nat
  sp : Nat
  limit : Nat
  setSec : Bool
  hold : Bool
  deriving DecidableEq, Repr

/-- The loop stack and position after the micro-op at `uop` has issued (R126). -/
def advance (uop : Nat) : List LoopFrame → Nat × List LoopFrame
  | [] => (uop + 1, [])
  | f :: fs =>
    if uop + 1 = f.first + f.len then
      if 0 < f.left then (f.first, { f with left := f.left - 1 } :: fs)
      else advance uop fs
    else (uop + 1, f :: fs)

/-- The issuing core's position moved past its micro-op. -/
def coreIssued (k : Core) (now : Nat) : Core :=
  let a := advance k.uop k.loops
  { k with uop := a.1, loops := a.2, last := some now, next := none }

/-- Whether core `n` of a cluster issues in cycle `now` (R98, R120, R122, R155): it runs, its micro-op is due then, and no other core's
comes first. -/
def canIssue (b : Nat) (c : Cluster) (n now : Nat) : Bool :=
  let k := cluCore c n
  !c.pausedSet && coreRuns k && decide (now = coreDue b c k) && dueFirst b c n now &&
    (match k.last with | none => true | some l => decide (l < now))

end Sys2Proof.Machine
end

