-- ==== Sys2Proof/Machine/Panel.lean ====
section
/-! DEFINITION. The panel's places: dies and their indices (R261), logical ranks (R14), links and ports
(R29, R272, R273), accessors of the state, the running pattern's image (R207 to R213), and fault
records (R228). -/

namespace Sys2Proof.Machine

open Sys2Proof

/-! ## Places -/

/-- Number of dies (R261). -/
def numDies : Nat := 226

/-- Kinds of die: 0 compute site, 1 memory stack, 2 ring or anchor (DKIND of R228). -/
def dieKind (d : Nat) : Nat := if d < 144 then 0 else if d < 216 then 1 else 2

/-- Die index of the compute site P(c,w). -/
def siteDie (c w : Nat) : Nat := 12 * c + w

/-- Die index of the stack S(c,m). -/
def stackDie (c m : Nat) : Nat := 144 + 6 * c + m

/-- Physical course of a compute or stack die. -/
def dieCourse (d : Nat) : Nat := if d < 144 then d / 12 else (d - 144) / 6

/-- Wale or memory column of a compute or stack die. -/
def dieCol (d : Nat) : Nat := if d < 144 then d % 12 else (d - 144) % 6

/-- Node column from west to east, 0 to 17 (chapter 00): W0 W1 M0 W2 W3 M1 and so on. -/
def nodeX (d : Nat) : Nat :=
  if d < 144 then d % 12 / 2 * 3 + d % 12 % 2 else (d - 144) % 6 * 3 + 2

/-- The skip of a wale. -/
def skipOf (skip : List Nat) (w : Nat) : Nat := (skip.drop w).headD 11

/-- The physical die that holds a logical rank (R14). -/
def physOf (skip : List Nat) (rank : Nat) : Nat :=
  let c := rank / 12
  let w := rank % 12
  if c < skipOf skip w then siteDie c w else siteDie (c + 1) w

/-- The logical rank that a compute die holds, if any. -/
def rankOf (skip : List Nat) (d : Nat) : Option Nat :=
  if 144 ≤ d then none
  else
    let c := d / 12
    let w := d % 12
    if c < skipOf skip w then some (12 * c + w)
    else if c = skipOf skip w then none
    else some (12 * (c - 1) + w)

/-- The die of the active anchor. -/
def anchorDie (s : State) : Nat := if s.grid.anchorS then 225 else 224

/-- Ring dies from west to east: `north` for the north ring. -/
def ringDies (north : Bool) : List Nat :=
  if north then [216, 217, 224, 218, 219] else [220, 221, 225, 222, 223]

/-- Whether a ring die belongs to the north ring. -/
def isNorth (d : Nat) : Bool := d == 224 || (decide (216 ≤ d) && decide (d < 220))

/-- Position of a ring die along its ring, 0 to 4 from the west (R228). -/
def ringPos (d : Nat) : Nat := ((ringDies (isNorth d)).findIdx? (· == d)).getD 0

/-- The ring die, with its port for the attachment, that serves column `m` of a ring. -/
def ringAttach (north : Bool) (m : Nat) : Nat × Nat :=
  match m with
  | 0 => (if north then 216 else 220, 0)
  | 1 => (if north then 217 else 221, 0)
  | 2 => (if north then 224 else 225, 0)
  | 3 => (if north then 224 else 225, 1)
  | 4 => (if north then 218 else 222, 0)
  | _ => (if north then 219 else 223, 0)

/-- The memory columns that a ring die attaches to, each with the port. -/
def ringCols (d : Nat) : List (Nat × Nat) :=
  (List.range 6).filterMap fun m =>
    let a := ringAttach (isNorth d) m
    if a.1 = d then some (m, a.2) else none

/-- Whether a die is an anchor. -/
def isAnchor (d : Nat) : Bool := d == 224 || d == 225

/-- The die and port at the other end of a link (R29, R272). -/
def peer (d p : Nat) : Option (Nat × Nat) :=
  if d < 144 then
    let c := d / 12
    let w := d % 12
    match p with
    | 0 => if 0 < c then some (d - 12, 2) else none
    | 1 => if w % 2 = 0 then some (d + 1, 3) else some (stackDie c (w / 2), 3)
    | 2 => if c < 11 then some (d + 12, 0) else none
    | 3 => if w % 2 = 1 then some (d - 1, 1)
           else if 0 < w then some (stackDie c (w / 2 - 1), 1) else none
    | 4 => if 2 ≤ c then some (d - 24, 5) else none
    | 5 => if c ≤ 9 then some (d + 24, 4) else none
    | _ => none
  else if d < 216 then
    let c := (d - 144) / 6
    let m := (d - 144) % 6
    match p with
    | 0 => if 0 < c then some (d - 6, 2) else some (ringAttach true m)
    | 1 => if m < 5 then some (siteDie c (2 * m + 2), 3) else none
    | 2 => if c < 11 then some (d + 6, 0) else some (ringAttach false m)
    | 3 => some (siteDie c (2 * m + 1), 1)
    | 4 => if c = 1 then
             (let a := ringAttach true m
              some (a.1, if isAnchor a.1 then a.2 + 2 else 1))
           else if c = 10 then
             (let a := ringAttach false m
              some (a.1, if isAnchor a.1 then a.2 + 2 else 1))
           else none
    | _ => none
  else if d < 226 then
    let n := isNorth d
    let an := isAnchor d
    let chainW := if an then 4 else 2
    let chainE := if an then 5 else 3
    let c0 := if n then 0 else 11
    let c1 := if n then 1 else 10
    if p = chainW then
      (if ringPos d = 0 then none
       else (let e := (ringDies n).drop (ringPos d - 1) |>.headD 0
             some (e, if isAnchor e then 5 else 3)))
    else if p = chainE then
      (if ringPos d = 4 then none
       else (let e := (ringDies n).drop (ringPos d + 1) |>.headD 0
             some (e, if isAnchor e then 4 else 2)))
    else
      (match (ringCols d).find? fun x => p == x.2 || p == (if an then x.2 + 2 else 1) with
      | some x =>
        if p = x.2 then some (stackDie c0 x.1, if n then 0 else 2) else some (stackDie c1 x.1, 4)
      | none => none)
  else none

/-- Whether the end of a link at port `p` of die `d` leads (R273): the west or the north end. -/
def leads (d p : Nat) : Bool :=
  if d < 144 then p == 1 || p == 2 || p == 5
  else if d < 216 then
    (if p = 0 then false else if p = 4 then dieCourse d == 10 else p == 1 || p == 2)
  else if isAnchor d && (p == 4 || p == 5) then p == 5
  else if !isAnchor d && (p == 2 || p == 3) then p == 3
  else isNorth d

/-- The key of a link: its leading end. -/
def linkKey (d p : Nat) : Nat :=
  if leads d p then d * 8 + p
  else match peer d p with
    | some e => e.1 * 8 + e.2
    | none => d * 8 + p

/-- Kinds of link, as LINK of R228 names them at a port: 1 N, 2 E, 3 S, 4 W, 5 N bypass, 6 S bypass,
7 ring. -/
def linkCode (d p : Nat) : Nat :=
  if d < 144 then (if p ≤ 5 then p + 1 else 0)
  else if d < 216 then
    (if p = 4 || (p == 0 && dieCourse d == 0) || (p == 2 && dieCourse d == 11) then 7 else p + 1)
  else 7

/-- Whether the link at a port carries no set traffic (ring links, R286). -/
def isRingLink (d p : Nat) : Bool := linkCode d p == 7

/-- Whether the link at a port is a wale bypass link. -/
def isWaleBypass (d p : Nat) : Bool := decide (d < 144) && (p == 4 || p == 5)

/-- Whether the link at a port is a ring bypass link. -/
def isRingBypass (d p : Nat) : Bool :=
  (decide (144 ≤ d) && decide (d < 216) && p == 4) ||
  (decide (216 ≤ d) && (if isAnchor d then p == 2 || p == 3 else p == 1))

/-- The leading ends of all links of the panel. -/
def allLinks : List (Nat × Nat) :=
  (List.range numDies).flatMap fun d =>
    ((List.range 6).filter fun p => (peer d p).isSome && leads d p).map fun p => (d, p)

/-! ## Accessors -/

/-- A die's state. -/
def dieOf (s : State) (d : Nat) : Die := tabGet {} s.dies d
/-- Change a die's state. -/
def modDie (d : Nat) (f : Die → Die) (s : State) : State := { s with dies := tabMod {} s.dies d f }
/-- Change the state of every die of a list. -/
def modDies (l : List Nat) (f : Die → Die) (s : State) : State := l.foldl (fun s d => modDie d f s) s
/-- A network interface. -/
def niOf (s : State) (d : Nat) : NI := tabGet {} s.nis d
/-- Change a network interface. -/
def modNI (d : Nat) (f : NI → NI) (s : State) : State := { s with nis := tabMod {} s.nis d f }
/-- A cluster of a physical compute die. -/
def cluOf (s : State) (d k : Nat) : Cluster := tabGet {} s.clus (d * 4 + k)
/-- Change a cluster. -/
def modClu (d k : Nat) (f : Cluster → Cluster) (s : State) : State :=
  { s with clus := tabMod {} s.clus (d * 4 + k) f }
/-- The link at a port of a die. -/
def linkOf (s : State) (d p : Nat) : Link := tabGet {} s.links (linkKey d p)
/-- Change the link at a port of a die. -/
def modLink (d p : Nat) (f : Link → Link) (s : State) : State :=
  { s with links := tabMod {} s.links (linkKey d p) f }
/-- A stack of panel memory. -/
def stackOf (s : State) (c m : Nat) : Stack := tabGet {} s.pmem.stk (6 * c + m)
/-- Change a stack. -/
def modStack (c m : Nat) (f : Stack → Stack) (s : State) : State :=
  { s with pmem := { s.pmem with stk := tabMod {} s.pmem.stk (6 * c + m) f } }

/-- Add one to a counter that wraps at 2^32. -/
def cntInc (t : Tab W32) (i : Nat) (n : Nat := 1) : Tab W32 :=
  tabPut 0 t i (tabGet 0 t i + BitVec.ofNat 32 n)

/-- Count in a network interface (R269). -/
def niCount (d i : Nat) (s : State) : State := modNI d (fun n => { n with cnt := cntInc n.cnt i }) s

/-- Emit something to the outside. -/
def emit (e : Emission) (s : State) : State := { s with out := e :: s.out }

/-- Whether a course is lost. -/
def courseLost (s : State) (c : Nat) : Bool := s.grid.lostCourses.contains c

/-- Whether a die is live: powered, neither skipped, retired, silent nor dead; no compute die is live in the
bound-off state (R480). -/
def dieLive (s : State) (d : Nat) : Bool :=
  !s.grid.silent.contains d &&
  (if d < 144 then
    (rankOf s.grid.skip d).isSome && !s.grid.retired.contains d && !courseLost s (d / 12) && !s.boot.bound &&
      !s.boot.vinGone.contains (d / 12) && !s.boot.trip
   else if d < 216 then (stackOf s (dieCourse d) (dieCol d)).state != .dead && !s.boot.trip
   else decide (d < numDies))

/-- The live dies. -/
def liveDies (s : State) : List Nat := (List.range numDies).filter (dieLive s)

/-- The dies of the logical sites, by rank. -/
def siteDies (s : State) : List Nat := (List.range 132).map (physOf s.grid.skip)

/-- The end of a link at a die: true when the die sends on direction 0. -/
def dirOut (d p : Nat) : Bool := leads d p

/-- The direction on which a die's port sends. -/
def txDir (l : Link) (d p : Nat) : LinkDir := if dirOut d p then l.d0 else l.d1
/-- Change the direction on which a die's port sends. -/
def modTx (d p : Nat) (f : LinkDir → LinkDir) (s : State) : State :=
  modLink d p (fun l => if dirOut d p then { l with d0 := f l.d0 } else { l with d1 := f l.d1 }) s
/-- The direction on which a die's port receives. -/
def rxDir (l : Link) (d p : Nat) : LinkDir := if dirOut d p then l.d1 else l.d0
/-- Change the direction on which a die's port receives. -/
def modRx (d p : Nat) (f : LinkDir → LinkDir) (s : State) : State :=
  modLink d p (fun l => if dirOut d p then { l with d1 := f l.d1 } else { l with d0 := f l.d0 }) s

/-! ## The lodestar's time (R158, R188) -/

/-- The lodestar's stitch count. -/
def stitchNow (s : State) : BitVec 48 := (dieOf s (anchorDie s)).count
/-- The lodestar's epoch. -/
def epochNow (s : State) : W16 := (dieOf s (anchorDie s)).epoch
/-- The lodestar's reference count. -/
def refNow (s : State) : W64 := (dieOf s (anchorDie s)).ref

/-- A charged fault of a site for the REPEAT policy (R508). -/
def chargeFault (d : Nat) (s : State) : State :=
  { s with hlt := { s.hlt with charged := s.hlt.charged ++ [(d, refNow s)] } }

/-- Whether target `t` is in the future of count `c`, and by how many stitches (R188). -/
def stitchAhead (t c : BitVec 48) : Option Nat :=
  let d := (t - c).toNat
  if 1 ≤ d ∧ d < 2 ^ 47 then some d else none

/-! ## The running image (R207 to R213) -/

/-- The running image, or no bytes. -/
def runImg (s : State) : List Byte := s.pat.running.getD []

/-- NSECT of an image. -/
def imgNsect (b : List Byte) : Nat := leAt b 0x18 2
/-- The grade word of an image (R201). -/
def imgGrade (b : List Byte) : Nat := leAt b 0x10 4
/-- Directory entry `i` of an image: offset and length. -/
def imgDir (b : List Byte) (i : Nat) : Nat × Nat := (leAt b (0x80 + 16 * i) 8, leAt b (0x88 + 16 * i) 8)
/-- Section entry `i` as a number (R198). -/
def imgSection (b : List Byte) (i : Nat) : Nat := leAt b ((imgDir b 0).1 + 16 * i) 16
/-- Whether section `i` is a set section. -/
def imgIsSet (b : List Byte) (i : Nat) : Bool := !bitOf (imgSection b i) 48
/-- Knot entry `i` as a number (R199). -/
def imgKnot (b : List Byte) (i : Nat) : Nat := leAt b ((imgDir b 1).1 + 8 * i) 8
/-- OFFSET of knot `i`. -/
def knotOffset (b : List Byte) (i : Nat) : Nat := bitsOf (imgKnot b i) 23 16
/-- LIMIT of knot `i`. -/
def knotLimit (b : List Byte) (i : Nat) : Nat := bitsOf (imgKnot b i) 43 24
/-- Budget of the running pattern in cycles (R166); 256 while none runs. -/
def budget (s : State) : Nat := if bitOf (imgGrade (runImg s)) 0 then 304 else 256
/-- Whether the running pattern is graded class B. -/
def gradeB (s : State) : Bool := bitOf (imgGrade (runImg s)) 4
/-- Whether a set section is executing. -/
def inSetSection (s : State) : Bool :=
  s.pat.running.isSome && s.pat.inSect && imgIsSet (runImg s) s.pat.sect

/-- Entries per rank of each of the two slot tables: directory entry 3 holds for each rank in turn its
set-slot table and its landing table, of one length for all (log entry 14). -/
def slotCount (b : List Byte) : Nat := (imgDir b 3).2 / (132 * 16)
/-- Set-slot entry `i` of a rank (R248). -/
def setSlotEntry (b : List Byte) (rank i : Nat) : Nat :=
  leAt b ((imgDir b 3).1 + rank * (slotCount b * 16) + 8 * i) 8
/-- Landing entry `i` of a rank (R249). -/
def landEntry (b : List Byte) (rank i : Nat) : Nat :=
  leAt b ((imgDir b 3).1 + rank * (slotCount b * 16) + slotCount b * 8 + 8 * i) 8

/-- Whether a tick hold is in force for the present stitch (R113, R122, R169): it has been extended or frozen, or a freeze has been
named. -/
def tickHold (s : State) : Bool :=
  decide (0 < s.lode.quanta) || s.lode.stretchedNow || s.lode.frozen || s.lode.freezeAt.isSome

/-! ## Set points (R166, R519) -/

/-- The set point of a mode in a configuration set, MHz; lean is fixed at 1,000. -/
def modeSp (m : Mode) (c : CfgSet) : Nat :=
  match m with
  | .steady => c.spSteady
  | .brisk => c.spBrisk
  | .lean => c.spLean

/-- The effective set point of a compute die's clusters: the lowest of those that apply, from 1,000 to
1,350 MHz. -/
def setPoint (s : State) (d : Nat) : Nat :=
  let m := min (modeSp s.lode.mode (dieOf s d).active) s.pwr.capSp
  let c := min m (min (tabGet 1350 s.pwr.courseSp (dieCourse d)) (tabGet 1350 s.pwr.throttle d))
  max 1000 (min 1350 (if s.pwr.warn then 1000 else c))

/-! ## Fault records (R228, R441) -/

/-- Slot times of a stitch in a mode (R166). -/
def modeSlots (m : Mode) : Nat := if m = .lean then 768 else 512

/-- The site fields of a record for a die (R228). -/
def siteFields (s : State) (d : Nat) (r : FaultRec) : FaultRec :=
  match dieKind d with
  | 0 => { r with
      dkind := 0, lrank := BitVec.ofNat 8 ((rankOf s.grid.skip d).getD 0xFF)
      pcourse := BitVec.ofNat 4 (d / 12), pcol := BitVec.ofNat 4 (d % 12) }
  | 1 => { r with
      dkind := 1, lrank := 0xFF
      pcourse := BitVec.ofNat 4 (dieCourse d), pcol := BitVec.ofNat 4 (dieCol d) }
  | _ => { r with
      dkind := 2, lrank := 0xFF
      pcourse := if isNorth d then 12 else 13, pcol := BitVec.ofNat 4 (ringPos d) }

/-! ### Functions and their interrupts (R374, R375, R377, R575) -/

/-- A function, by FUNC of R573. -/
def fnOf (s : State) (f : Nat) : Func := tabGet {} s.fns f
/-- Change a function. -/
def modFn (f : Nat) (g : Func → Func) (s : State) : State := { s with fns := tabMod {} s.fns f g }
/-- Whether a function exists (R374): PF0, PF1 and the VFs up to NumVFs. -/
def fnExists (s : State) (f : Nat) : Bool := f == 0 || f == 64 || decide (f ≤ s.pins.numVfs)
/-- Set bits of INT_CAUSE. -/
def setCause (f : Nat) (m : W32) (s : State) : State := modFn f (fun x => { x with cause := x.cause ||| m }) s

/-- Send, hold or leave pending an MSI-X message: held while bus mastering is off (R377), pending while its
vector is masked. -/
def sendVec (f v : Nat) (s : State) : State :=
  let x := fnOf s f
  if !fnExists s f then s
  else if !x.bme then modFn f (fun x => { x with heldMsix := setIns v x.heldMsix }) s
  else if (tabGet 0 x.msix (4 * v + 3)).getLsbD 0 then
    modFn f (fun x => { x with pba := x.pba ||| BitVec.ofNat 4 (2 ^ v) }) s
  else
    emit (.msix f v ((tabGet 0 x.msix (4 * v + 1)).zeroExtend 64 <<< 32 ||| (tabGet 0 x.msix (4 * v)).zeroExtend 64)
      (tabGet 0 x.msix (4 * v + 2))) s

/-- Raise vector 2 on a function, with its cause (R575). -/
def raiseFault (f : Nat) (s : State) : State := sendVec f 2 (setCause f 0x100 s)

/-- Append a record to the fault log; the log keeps the newest 4,096 (R441).  A pattern, timebase, fabric, link,
memory or park fault raises vector 2 on PF0 and PF1 (R375). -/
def logPush (r : FaultRec) (s : State) : State :=
  let l := s.flog.recs ++ [r]
  let s1 := { s with flog := { recs := l.drop (l.length - 4096), next := s.flog.next + 1 } }
  if r.code.toNat < 0x50 then raiseFault 64 (raiseFault 0 s1) else s1

/-- Whether a fault names a slot of its own, which its record carries in place of the die's phase: DST, and LGR of an SRV (R228, R229). -/
def namesSlot (r : FaultRec) : Bool := r.code == 0x01 || (r.code == 0x06 && r.detail == 0)

/-- Record a fault of die `d`: round, time and site are filled in (R228); REPLAY says that the round in progress is a replay. -/
def addFault (d : Nat) (r : FaultRec) (s : State) : State :=
  logPush (siteFields s d { r with
    round := BitVec.ofNat 32 s.rnd.no.toNat, epoch := (dieOf s d).epoch, stitch := (dieOf s d).count
    slot := if namesSlot r then r.slot else BitVec.ofNat 12 (min 4095 (dieOf s d).phase)
    replay := s.pat.replay && s.rnd.active }) s

/-- Record a pattern fault of die `d`: at most 4 records per die in each run of a round; more are counted
as lost (R224). -/
def addPatFault (d : Nat) (r : FaultRec) (s : State) : State :=
  let x := dieOf s d
  if x.pfRun < 4 then
    modDie d (fun y => { y with pfRun := y.pfRun + 1 }) (addFault d { r with later := decide (0 < x.pfRun) } s)
  else modDie d (fun y => { y with lostRecs := y.lostRecs + 1 }) s

/-! ## Bytes of panel memory -/

/-- Bytes of panel memory from a byte address. -/
def pmRead (s : State) (a n : Nat) : List Byte := memRead s.pmem.data a n

/-- Write bytes of panel memory, clearing the poison of the sectors written (R314). -/
def pmWrite (a : Nat) (l : List Byte) (s : State) : State :=
  let p := s.pmem
  let po := p.poison.filterMap fun x =>
    let keep := (List.range 4).filter fun k =>
      x.2.getLsbD k && !(decide (a < x.1 * 256 + 64 * k + 64) && decide (x.1 * 256 + 64 * k < a + l.length))
    if keep.isEmpty then none else some (x.1, BitVec.ofNat 4 ((keep.map fun k => 2 ^ k).sum))
  { s with pmem := { p with data := memWrite p.data a l, poison := po } }

/-- Poisoned sectors of a unit. -/
def poisonOf (s : State) (paddr : Nat) : BitVec 4 := tabGet 0 s.pmem.poison paddr

end Sys2Proof.Machine
end

