-- ==== Sys2Proof/Machine/Records.lean ====
section
/-! DEFINITION. What the panel tells its hosts: functions and their interrupts (R375, R575), events (R429,
R430), completion records (R381, R382) and the counters of R576. -/

namespace Sys2Proof.Machine

open Sys2Proof

/-! ## Functions, tenants and sessions -/

/-- Change a function's mailbox. -/
def modMb (f : Nat) (g : Mailbox → Mailbox) (s : State) : State := modFn f (fun x => { x with mb := g x.mb }) s
/-- A tenant. -/
def tenOf (s : State) (t : Nat) : Tenant := tabGet {} s.ten t
/-- Change a tenant. -/
def modTen (t : Nat) (g : Tenant → Tenant) (s : State) : State := { s with ten := tabMod {} s.ten t g }
/-- A ring pair of a tenant. -/
def ringOf (s : State) (t i : Nat) : RingPair := tabGet {} (tenOf s t).rings i
/-- Change a ring pair. -/
def modRing (t i : Nat) (g : RingPair → RingPair) (s : State) : State :=
  modTen t (fun x => { x with rings := tabMod {} x.rings i g }) s
/-- A session. -/
def sessOf (s : State) (i : Nat) : Session := tabGet {} s.sess i
/-- Change the round controller's state. -/
def modRnd (g : Round → Round) (s : State) : State := { s with rnd := g s.rnd }
/-- Change the boot state. -/
def modBoot (g : Boot → Boot) (s : State) : State := { s with boot := g s.boot }
/-- Change the running pattern's state. -/
def modPat (g : Pattern → Pattern) (s : State) : State := { s with pat := g s.pat }
/-- Change the power state. -/
def modPwr (g : Power → Power) (s : State) : State := { s with pwr := g s.pwr }

/-- The functions that exist. -/
def allFns (s : State) : List Nat := (List.range 65).filter (fnExists s)
/-- The tenants that exist: PF0 and the VFs (R22, R374). -/
def allTenants (s : State) : List Nat := (List.range 64).filter (fnExists s)

/-! ## Counters (R576) -/

/-- Add to a 32-bit counter of a function at a BAR0 offset. -/
def fnCount (f off : Nat) (n : Nat := 1) (s : State) : State :=
  modFn f (fun x => { x with cnt := cntInc x.cnt ((off - 0x10000) / 4) n }) s

/-- Add to a 64-bit counter of a function, kept as a pair of words. -/
def fnCount64 (f off : Nat) (n : Nat) (s : State) : State :=
  modFn f (fun x =>
    let i := (off - 0x10000) / 4
    let v := (tabGet 0 x.cnt i).toNat + 2 ^ 32 * (tabGet 0 x.cnt (i + 1)).toNat + n
    { x with cnt := tabPut 0 (tabPut 0 x.cnt i (BitVec.ofNat 32 v)) (i + 1) (BitVec.ofNat 32 (v / 2 ^ 32)) }) s

/-- Count an access error in ACCESS_ERR and in a counter of its kind. -/
def accErr (f off : Nat) (s : State) : State := fnCount f off 1 (fnCount f 0x10000 1 s)

/-! ## Interrupts (R375) -/

/-- Raise vector 2 on several functions. -/
def raiseFaults (fs : List Nat) (s : State) : State := fs.foldl (fun s f => raiseFault f s) s

/-- Vector 2 for a fault that does not stop the pattern: PF0, PF1 and the functions concerned (R375). -/
def raiseFaultFor (fs : List Nat) (s : State) : State :=
  raiseFaults ((List.range 65).filter fun f => f == 0 || f == 64 || fs.contains f) s

/-- Vector 2 on the functions whose sessions a recorded fault concerns; the record has raised it on PF0 and PF1. -/
def raiseOwners (fs : List Nat) (s : State) : State :=
  raiseFaults ((List.range 64).filter fun f => f != 0 && fs.contains f) s

/-! ## Events (R429, R430) -/

/-- The time word: epoch and stitch count of the lodestar. -/
def timeWord (s : State) : W64 := epochNow s ++ stitchNow s

/-- Vector of an event type (R430). -/
def eventVec (ty : Nat) : Nat :=
  if ty = 1 ∨ ty = 0xA then 0 else if ty = 8 ∨ ty = 9 then 2 else 3

/-- Causes of INT_CAUSE that an event sets (R574). -/
def eventCause (ty : Nat) : W32 :=
  2 ||| (if ty = 5 then 0x20000 else if ty = 8 then 0x200 else if ty = 9 then 0x1000
         else if ty = 2 ∨ ty = 3 ∨ ty = 4 ∨ ty = 6 ∨ ty = 7 then 0x10000 else 0)

/-- The bytes of an event record. -/
def eventBytes (s : State) (ty : Nat) (late : Bool) (data : W32) : List Byte :=
  natLe 1 ty ++ natLe 1 late.toNat ++ natLe 2 (epochNow s).toNat ++ natLe 6 (stitchNow s).toNat ++
    natLe 2 0 ++ natLe 4 data.toNat

/-- Write an event to a function's queue; one that finds the queue full is dropped and counted. -/
def eventQuiet (f ty : Nat) (late : Bool) (data : W32) (s : State) : State :=
  let m := (fnOf s f).mb
  if !fnExists s f then s
  else if (m.tail + 1) % 32 = m.head then modMb f (fun m => { m with lost := m.lost + 1 }) s
  else
    setCause f (eventCause ty) (modMb f (fun m => { m with
      events := tabPut [] m.events m.tail (eventBytes s ty late data), tail := (m.tail + 1) % 32 }) s)

/-- Write an event to a function's queue and raise its vector. -/
def event (f ty : Nat) (late : Bool) (data : W32) (s : State) : State :=
  let m := (fnOf s f).mb
  let s1 := eventQuiet f ty late data s
  if (m.tail + 1) % 32 = m.head then s1
  else if eventVec ty = 2 then raiseFault f s1 else sendVec f (eventVec ty) s1

/-- An event on PF0 and PF1. -/
def eventPf (ty : Nat) (data : W32) (s : State) : State := event 64 ty false data (event 0 ty false data s)

/-- Event 0x08 and vector 2 on every function: the pattern stopped by a fault (R225, R490, R504). -/
def stopNotice (s : State) : State :=
  (allFns s).foldl (fun s f => raiseFault f (eventQuiet f 8 false (BitVec.ofNat 32 s.rnd.no.toNat) s)) s

/-! ## Completion records (R354, R381, R382) -/

/-- What a completion record says. -/
structure Rec where
  usertag : W64 := 0
  handle : W32 := 0
  token : W32 := 0xFFFFFFFF
  len : Nat := 0
  status : Nat := 0
  final : Bool := true
  clamped : Bool := false
  applied : Nat := 0
  round : W64 := 0
  deriving DecidableEq, Repr

/-- The 32 bytes of a record. -/
def recBytes (r : Rec) (phase : Bool) : List Byte :=
  natLe 8 r.usertag.toNat ++ natLe 4 r.handle.toNat ++ natLe 4 r.token.toNat ++ natLe 4 r.len ++
    natLe 1 r.status ++ natLe 1 (r.final.toNat + 2 * r.clamped.toNat + 128 * phase.toNat) ++
    natLe 2 (min r.applied 0xFFFF) ++ natLe 8 r.round.toNat

/-- Write a completion record to a ring of a tenant.  PHASE inverts on each wrap; a record is held while
bus mastering is off (R377); none is written for a tenant under reset (R394). -/
def putRecord (t i : Nat) (noint : Bool) (r : Rec) (s : State) : State :=
  if (tenOf s t).resetting then s
  else
    let q := ringOf s t i
    let n := 2 ^ q.k
    let slot := q.cqTail % n
    let bytes := recBytes r (q.cqTail / n % 2 == 0)
    let s1 := modRing t i (fun q => { q with cqTail := q.cqTail + 1 }) s
    let s2 := if (fnOf s t).bme then emit (.record t i slot bytes) s1
              else modRing t i (fun q => { q with held := q.held ++ [(slot, bytes)] }) s1
    let s3 := setCause t 0x10 (fnCount t (0x10204 + 16 * i) 1 s2)
    let s4 := if noint then s3 else modFn t (fun x => { x with cqDue := true }) s3
    let s5 := if r.token = 0xFFFFFFFF then s4 else fnCount64 t 0x10110 1 s4
    let s6 := if r.final then fnCount64 t 0x10128 1 s5 else s5
    if r.status = 1 then fnCount t 0x10130 1 s6 else s6

/-- Vector 1, once on each function that received a record without NOINT at this boundary (R386). -/
def flushCq (s : State) : State :=
  (List.range 64).foldl (fun s f =>
    if (fnOf s f).cqDue then sendVec f 1 (modFn f (fun x => { x with cqDue := false }) s) else s) s

/-- Statuses of ring requests (R354). -/
def stOk : Nat := 0
/-- STALE. -/
def stStale : Nat := 1
/-- ABORTED. -/
def stAborted : Nat := 2
/-- CANCELLED. -/
def stCancelled : Nat := 3
/-- LIMIT. -/
def stLimit : Nat := 4
/-- NOSPACE. -/
def stNoSpace : Nat := 5
/-- QUOTA. -/
def stQuota : Nat := 6
/-- FAILED. -/
def stFailed : Nat := 7
/-- BAD_REQUEST. -/
def stBad : Nat := 8

end Sys2Proof.Machine
end

