-- ==== Sys2Proof/Machine/Sessions.lean ====
section
/-! DEFINITION. Sessions as the round controller keeps them (R333 to R346, R554): handles, the free list,
the layout of the common area, page and block allocation, and the writing through of entries,
directories, blocks, histories and tail logs to panel memory (R332). -/

namespace Sys2Proof.Machine

open Sys2Proof

/-! ## Licence limits (R7, R340, R431) -/

/-- Session indices that a licence gives. -/
def licSessions : Option Licence → Nat
  | none => 0
  | some l => if l.variantX then 1048576 else 262144

/-- Sequence length that a licence gives, in tokens. -/
def licSeqMax : Option Licence → Nat
  | none => 0
  | some l => if l.variantX then 2097152 else 524288

/-- The features word of a licence (R431). -/
def licFeatures : Option Licence → W32
  | none => 0
  | some l => if l.variantX then 0x3FF else 0x90

/-- VARIANT of IDENTIFY. -/
def licVariant : Option Licence → Nat
  | none => 0
  | some l => if l.variantX then 2 else 1

/-- Whether a park port is licensed (R7). -/
def portLicensed (s : State) (p : Nat) : Bool := (licFeatures s.boot.lic).getLsbD (4 + p)

/-! ## Handles (R333, R335) -/

/-- The handle of a session. -/
def handleOf (s : State) (i : Nat) : W32 := BitVec.ofNat 32 ((sessOf s i).gen * 2 ^ 20 + i)

/-- The session that a handle names for a tenant; `none` is STALE (R335).  A session being rebuilt carries
no handle (R553). -/
def sessionNamed (s : State) (t : Nat) (h : W32) : Option Nat :=
  let i := h.toNat % 2 ^ 20
  let x := sessOf s i
  if x.gen = h.toNat / 2 ^ 20 ∧ x.state ≠ .free ∧ i < licSessions s.boot.lic ∧ x.tenant = t ∧ !x.rebuild
  then some i else none

/-- Sessions of a tenant that are not FREE. -/
def tenantSessions (s : State) (t : Nat) : List Nat :=
  (s.sess.filter fun p => p.2.state != .free && p.2.tenant == t).map Prod.fst

/-- Sessions that are not FREE. -/
def openSessions (s : State) : List Nat := (s.sess.filter fun p => p.2.state != .free).map Prod.fst

/-! ## Layout of the common area (R343, R344) -/

/-- Units of a stripe. -/
def stripeUnits : Nat := 0xA0000000
/-- Units of the staging area, the last 1 GiB of a stripe. -/
def stagingUnits : Nat := 0x400000
/-- First stripe-relative unit of the session table, directly below the staging area in stripe 2. -/
def sessTableUnit : Nat := stripeUnits - stagingUnits - 0x40000
/-- Sessions that the fixed structures are sized for. -/
def tableSessions : Nat := 1048576

/-- The layout of an allocation with a number of pages; `base` supplies the record's values. -/
def layoutAt (base : Layout) (npool : Nat) : Layout :=
  let nblk := tableSessions + ceilDiv npool 256
  let blkb := base.alloc + 0x80000
  let histb := blkb + 4 * nblk
  let tailb := histb + 4 * ceilDiv npool 6
  let poolb := tailb + ceilDiv (ceilDiv tableSessions 6 * base.tailLen * 64) 256
  { base with
    npool := npool, nblk := nblk, dirb := base.alloc, blkb := blkb, histb := histb, tailb := tailb, poolb := poolb }

/-- Whether a layout fits in every stripe. -/
def layoutFits (l : Layout) : Bool :=
  (List.range 6).all fun m =>
    decide (l.poolb + l.npool * (l.pslice.drop m).headD 0 ≤
      if m = 2 then sessTableUnit else stripeUnits - stagingUnits)

/-- The largest number of pages that fits (R344), found from the highest bit down. -/
def largestPool (base : Layout) : Nat :=
  (List.range 32).foldl
    (fun n i => if layoutFits (layoutAt base (n + 2 ^ (31 - i))) then n + 2 ^ (31 - i) else n) 0

/-- The session-layout record of an image (R346), clamped, with allocation A of R305. -/
def layoutOf (img : List Byte) : Layout :=
  let o := (imgDir img 6).1
  let a := ceilDiv (leAt img 0x50 8 + leAt img 0x58 8 + leAt img 0x60 8) 1536
  { alloc := a
    appendMax := min 8192 (max 1 (leAt img (o + 2) 2)), tailLen := min 1024 (leAt img (o + 4) 2)
    vocab := max 1 (leAt img (o + 8) 4)
    pslice := (List.range 6).map fun m => min 0xFFFFFF (leAt img (o + 0x10 + 4 * m) 4)
    desc0 := leAt img (o + 0x30) 8, desc1 := leAt img (o + 0x38) 8
    toolrel := leAt img 0x14 4, srcid := fitBytes 48 (img.drop 0x20) }

/-- Whether two images have the same session layout (R345). -/
def sameLayout (a b : Layout) : Bool :=
  a.alloc == b.alloc && a.tailLen == b.tailLen && a.vocab == b.vocab && a.pslice == b.pslice

/-- The layout in force, or an empty one. -/
def layNow (s : State) : Layout := s.rnd.layout.getD {}

/-- Byte address of a stripe-relative unit. -/
def stripeByte (m u : Nat) : Nat := (m * stripeUnits + u) * 256

/-! ## Writing through (R332, R338, R341, R342) -/

/-- State codes of R337. -/
def sessCode : SessState → Nat
  | .free => 0
  | .active => 1
  | .marked => 2
  | .parked => 3
  | .unparking => 4
  | .failed => 5

/-- The 64 bytes of a session-table entry. -/
def sessBytes (x : Session) : List Byte :=
  natLe 8 x.seed.toNat ++ natLe 4 x.step.toNat ++ natLe 4 x.len ++ natLe 2 x.gen ++
    natLe 1 (sessCode x.state) ++ natLe 1 x.tenant ++ natLe 2 x.npage ++ natLe 2 0 ++
    natLe 4 x.idle.toNat ++ natLe 1 x.pport.toNat ++ natLe 3 0 ++ natLe 8 x.paddr.toNat ++
    natLe 4 x.tailpos.toNat ++ natLe 4 0 ++ natLe 8 x.lastRound.toNat ++ natLe 8 0

/-- Byte address of a session's entry. -/
def sessAddr (i : Nat) : Nat := stripeByte 2 sessTableUnit + 64 * i

/-- Note changed lines of the structures that other units cache (R372). -/
def noteLines (l : List Nat) (s : State) : State := modRnd (fun r => { r with lines := l.foldl (fun acc n => setIns n acc) r.lines }) s

/-- Set a session and write its entry through. -/
def putSess (i : Nat) (x : Session) (s : State) : State :=
  noteLines [sessAddr i / 64] (pmWrite (sessAddr i) (sessBytes x) { s with sess := tabPut {} s.sess i x })

/-- Change a session and write its entry through. -/
def modSess (i : Nat) (g : Session → Session) (s : State) : State := putSess i (g (sessOf s i)) s

/-- A word of all ones where a list has no entry. -/
def wordOr (l : List Nat) (k : Nat) : Nat :=
  match l.drop k with
  | x :: _ => x
  | [] => 0xFFFFFFFF

/-- Write the same bytes at one stripe-relative byte offset of all six stripes. -/
def writeSix (u off : Nat) (l : List Byte) (s : State) : State :=
  (List.range 6).foldl (fun s m => pmWrite (stripeByte m u + off) l s) s

/-- The lines of 16 words, of the first `n`, that differ between two lists of words. -/
def changedLines (n : Nat) (old new : List Nat) : List Nat :=
  (List.range n).filter fun j => (List.range 16).any fun w => wordOr old (16 * j + w) != wordOr new (16 * j + w)

/-- The lines of a session's directory and blocks that change with its pages and blocks, in all six stripes. -/
def dirLines (s : State) (i : Nat) (old new : Session) : List Nat :=
  let l := layNow s
  let dir := (changedLines 2 old.blocks new.blocks).map fun j => l.dirb * 4 + 2 * i + j
  let blk := (changedLines (16 * new.blocks.length) old.pages new.pages).map fun j =>
    l.blkb * 4 + 16 * wordOr new.blocks (j / 16) + j % 16
  (List.range 6).flatMap fun m => (dir ++ blk).map fun n => stripeByte m 0 / 64 + n

/-- Write a session's directory and blocks in all six stripes (R341); `old` is the session before its pages changed. -/
def writeDirs (i : Nat) (old : Session) (s0 : State) : State :=
  let s := noteLines (dirLines s0 i old (sessOf s0 i)) s0
  let x := sessOf s i
  let l := layNow s
  let s1 := writeSix l.dirb (128 * i) ((List.range 32).flatMap fun k => natLe 4 (wordOr x.blocks k)) s
  x.blocks.zipIdx.foldl (fun s b =>
    writeSix l.blkb (1024 * b.1) ((List.range 256).flatMap fun k => natLe 4 (wordOr x.pages (256 * b.2 + k))) s) s1

/-- Byte address of the history word of a position of a session (R342). -/
def histAddr (s : State) (i pos : Nat) : Nat :=
  let p := wordOr (sessOf s i).pages (pos / 256)
  stripeByte (p % 6) (layNow s).histb + 1024 * (p / 6) + 4 * (pos % 256)

/-- Write tokens to the history from a position on. -/
def writeHist (i pos : Nat) (toks : List W32) (s : State) : State :=
  toks.zipIdx.foldl (fun s t => pmWrite (histAddr s i (pos + t.2)) (natLe 4 t.1.toNat) s) s

/-- The history token at a position. -/
def histTok (s : State) (i pos : Nat) : W32 := memWord s.pmem.data (histAddr s i pos)

/-! ## Pages and blocks (R341, R352) -/

/-- The `k`-th number from `lo` on that a rising list leaves free. -/
def nthFree (k : Nat) : Nat → List Nat → Nat
  | lo, [] => lo + k
  | lo, u :: us => if lo + k < u then lo + k else nthFree (k - (u - lo)) (u + 1) us

/-- A rising list of numbers without repeats. -/
def rising (l : List Nat) : List Nat := l.foldl (fun acc x => setIns x acc) []

/-- Pages that sessions hold, committed or tentative. -/
def usedPages (s : State) : List Nat := rising (s.sess.flatMap fun p => p.2.pages)
/-- Blocks that sessions hold. -/
def usedBlocks (s : State) : List Nat := rising (s.sess.flatMap fun p => p.2.blocks)

/-- Whether invalidations are still unacknowledged (R372): a flit of them waits at the interface of the live die that sends them, to be sent or to be
acknowledged. -/
def invalWaits (s : State) (v : Inval) : Bool :=
  let n := niOf s v.die
  dieLive s v.die && (n.inj ++ n.sent.map (·.flit)).any fun f => f.chan == 2 && f.hdr.drank == v.drank && f.hdr.msg == v.msg

/-- Released pages that an unacknowledged invalidation names, or one that is still to be sent. -/
def heldPages (s : State) : List Nat := s.rnd.gonePages ++ (s.rnd.invals.filter (invalWaits s)).flatMap (·.pages)
/-- Released blocks likewise. -/
def heldBlocks (s : State) : List Nat := s.rnd.goneBlocks ++ (s.rnd.invals.filter (invalWaits s)).flatMap (·.blocks)

/-- Pages that cannot be taken: in use, or released and not yet free of invalidations (R372). -/
def takenPages (s : State) : List Nat := rising (usedPages s ++ heldPages s)
/-- Blocks that cannot be taken. -/
def takenBlocks (s : State) : List Nat := rising (usedBlocks s ++ heldBlocks s)

/-- Pages neither committed nor tentatively allocated. -/
def poolFree (s : State) : Nat := (layNow s).npool - (usedPages s).length

/-- Take a free one of `n` numbered things; which one is a free value (log entry 5). -/
def takeFree (n : Nat) (used : List Nat) (s : State) : Nat × State :=
  (nthFree (Config.freeChoice s.free % max 1 (n - used.length)) 0 used, { s with free := s.free + 1 })

/-- Give a session `n` more pages and the blocks they need. -/
def addPages (i : Nat) : Nat → State → State
  | 0, s => s
  | n + 1, s =>
    let r := takeFree (layNow s).npool (takenPages s) s
    let x := sessOf r.2 i
    let s1 := { r.2 with sess := tabPut {} r.2.sess i { x with pages := x.pages ++ [r.1] } }
    let s2 :=
      if x.blocks.length * 256 < x.pages.length + 1 then
        let b := takeFree (layNow s1).nblk (takenBlocks s1) s1
        { b.2 with sess := tabMod {} b.2.sess i fun y => { y with blocks := y.blocks ++ [b.1] } }
      else s1
    addPages i n s2

/-- Whether a session can be given pages up to `n`: enough pages and blocks can be taken. -/
def canGrow (s : State) (x : Session) (n : Nat) : Bool :=
  decide (n - x.pages.length ≤ (layNow s).npool - (takenPages s).length) &&
    decide (ceilDiv n 256 - x.blocks.length ≤ (layNow s).nblk - (takenBlocks s).length)

/-- Extend a session to `n` pages; `none` when too few can be taken. -/
def growTo (i n : Nat) (s : State) : Option State :=
  let x := sessOf s i
  if n ≤ x.pages.length then some s
  else if canGrow s x n then some (writeDirs i x (addPages i (n - x.pages.length) s))
  else none

/-- Release a session's pages beyond the first `n` (step 4 of R361, R363); none is reused before every invalidation that names it has been
acknowledged (R372). -/
def trimPages (i n : Nat) (s : State) : State :=
  let x := sessOf s i
  if x.pages.length ≤ n then s
  else
    let b := ceilDiv n 256
    modRnd (fun r => { r with gonePages := r.gonePages ++ x.pages.drop n, goneBlocks := r.goneBlocks ++ x.blocks.drop b })
      (writeDirs i x { s with sess := tabPut {} s.sess i { x with pages := x.pages.take n, blocks := x.blocks.take b } })

/-! ## The free list (R334) -/

/-- Take the index at the head of the free list. -/
def takeIndex (s : State) : Option (Nat × State) :=
  match s.rnd.freeIdx with
  | [] => none
  | (lo, hi) :: l =>
    some (lo, modRnd (fun r => { r with freeIdx := if lo + 1 < hi then (lo + 1, hi) :: l else l }) s)

/-- The generation after another. -/
def nextGen (g : Nat) : Nat := if g = 4095 then 1 else g + 1

/-- Drop a session's parked image and copies from every park port. -/
def dropPark (i : Nat) (s : State) : State :=
  { s with park := tabMap {} (fun q => { q with
      images := q.images.filter (·.index != i), jobs := q.jobs.filter (·.index != i) }) s.park }

/-- Free a session: its pages, blocks and park image go, its generation advances, its index joins the
tail of the free list (R334, R347). -/
def freeSession (i : Nat) (s : State) : State :=
  let x := sessOf s i
  let s1 := trimPages i 0 s
  let s2 := putSess i { gen := nextGen x.gen } (dropPark i s1)
  modRnd (fun r => { r with
    freeIdx := if i < licSessions s.boot.lic then r.freeIdx ++ [(i, i + 1)] else r.freeIdx
    fenceSess := setDel i r.fenceSess }) s2

/-- A range of the free list cut at a limit. -/
def cutRange (limit : Nat) (p : Nat × Nat) : Option (Nat × Nat) :=
  if p.1 < min p.2 limit then some (p.1, min p.2 limit) else none

/-- The free list when the session limit changes from `old` to `new` (R334). -/
def relimit (old new : Nat) (s : State) : State :=
  modRnd (fun r => { r with
    freeIdx := if old < new then r.freeIdx ++ [(old, new)] else r.freeIdx.filterMap (cutRange new) }) s

/-! ## Tail logs (R554, R555) -/

/-- CRC-32 (IEEE 802.3 polynomial, reflected) of a byte list. -/
def crc32Bytes (l : List Byte) : W32 :=
  l.foldl (fun c b =>
    (List.range 8).foldl (fun c _ => if c.getLsbD 0 then (c >>> 1) ^^^ 0xEDB88320 else c >>> 1)
      (c ^^^ b.zeroExtend 32)) 0xFFFFFFFF ^^^ 0xFFFFFFFF

/-- Byte address of a session's tail-log entry. -/
def tailAddr (s : State) (i : Nat) (n : W32) : Nat :=
  let l := layNow s
  stripeByte (i % 6) l.tailb + (i / 6 * l.tailLen + n.toNat % l.tailLen) * 64

/-- Write one tail-log entry; nothing with TAILLEN 0. -/
def tailEntry (i : Nat) (round : W64) (kind nadd : Nat) (acrc : W32) (nemit : Nat) (body : List Byte)
    (s : State) : State :=
  if (layNow s).tailLen = 0 then s
  else
    let x := sessOf s i
    let bytes := natLe 8 round.toNat ++ natLe 4 x.tailpos.toNat ++ natLe 4 x.len ++ natLe 4 x.step.toNat ++
      natLe 1 kind ++ natLe 1 nemit ++ natLe 2 nadd ++ natLe 4 acrc.toNat ++ natLe 4 0 ++ fitBytes 32 body
    modSess i (fun y => { y with tailpos := y.tailpos + 1 }) (pmWrite (tailAddr s i x.tailpos) bytes s)

/-- Bytes of tokens. -/
def tokBytes (l : List W32) : List Byte := l.flatMap fun t => natLe 4 t.toNat

/-- The entries of a commit: KIND 0 STEP, 1 APPEND or 2 DRAFT, with a CONT entry beyond 8 tokens. -/
def tailCommit (i : Nat) (round : W64) (kind : Nat) (added emitted : List W32) (s : State) : State :=
  let s1 := tailEntry i round kind added.length (if added.isEmpty then 0 else crc32Bytes (tokBytes added))
    (min 8 emitted.length) (tokBytes (emitted.take 8)) s
  if 8 < emitted.length then
    tailEntry i round 5 0 0 (emitted.length - 8) (tokBytes (emitted.drop 8)) s1
  else s1

end Sys2Proof.Machine
end

