-- ==== Sys2Proof/Machine/Responses.lean ====
section
/-! DEFINITION. Mailbox responses (R409, R413, R424 to R428) and the outcome of pending swaps (R192). -/

namespace Sys2Proof.Machine

open Sys2Proof

/-! ## Status and reason codes (R424, R425) -/

/-- OK. -/
def rsOk : Nat := 0
/-- BUSY. -/
def rsBusy : Nat := 1
/-- REFUSED. -/
def rsRefused : Nat := 2
/-- LATE. -/
def rsLate : Nat := 3
/-- UNLICENSED. -/
def rsUnlicensed : Nat := 4
/-- BAD_IMAGE. -/
def rsBadImage : Nat := 5
/-- NOT_FOUND. -/
def rsNotFound : Nat := 6
/-- PARTIAL. -/
def rsPartial : Nat := 7
/-- UNKNOWN_OPCODE. -/
def rsUnknown : Nat := 8

/-- A response: status, CLAMPED, HANDOVER, RETRY, REASON, ARG, the RESULT bytes, and for a command that
writes a bulk buffer its output with the unit that BLEN and BNEED count (R426, R550). -/
structure Rsp where
  status : Nat := 0
  clamped : Bool := false
  handover : Bool := false
  retry : Nat := 0
  reason : Nat := 0
  arg : Nat := 0
  result : List Byte := []
  bulk : Option (List Byte) := none
  unit : Nat := 1
  deriving DecidableEq, Repr

/-- REFUSED with a reason. -/
def rspRefused (reason : Nat) (arg : Nat := 0) : Rsp := { status := rsRefused, reason := reason, arg := arg }
/-- REFUSED, REASON STATE. -/
def rspState : Rsp := rspRefused 3
/-- BUSY with a reason and a wait within the range of R419. -/
def rspBusy (reason arg retry : Nat) : Rsp :=
  { status := rsBusy, reason := reason, arg := arg, retry := min 1000000 (max 10 retry) }
/-- NOT_FOUND with the offset of the field concerned. -/
def rspNotFound (arg : Nat := 0) : Rsp := { status := rsNotFound, arg := arg }

/-- A time word from epoch and count, in little-endian bytes. -/
def timeBytes (s : State) : List Byte := natLe 8 (timeWord s).toNat

/-- RESULT from fields: offset and bytes, zeros elsewhere. -/
def fieldsAt (l : List (Nat × List Byte)) : List Byte :=
  l.foldl (fun acc p => overlay acc p.1 p.2) (List.replicate 224 0)

/-- A die list (R428): the 256-bit map, the byte per die, the number of dies marked. -/
def dieList (l : List (Nat × Nat)) : List Byte × List Byte × Nat :=
  ((List.range 32).map fun i => BitVec.ofNat 8 (((List.range 8).filter fun j => l.any fun p => p.1 == 8 * i + j).map
      (fun j => 2 ^ j)).sum,
   (List.range 226).map fun d => BitVec.ofNat 8 (((l.find? fun p => p.1 == d).map Prod.snd).getD 0),
   l.length)

/-! ## Writing a response (R413, R426) -/

/-- The response to be written once bulk output has been dealt with: TRUNC and a failed or misaligned
write. -/
def bulkRsp (q : MbReq) (r : Rsp) : Rsp × Bool × Nat :=
  match r.bulk with
  | none => (r, false, 0)
  | some b =>
    let need := ceilDiv b.length r.unit
    if !q.bulkv then (r, false, need)
    else if q.baddr.toNat % 64 ≠ 0 then (rspRefused 8 0, false, need)
    else if !q.env.writeOk then ({ r with status := rsRefused, reason := 8, arg := 2 }, false, need)
    else (r, decide (q.blen.toNat < need), need)

/-- The 256 bytes of the response area. -/
def rspBytes (op : Nat) (q : MbReq) (r : Rsp) (trunc : Bool) (need : Nat) : List Byte :=
  natLe 2 op ++ natLe 1 r.status ++
    natLe 1 (r.clamped.toNat + 2 * trunc.toNat + 4 * r.handover.toNat) ++ natLe 4 q.tag.toNat ++
    natLe 4 r.retry ++ natLe 4 need ++ natLe 2 r.reason ++ natLe 2 r.arg ++ natLe 12 0 ++ fitBytes 224 r.result

/-- Words of a byte list. -/
def wordsOf (l : List Byte) : Tab W32 :=
  tabPuts 0 [] ((List.range 64).map fun i => (i, BitVec.ofNat 32 (leAt l (4 * i) 4)))

/-- Bulk output that is written: the bytes that fit. -/
def bulkOut (q : MbReq) (r : Rsp) (s : State) : State :=
  match r.bulk with
  | none => s
  | some b =>
    if q.bulkv && q.baddr.toNat % 64 == 0 && q.env.writeOk && !b.isEmpty then
      emit (.bulk q.fn q.baddr (b.take (q.blen.toNat * r.unit))) s
    else s

/-- Complete a request: bulk output, response area, MB_RSPTAG, OWN and TAKEN, then vector 0 unless NOINT
was set.  A request whose function was reset meanwhile writes no response (R414). -/
def respond (op : Nat) (q : MbReq) (r : Rsp) (s : State) : State :=
  if (fnOf s q.fn).mb.dropped then
    modMb q.fn (fun _ => {}) s
  else
    let b := bulkRsp q r
    let s1 := bulkOut q r s
    let s2 := modMb q.fn (fun m => { m with
      rsp := wordsOf (rspBytes op q b.1 b.2.1 b.2.2), rsptag := q.tag
      own := false, taken := false, cls := 0, long := none }) s1
    let s3 := setCause q.fn 1 s2
    if q.noint then s3 else sendVec q.fn 0 s3

/-- Leave a long command outstanding. -/
def hold (q : MbReq) (op : LongOp) (s : State) : State :=
  modMb q.fn (fun m => { m with own := true, taken := true, long := some (q, op) }) s

/-- Opcode of the command that a long operation belongs to. -/
def longOpcode : LongOp → Nat
  | .stop => 0x23
  | .flagsClear _ => 0x56
  | .swap _ _ => 0x31
  | .mode _ => 0x33
  | .window _ _ => 0x60
  | .tenantReset _ _ => 0x61
  | .retire _ => 0x53
  | .import_ _ => 0x71
  | .fence => 0x73
  | .bindOff => 0x82

/-- The functions whose mailboxes hold a long command that satisfies a test. -/
def longFns (s : State) (p : LongOp → Bool) : List Nat :=
  (s.fns.map Prod.fst).filter fun f => match (fnOf s f).mb.long with | some x => p x.2 | none => false

/-- Complete the long commands that satisfy a test. -/
def finishLongs (p : LongOp → Bool) (r : LongOp → State → Rsp) (s : State) : State :=
  (longFns s p).foldl (fun s f =>
    match (fnOf s f).mb.long with
    | some x => respond (longOpcode x.2) x.1 (r x.2 s) s
    | none => s) s

/-! ## The echo of TENANT_CONFIGURE (R443) -/

/-- The values that a request applies: those of its selected parts are clamped and rounded (R387). -/
def cfgApplied (lic : Option Licence) (c : TenantCfg) : TenantCfg :=
  let w := c.which
  { c with
    quota := if w.getLsbD 0 then BitVec.ofNat 32 (min c.quota.toNat (licSessions lic)) else c.quota
    rings := c.rings.zipIdx.map fun x =>
      if w.getLsbD (3 + x.2) then
        { x.1 with
          k := BitVec.ofNat 8 (min 16 (max 6 x.1.k.toNat)), sqbase := x.1.sqbase &&& ~~~0xFFF
          cqbase := x.1.cqbase &&& ~~~0xFFF }
      else x.1 }

/-- The bytes 0x00 to 0xBF of a request. -/
def cfgBytes (c : TenantCfg) : List Byte :=
  natLe 1 c.tenant.toNat ++ natLe 1 0 ++ natLe 2 c.which.toNat ++ natLe 4 c.quota.toNat ++ natLe 4 c.age.toNat ++
    natLe 1 c.wstripe.toNat ++ natLe 3 0 ++ natLe 8 c.woff.toNat ++ natLe 8 c.wlen.toNat ++
    c.rings.flatMap fun r => natLe 1 r.en.toNat ++ natLe 1 r.k.toNat ++ natLe 2 0 ++ natLe 8 r.sqbase.toNat ++ natLe 8 r.cqbase.toNat

/-- The response of a request that is carried out. -/
def cfgRsp (s : State) (c : TenantCfg) : Rsp :=
  { clamped := cfgApplied s.boot.lic c != c, result := fieldsAt [(0, cfgBytes (cfgApplied s.boot.lic c))] }

/-! ## Modes and sets -/

/-- Mode codes of MODE_SET. -/
def modeCode : Mode → Nat
  | .steady => 0
  | .brisk => 1
  | .lean => 2

/-- The mode of a code. -/
def modeOf (n : Nat) : Option Mode :=
  if n = 0 then some .steady else if n = 1 then some .brisk else if n = 2 then some .lean else none

/-- Opcode of the command that a pending swap belongs to (R427). -/
def swapHolder (w : Swap) : Nat :=
  match w.kind with
  | .sets => 0x31
  | .mode _ => 0x33
  | .window _ => 0x60

/-- Whether a long command waits for the pending swap. -/
def isSwapOp : LongOp → Bool
  | .swap _ _ => true
  | .mode _ => true
  | .window _ _ => true
  | _ => false

/-- The response of a swap command: status, and the dies concerned with their codes. -/
def swapRsp (status : Nat) (l : List (Nat × Nat)) (op : LongOp) (s : State) : Rsp :=
  let d := dieList l
  let base : Rsp := { status := status, reason := if status = rsOk then 0 else 9, arg := d.2.2 }
  match op with
  | .swap target checked =>
    { base with
      result := fieldsAt [(0, natLe 8 checked.toNat), (8, natLe 8 target.toNat), (0xC0, d.1)], bulk := some d.2.1 }
  | .mode _ =>
    { base with result := fieldsAt [(0, natLe 1 (modeCode s.lode.mode)), (8, timeBytes s), (0xC0, d.1)] }
  | .window _ cfg => if status = rsOk then cfgRsp s cfg else { base with arg := 0 }
  | _ => { base with arg := 0 }

/-- Put every shadow set that a refused MODE_SET staged back to the mode it held (R193). -/
def unstageMode (w : Swap) (s : State) : State :=
  match w.kind with
  | .mode _ => modDies (liveDies s) (fun x => { x with shadow := { x.shadow with mode := w.old } }) s
  | _ => s

/-- Refuse the pending swap: every die is disarmed, nothing changes, and the command names the dies
(R190, R192).  A die that did not confirm a SET_WRITE stays not ready (R428). -/
def refuseSwap (l : List (Nat × Nat)) (s : State) : State :=
  match s.swp with
  | none => s
  | some w =>
    let s1 := modDies (List.range numDies) (fun x => { x with
      arm := if x.arm = .notReady then .notReady else .idle, swapGot := none, withheld := false })
      (unstageMode w s)
    finishLongs isSwapOp (swapRsp rsRefused l) { s1 with swp := none, lode := { s1.lode with nacks := [] } }

end Sys2Proof.Machine
end

