-- ==== Sys2Proof/Machine/Abort.lean ====
section
/-! DEFINITION. Aborting, replaying and stopping rounds (R163, R223 to R225, R363, R365, R490, R492), going
out of service (R504) and what a poisoned read brings about (R313). -/

namespace Sys2Proof.Machine

open Sys2Proof

/-- The time of a freeze that an abort cancels joins the reference counts and the totals (R158, R194).  No command measures it: it is a free
value (log entry 134). -/
def endFreeze (s : State) : State :=
  if s.lode.frozen then
    let n := Config.cancelledFreeze s.free
    let s1 := modDies (liveDies s) (fun x => { x with ref := x.ref + n }) s
    { s1 with
      free := s1.free + 1
      lode := { s1.lode with stall := s1.lode.stall + n.toNat, added := s1.lode.added + n } }
  else s

/-- What an abort cancels of tick hold (R174): the pending extension and any freeze. -/
def cancelHold (s : State) : State :=
  let s1 := endFreeze s
  { s1 with
    lode := { s1.lode with
      frozen := false, freezeAt := none, resumeAt := none, holders := [], reported := false } }

/-! ## Draining (R259, R260) -/

/-- An interface through a drain: transit flits are ejected or discarded and will be sent again; acknowledgements and invalidations that wait carry across, and
unacknowledged flits are sent again at once when injection resumes; the drain is counted (R269). -/
def niDrain (n : NI) : NI :=
  { n with
    inq := [], inj := (n.inj.filter fun f => f.hdr.kind == 1 || (f.chan == 2 && !n.sent.any fun x => x.flit == f)) ++ n.sent.map (·.flit), drained := false, cnt := cntInc n.cnt 7 }

/-- Drain the fabric and write new tables to every interface.  The empty reports, the table writes and their acknowledgements pass within the
command, so one table stands for the copies of all interfaces (R240, R259; log entry 139). -/
def drainFabric (s : State) : State :=
  { s with nis := tabPuts {} [] ((List.range numDies).map fun d => (d, niDrain (niOf s d))) }

/-! ## The compute field (R115, R118, R492) -/

/-- A stream core at a round's start (R118); its entry for section 0 is 0 (R210). -/
def coreRestart (k : Core) : Core :=
  { store := k.store, cwin := k.cwin, pwin := k.pwin }

/-- Every core of a cluster changed. -/
def cluCores (f : Core → Core) (c : Cluster) : Cluster :=
  { c with cores := (List.range 8).foldl (fun t n => tabMod {} t n f) c.cores }

/-- A cluster at a round-start knot (R118). -/
def cluRoundStart (c : Cluster) : Cluster :=
  cluCores coreRestart { c with pausedSet := false, claims := [], drain := [] }

/-- A cluster when a pattern starts and when a round is replayed (R115, R118): no tile loaded, canonical zero
in every accumulator, flags clear, round record discarded (R78).  The geometry in force stays what it was: the manual names none before the
first MMA (R89; DESIGN CHOICE, log entry 126). -/
def cluFresh (c : Cluster) : Cluster :=
  cluRoundStart { c with
    mx := { ternary := c.mx.ternary, waitCount := c.mx.waitCount, busyCount := c.mx.busyCount }
    mflags := 0, vflags := 0, mrec := 0, vrec := 0, inflight := [], handed := [], srvs := [] }

/-- A cluster that has lost its power: its counters and settings stay, its contents are those of power-up. -/
def unpowered (c : Cluster) : Cluster :=
  { trim := c.trim, vceil := c.vceil, warnIv := c.warnIv, quiet := c.quiet, extCaused := c.extCaused
    freezeReqs := c.freezeReqs, pauseCyc := c.pauseCyc, tbu := c.tbu, base := c.base
    mx := { waitCount := c.mx.waitCount, busyCount := c.mx.busyCount } }

/-- A network interface after an abort (R492): set engines, retiming buffers and landing buffers empty, and
the transfers of micro-ops cancelled. -/
def niFresh (n : NI) : NI :=
  { n with
    due := [], retime := [], landing := [], arriving := [], sent := [], held := []
    rx := n.rx.filter fun x => x.sclass != 0
    inj := n.inj.filter fun f => f.hdr.kind == 1 }

/-- The compute field after an abort: every cluster of every logical site and its network interface. -/
def fieldFresh (s : State) : State :=
  (siteDies s).foldl (fun s d =>
    (List.range 4).foldl (fun s k => modClu d k cluFresh s)
      (modNI d niFresh (modDie d (fun x => { x with arrived := none, reporting := false }) s))) s

/-- Whether a swap is a change of a tenant's window (R222). -/
def isWindow : SwapKind → Bool
  | .window _ => true
  | _ => false

/-- What every abort does: tick hold is cancelled, the field is put back, arrivals are forgotten, and a swap
that has been committed and not yet taken is withheld (R174, R192, R492). -/
def abortField (s : State) : State :=
  let s1 := fieldFresh (cancelHold s)
  let s2 := { s1 with lode := { s1.lode with arrivals := [] } }
  match s2.swp with
  | some w =>
    if w.sent && !isWindow w.kind then refuseSwap ((liveDies s2).map fun d => (d, 6)) s2 else s2
  | none => s2

/-! ## Completing requests -/

/-- The request of an id. -/
def reqOf (s : State) (id : Nat) : Option Req := s.rnd.reqs.find? fun r => r.id == id

/-- Change a request. -/
def modReq (id : Nat) (g : Req → Req) (s : State) : State :=
  modRnd (fun r => { r with reqs := r.reqs.map fun x => if x.id = id then g x else x }) s

/-- Drop a request. -/
def dropReq (id : Nat) (s : State) : State :=
  modRnd (fun r => { r with reqs := r.reqs.filter fun x => x.id != id }) s

/-- The IMPORT entry of a session's tail log (R555). -/
def tailImport (index : Nat) (s : State) : State :=
  tailEntry index 0 4 0 0 0 (natLe 8 (sessOf s index).seed.toNat) s

/-- Complete a SESSION_IMPORT that was rebuilding (R553): an index that failed is freed. -/
def finishImport (index : Nat) (ok : Bool) (s : State) : State :=
  let s1 := if ok then tailImport index { s with sess := tabMod {} s.sess index fun x => { x with rebuild := false } }
            else freeSession index s
  finishLongs (fun o => o == .import_ index)
    (fun _ s => if ok then
        { result := fieldsAt [(0, natLe 4 (handleOf s index).toNat), (4, natLe 4 (sessOf s index).len)] }
      else rspState) s1

/-- Complete a request with a FINAL record that carries no token. -/
def finishReq (r : Req) (status : Nat) (round : W64) (s : State) : State :=
  let s1 := dropReq r.id s
  match r.intern with
  | some _ => finishImport r.index (status == stOk) s1
  | none =>
    putRecord r.tenant r.pair r.d.noint {
      usertag := r.d.usertag, handle := r.d.handle, len := (sessOf s r.index).len, status := status
      clamped := r.clamped, applied := r.applied, round := round } s1

/-- The requests of a session. -/
def reqsOf (s : State) (i : Nat) : List Req := s.rnd.reqs.filter fun r => r.index == i && r.op != 1 && r.op != 5

/-! ## Sessions that fail (R313, R363, R370, R405) -/

/-- Byte address of descriptor area `k mod 2`. -/
def descAddr (s : State) (k : W64) : Nat :=
  (if k.toNat % 2 = 0 then (layNow s).desc0 else (layNow s).desc1) * 256

/-- Rows of the parts before the one of a session. -/
def rowsBefore (i : Nat) : List Part → Nat
  | [] => 0
  | p :: ps => if p.index = i then 0 else p.rows + rowsBefore i ps

/-- Clear LIVE in a session's rows of the descriptor (R363). -/
def clearLive (i : Nat) (s : State) : State :=
  match s.rnd.parts.find? fun p => p.index == i with
  | none => s
  | some p =>
    let a := descAddr s s.rnd.no + 256 + 4 * rowsBefore i s.rnd.parts
    let s1 := (List.range p.rows).foldl (fun s j =>
      pmWrite (a + 4 * j) (natLe 4 ((memWord s.pmem.data (a + 4 * j)).toNat % 2 ^ 31)) s) s
    modRnd (fun r => { r with parts := r.parts.map fun p => if p.index = i then { p with live := false } else p }) s1

/-- A session becomes FAILED: its tentative pages are released, its waiting requests complete with FAILED,
and its owner learns of it (R363, R405, R574). -/
def failSession (i : Nat) (s : State) : State :=
  let x := sessOf s i
  let s1 := clearLive i s
  let s2 := trimPages i x.npage s1
  let s3 := putSess i { sessOf s2 i with state := .failed } (dropPark i s2)
  let s4 := modBoot (fun b => if b.binding.isSome then { b with bindFailed := b.bindFailed + 1 } else b)
    (setCause x.tenant 0x800 (fnCount x.tenant 0x1013C 1 s3))
  (reqsOf s4 i).foldl (fun s r => finishReq r stFailed 0 s) s4

/-! ## Stopping (R223, R365) -/

/-- Every session's tentative pages are released. -/
def releaseTentative (s : State) : State :=
  s.sess.foldl (fun s p => if p.2.state = .active ∨ p.2.state = .marked then trimPages p.1 p.2.npage s else s) s

/-- Stop the pattern in the abort form: the requests admitted to the round complete with ABORTED, sessions
stay at their last commit, and the compute field is idle. -/
def stopPattern (s : State) : State :=
  if s.pat.running.isNone then s
  else
    let s1 := abortField s
    let rs := if s1.rnd.active then s1.rnd.reqs.filter (·.inRound) else []
    let s2 := rs.foldl (fun s r => finishReq r stAborted 0 s) s1
    let s3 := releaseTentative s2
    let s4 := modRnd (fun r => { r with active := false, parts := [] }) s3
    let s5 := { s4 with pat := { staged := s4.pat.staged, committed := s4.pat.committed, aborted := rs.length } }
    { s5 with pwr := { s5.pwr with pause := 0 } }

/-- Idle the field after the boundary form (R223). -/
def stopAtBoundary (s : State) : State :=
  let s1 := abortField s
  let s2 := modRnd (fun r => { r with active := false, parts := [] }) s1
  { s2 with pat := { staged := s2.pat.staged, committed := s2.pat.committed }, pwr := { s2.pwr with pause := 0 } }

/-- Mark the last fault record with STOP (R225, R490). -/
def markStop (s : State) : State :=
  { s with flog := { s.flog with
      recs := match s.flog.recs.reverse with
        | r :: l => (({ r with stop := true }) :: l).reverse
        | [] => [] } }

/-- Whether a record is of a pattern fault (R229). -/
def isPatRec (r : FaultRec) : Bool := decide (1 ≤ r.code.toNat) && decide (r.code.toNat ≤ 6)

/-- Mark with STOP the first pattern fault recorded since the run in progress began (R225). -/
def markStopRun (s : State) : State :=
  let n := s.pat.runFrom - (s.flog.next.toNat - s.flog.recs.length)
  match (s.flog.recs.drop n).findIdx? isPatRec with
  | some i => { s with flog := { s.flog with recs := listMod (fun r => { r with stop := true }) s.flog.recs (n + i) } }
  | none => s

/-- A fault stops the pattern: STOP in its record, the abort form, event 0x08 and vector 2 everywhere. -/
def stopOnFault (s : State) : State :=
  if s.pat.running.isNone then s else stopNotice (stopPattern (markStop s))

/-! ## Replaying (R225, R363, R495) -/

/-- The start knot of the round in progress fires again: the round runs from its descriptor. -/
def replayRound (s : State) : State :=
  let img := runImg s
  let n := imgNsect img
  let k := stitchNow s
  let s1 := modDies (siteDies s) (fun x => { x with pfRun := 0 }) s
  { s1 with pat := { s1.pat with
      sect := 0, inSect := false, replay := true, runFrom := s.flog.next.toNat
      first := k + BitVec.ofNat 48 (knotOffset img (n - 1)) } }

/-- Abort the round for a cause that is replayed: after four aborts the pattern stops instead (R490). -/
def abortReplay (s : State) : State :=
  if s.pat.running.isNone then s
  else
    let s1 := abortField s
    if !s1.rnd.active then s1
    else if 3 ≤ s1.pat.aborts then stopOnFault s1
    else replayRound { s1 with pat := { s1.pat with aborts := s1.pat.aborts + 1 } }

/-- Abort the round with a sync cause: 2 timebase, 3 hardware, 5 fabric (R266). -/
def abortRound (_cause : Nat) (s : State) : State := abortReplay s

/-- A pattern fault aborts the round, which is replayed once; a second run with a pattern fault stops the
pattern (R224, R225). -/
def abortPatternFault (s : State) : State :=
  if s.pat.running.isNone then s
  else if s.pat.pfRound then stopNotice (stopPattern (markStopRun s))
  else
    let s1 := abortReplay s
    if s1.pat.running.isSome then { s1 with pat := { s1.pat with pfRound := true } } else s1

/-! ## Out of service (R504) -/

/-- The panel goes out of service: the pattern stops, PSTATE and PHASE say so, a record 0x53 is written for
`rec` and event 0x08 and vector 2 are raised. -/
def goOut (d : Nat) (rec : FaultRec) (s : State) : State :=
  if s.boot.pstate = 7 then s
  else
    let s1 := stopPattern s
    let s2 := modBoot (fun b => { b with pstate := 7, phase := 12 }) s1
    stopNotice (addFault d { rec with code := 0x53 } s2)

/-- Out of service for a stripe or a course (DETAIL 0xFF). -/
def goOutOfService (d : Nat) (s : State) : State := goOut d { code := 0x53, detail := 0xFF } s

/-! ## Poison (R313) -/

/-- Whether a panel-memory unit lies in a write-permitted panel window of some stream core. -/
def inWorkingWindow (s : State) (paddr : Nat) : Bool :=
  (siteDies s).any fun d => (List.range 4).any fun k => (cluOf s d k).cores.any fun c =>
    c.2.pwin.any fun w => w.w && decide (w.base ≤ paddr) && decide (paddr < w.base + w.len)

/-- Whether a byte of panel memory belongs to a session's state in the common area. -/
def ownsByte (s : State) (i : Nat) (x : Session) (a : Nat) : Bool :=
  let l := layNow s
  let m := a / 256 / stripeUnits
  let o := a - m * stripeUnits * 256
  let within := fun (b n : Nat) => decide (b ≤ o) && decide (o < b + n)
  (m == 2 && within (sessTableUnit * 256 + 64 * i) 64) ||
  within (l.dirb * 256 + 128 * i) 128 ||
  x.blocks.any (fun b => within (l.blkb * 256 + 1024 * b) 1024) ||
  x.pages.any (fun p => (p % 6 == m && within (l.histb * 256 + 1024 * (p / 6)) 1024) ||
    within ((l.poolb + p * (l.pslice.drop m).headD 0) * 256) ((l.pslice.drop m).headD 0 * 256)) ||
  (i % 6 == m && within (l.tailb * 256 + i / 6 * l.tailLen * 64) (l.tailLen * 64))

/-- The sessions whose state holds a byte. -/
def ownersOf (s : State) (a : Nat) : List Nat :=
  (s.sess.filter fun p => p.2.state != .free && p.2.state != .failed && ownsByte s p.1 p.2 a).map Prod.fst

/-- Discard the staged or the committed image; which of them the staging area's unit held is a free value
when both are held. -/
def dropStaging (s : State) : State :=
  let p := s.pat
  if p.staged.isSome && p.committed.isSome then
    (if Config.freeChoice s.free % 2 = 0 then { s with pat := { p with staged := none }, free := s.free + 1 }
     else { s with pat := { p with committed := none }, free := s.free + 1 })
  else { s with pat := { p with staged := none, committed := none } }

/-- Whether a unit lies in the resident image of the running pattern: within one of the ranges to which it was written when the pattern
started (R313). -/
def inResident (s : State) (paddr : Nat) : Bool :=
  s.pat.running.isSome && s.pat.resident.any fun x => decide (x.1 ≤ paddr) && decide (paddr < x.1 + x.2)

/-- What follows the reading of a poisoned unit: by where it lies, the pattern stops, the round is replayed
once, the session fails, or an image is discarded (R313). -/
def mpoHandle (paddr : Nat) (mask : BitVec 4) (s : State) : State :=
  let secs := ((List.range 4).filter fun k => mask.getLsbD k).map fun k => paddr * 4 + k
  if secs.any fun x => s.pat.memReplay.contains x then stopOnFault s
  else
    let seen := fun (s : State) =>
      if s.pat.running.isSome then { s with pat := { s.pat with memReplay := secs ++ s.pat.memReplay } } else s
    if inResident s paddr then stopOnFault s
    else if inWorkingWindow s paddr then seen (abortReplay s)
    else if paddr % stripeUnits < (layNow s).alloc then stopOnFault s
    else if stripeUnits - stagingUnits ≤ paddr % stripeUnits then abortReplay (dropStaging s)
    else
      let who := rising (secs.flatMap fun x => ownersOf s (x * 64))
      seen (raiseOwners (who.map fun i => (sessOf s i).tenant) (who.foldl (fun s i => failSession i s) (abortReplay s)))

end Sys2Proof.Machine
end

