-- ==== Sys2Proof/Machine/Park.lean ====
section
/-! DEFINITION. Park memory (R366 to R371, R401 to R406): placement, marks, moves, unparks and their
failures. -/

namespace Sys2Proof.Machine

open Sys2Proof

/-- A park port. -/
def portOf (s : State) (p : Nat) : ParkPort := tabGet {} s.park p
/-- Change a park port. -/
def modPort (p : Nat) (g : ParkPort → ParkPort) (s : State) : State := { s with park := tabMod {} s.park p g }

/-! ## Placement (R401, R402) -/

/-- Bytes of a session's parked image (R367). -/
def imageBytes (s : State) (i : Nat) : Nat :=
  let n := (sessOf s i).npage
  n * ((layNow s).pslice.sum * 256 + 1024) + ceilDiv n 256 * 1024 + 192

/-- Park pages of 4 KiB that a number of bytes takes. -/
def parkPages (bytes : Nat) : Nat := ceilDiv bytes 4096

/-- The ranges of a port in use, as first page and pages. -/
def portUsed (p : ParkPort) : List (Nat × Nat) :=
  (p.images.map fun x => (x.addr / 4096, parkPages x.bytes)) ++
    ((p.jobs.filter fun j => !j.unpark).map fun j => (j.addr / 4096, parkPages j.bytes))

/-- Free pages of a port. -/
def portFree (p : ParkPort) : Nat := p.cap - ((portUsed p).map Prod.snd).sum

/-- Whether a range of `n` pages from `a` is free. -/
def rangeFree (p : ParkPort) (a n : Nat) : Bool :=
  decide (a + n ≤ p.cap) && (portUsed p).all fun u => decide (a + n ≤ u.1) || decide (u.1 + u.2 ≤ a)

/-- First fit from the lowest address: a free range begins at 0 or at the end of one in use. -/
def firstFit (p : ParkPort) (n : Nat) : Option Nat :=
  let c := (0 :: (portUsed p).map fun u => u.1 + u.2).filter fun a => rangeFree p a n
  match c with
  | [] => none
  | x :: xs => some (xs.foldl min x)

/-- The port for an image of `n` pages: in service, licensed, with the most free space that can hold it; the
lowest on a tie.  `not_` is left out. -/
def choosePort (s : State) (n : Nat) (not_ : Option Nat := none) : Option (Nat × Nat) :=
  ((List.range 6).foldl (fun (b : Option (Nat × Nat)) p =>
    let q := portOf s p
    if q.state ≠ .inService || !portLicensed s p || not_ == some p then b
    else
      match firstFit q n with
      | none => b
      | some a =>
        match b with
        | none => some (p, a)
        | some x => if portFree (portOf s x.1) < portFree q then some (p, a) else b) none)

/-! ## Contents -/

/-- The bytes of panel memory from `a`, as a memory from 0. -/
def cutMem (m : Mem) (a n : Nat) : Mem :=
  (m.filter fun c => decide (a ≤ c.1) && decide (c.1 < a + n)).map fun c => (c.1 - a, c.2)

/-- Lay a memory over panel memory from `a`: bytes it does not list become zero. -/
def layMem (a n : Nat) (c : Mem) (s : State) : State :=
  let kept := s.pmem.data.filter fun x => decide (x.1 < a) || decide (a + n ≤ x.1)
  { s with pmem := { s.pmem with data := c.foldl (fun m x => memPut m (a + x.1) x.2) kept } }

/-- Byte address of page `p`'s slice in stripe `m`, and its bytes. -/
def sliceAt (l : Layout) (m p : Nat) : Nat × Nat :=
  let n := (l.pslice.drop m).headD 0
  (stripeByte m (l.poolb + p * n), n * 256)

/-- Byte address of a page's history block. -/
def histBlock (l : Layout) (p : Nat) : Nat := stripeByte (p % 6) l.histb + 1024 * (p / 6)

/-- The contents of a session's pages. -/
def pageContents (s : State) (i : Nat) : List (List Mem × Mem) :=
  let l := layNow s
  (sessOf s i).pages.map fun p =>
    ((List.range 6).map fun m => cutMem s.pmem.data (sliceAt l m p).1 (sliceAt l m p).2,
     cutMem s.pmem.data (histBlock l p) 1024)

/-- Write page contents to a session's pages. -/
def layPages (i : Nat) (c : List (List Mem × Mem)) (s : State) : State :=
  let l := layNow s
  ((sessOf s i).pages.zip c).foldl (fun s x =>
    layMem (histBlock l x.1) 1024 x.2.2
      ((x.2.1.zipIdx).foldl (fun s y => layMem (sliceAt l y.2 x.1).1 (sliceAt l y.2 x.1).2 y.1 s) s)) s

/-! ## Marks and moves (R367, R368) -/

/-- Start a mark: the session becomes MARKED and its copy begins; `none` when no port can hold it. -/
def startMark (i : Nat) (bind : Bool) (s : State) : Option State :=
  let b := imageBytes s i
  match choosePort s (parkPages b) with
  | none => none
  | some (p, a) =>
    some (modSess i (fun x => { x with state := .marked })
      (modPort p (fun q => { q with
        jobs := q.jobs ++ [{ index := i, addr := a * 4096, bytes := b, bind := bind }]
        tried := if bind then q.tried + 1 else q.tried }) s))

/-- Cancel a mark: the copy is abandoned and the session is ACTIVE. -/
def cancelMark (i : Nat) (s : State) : State :=
  if (sessOf s i).state = .marked then modSess i (fun x => { x with state := .active }) (dropPark i s) else s

/-- The port and copy of a session. -/
def jobOf (s : State) (i : Nat) (unpark : Bool) : Option (Nat × ParkJob) :=
  (List.range 6).findSome? fun p =>
    ((portOf s p).jobs.find? fun j => j.index == i && j.unpark == unpark).map fun j => (p, j)

/-- Drop a session's copy or unpark from a port. -/
def dropJob (p i : Nat) (s : State) : State :=
  modPort p (fun q => { q with jobs := q.jobs.filter fun j => j.index != i }) s

/-- A move commits: the session is PARKED, and its pages and blocks are released. -/
def commitMove (p : Nat) (j : ParkJob) (s : State) : State :=
  let i := j.index
  let img : ParkImage := { index := i, addr := j.addr, bytes := j.bytes, pages := pageContents s i }
  let s1 := modPort p (fun q => { q with
    images := q.images ++ [img]
    parked := if j.bind then q.parked + 1 else q.parked
    bytes := if j.bind then q.bytes + j.bytes else q.bytes }) (dropJob p i s)
  modSess i (fun x => { x with state := .parked, pport := BitVec.ofNat 8 p, paddr := BitVec.ofNat 64 j.addr })
    (trimPages i 0 (fnCount (sessOf s i).tenant 0x10134 1 s1))

/-- Commit every move whose copy is done. -/
def commitMoves (s : State) : State :=
  (List.range 6).foldl (fun s p =>
    ((portOf s p).jobs.filter fun j => !j.unpark && j.done).foldl (fun s j => commitMove p j s) s) s

/-- Free the space of images unparked since the last boundary (R369). -/
def freeGoing (s : State) : State :=
  { s with park := tabMap {} (fun q => { q with images := q.images.filter fun x => !x.going }) s.park }

/-! ## Unparks (R369) -/

/-- Start the unpark of a PARKED session; `none` while no pages are free. -/
def startUnpark (i : Nat) (s : State) : Option State :=
  let x := sessOf s i
  match growTo i x.npage s with
  | none => none
  | some s1 =>
    let p := x.pport.toNat
    some (modSess i (fun x => { x with state := .unparking })
      (modPort p (fun q => { q with
        jobs := (q.jobs.filter (·.unpark)) ++ [{ index := i, unpark := true, addr := x.paddr.toNat, bytes := imageBytes s i }] ++
          q.jobs.filter fun j => !j.unpark }) s1))

/-- Requests that complete with an unpark: the session's waiting UNPARKs at its head. -/
def unparkWaiters (i : Nat) : List Req → List Req
  | [] => []
  | r :: l => if r.index = i ∧ r.op = 8 then r :: unparkWaiters i l
              else if r.index = i ∧ r.op ≠ 1 ∧ r.op ≠ 5 then []
              else unparkWaiters i l

/-- UNPARK_DONE: the image is back, the session is ACTIVE, and the UNPARKs that waited complete. -/
def unparkDone (i : Nat) (s : State) : State :=
  match jobOf s i true with
  | none => s
  | some (p, _) =>
    let c := (((portOf s p).images.find? fun x => x.index == i).map (·.pages)).getD []
    let s1 := layPages i c (dropJob p i s)
    let s2 := modPort p (fun q => { q with
      images := q.images.map fun x => if x.index = i then { x with going := true } else x }) s1
    let s3 := writeDirs i (sessOf s2 i) (modSess i (fun x => { x with state := .active, idle := 0, pport := 0xFF, paddr := 0 }) s2)
    let s3 := fnCount (sessOf s3 i).tenant 0x10138 1 s3
    flushCq ((unparkWaiters i s3.rnd.reqs).foldl (fun s r => finishReq r stOk 0 s) s3)

/-! ## Failures (R370, R404, R405) -/

/-- A mark copy fails: the session stays ACTIVE, and is not marked again for one threshold period. -/
def copyFailed (p : Nat) (j : ParkJob) (s : State) : State :=
  let i := j.index
  modSess i (fun x => { x with state := .active, noMark := (tenOf s x.tenant).age })
    (modPort p (fun q => { q with
      copyFails := q.copyFails + 1, failed := if j.bind then q.failed + 1 else q.failed })
      (dropJob p i s))

/-- Whether a session exists and belongs to a tenant whose function learns of its failure. -/
def ownerFn (s : State) (i : Nat) : Nat := (sessOf s i).tenant

/-- The site of a record that concerns a park port (R405). -/
def parkRec (s : State) (p : Nat) (code : Byte) (detail : Nat) (addr : Nat) : FaultRec :=
  { code := code, detail := BitVec.ofNat 16 (min detail 0xFFFF), addr := BitVec.ofNat 32 addr, dkind := 2
    pcol := BitVec.ofNat 4 p, round := BitVec.ofNat 32 s.rnd.no.toNat, epoch := epochNow s, stitch := stitchNow s
    replay := s.pat.replay }

/-- PARK_TRANSFER_FAIL: a failed copy leaves the session ACTIVE, a failed unpark leaves it FAILED (R370);
poison is recorded as PPO (R405). -/
def transferFail (i : Nat) (poison : Bool) (s : State) : State :=
  match jobOf s i true with
  | some (p, j) =>
    let owner := ownerFn s i
    let s1 := failSession i (dropJob p i s)
    let s2 := if poison then raiseOwners [owner] (logPush (parkRec s1 p 0x41 0 j.addr) s1) else raiseFaultFor [owner] s1
    flushCq s2
  | none =>
    match jobOf s i false with
    | some (p, j) => copyFailed p j s
    | none => s

/-- PARK_PORT_DOWN: sessions parked on the port and unparks from it fail; its copies are placed once more
(R404, R405). -/
def portDown (p : Nat) (s : State) : State :=
  let q := portOf s p
  if q.state = .down then s
  else
    let s1 := modPort p (fun q => { q with state := .down }) s
    let lost := (s1.sess.filter fun x => (x.2.state == .parked || x.2.state == .unparking) &&
      x.2.pport == BitVec.ofNat 8 p).map Prod.fst
    let owners := lost.map (ownerFn s1)
    let unparks := (q.jobs.filter (·.unpark)).map (·.index)
    let copies := q.jobs.filter fun j => !j.unpark
    let s2 := lost.foldl (fun s i => failSession i s)
      (modPort p (fun q => { q with
        jobs := [], failed := if s1.boot.binding.isSome then q.failed + (lost.filter fun i => !unparks.contains i).length else q.failed
        parked := if s1.boot.binding.isSome then q.parked - (lost.filter fun i => !unparks.contains i).length else q.parked }) s1)
    let s3 := copies.foldl (fun s j =>
      let place := if j.again then none else choosePort s (parkPages j.bytes) (some p)
      match place with
      | some (p', a) =>
        modPort p' (fun q => { q with
          jobs := q.jobs ++ [{ j with addr := a * 4096, done := false, again := true }]
          tried := if j.bind then q.tried + 1 else q.tried })
          (modPort p (fun q => { q with replaced := if j.bind then q.replaced + 1 else q.replaced }) s)
      | none => copyFailed p j s) s2
    flushCq (raiseOwners owners (logPush (parkRec s3 p 0x40 lost.length 0) s3))

/-- A session whose mark is due: it holds a page, no failed copy bars it, and the fence is open. -/
def mayMark (s : State) (x : Session) : Bool :=
  x.state == .active && decide (0 < x.npage) && x.noMark == 0 && !s.rnd.fence

end Sys2Proof.Machine
end

