-- ==== Sys2Proof/WellFormed.lean ====
section
/-! DEFINITION. Well-formed commands: the operands that a part of the panel can have, and the descriptor
checks of PATTERN_STAGE (R116, R120, R123 to R126, R135, R142, R143). -/

namespace Sys2Proof

/-! ## Descriptors -/

/-- Whether a control micro-op is well formed (R125, R126). -/
def ctlOk (op : CtlOp) (f : CtlF) : Bool :=
  match op with
  | .loop => decide (1 ≤ f.body.toNat) && decide (f.body.toNat ≤ 4096)
  | .alu => f.body == 0 && decide (f.subop.toNat ≤ 9)
  | .mask => f.body == 0 && decide (f.subop.toNat ≤ 5) && decide (1 ≤ f.dst.toNat) && decide (f.dst.toNat ≤ 3)
  | .syw => f.body == 0 && decide (f.srca.toNat ≤ 7)
  | .nop => f.body == 0
  | .seti => f.body == 0
  | .ldw => f.body == 0
  | .stw => f.body == 0

/-- Whether VEW has a function for a type (R137). -/
def vewOk (func type : Nat) : Bool :=
  if type = 0 then (decide (func ≤ 0x0E))
  else decide (func ≤ 0x0E) && func != 3 || (decide (0x10 ≤ func) && decide (func ≤ 0x14))

/-- Whether a CVT names a conversion of R72 or the merge (R143).  R72 lists integers that widen and that narrow, so a pair of one width is
no direct conversion (DEDUCED, log entry 38). -/
def cvtOk (src dst : Nat) (lenm1 : Nat) : Bool :=
  match src with
  | 0 => dst == 1 || dst == 2 || dst == 3 || dst == 4 || dst == 5 ||
      (decide (6 ≤ dst) && decide (dst ≤ 11) && (lenm1 == 31 || lenm1 == 63))
  | 1 => dst == 0
  | 2 => dst == 0
  | 3 => dst == 0 || dst == 4 || dst == 5
  | 4 => dst == 0 || dst == 3 || dst == 5
  | 5 => dst == 0 || dst == 3 || dst == 4
  | 13 => dst == 0 || dst == 13
  | n => decide (n ≤ 12) && dst == 0

/-- Whether a vector micro-op is well formed (R135, R137 to R145). -/
def vecOk (op : VecOp) (f : VecF) : Bool :=
  decide (f.type.toNat ≤ 3) &&
  match op with
  | .vld => true
  | .vst => true
  | .vew => vewOk f.func.toNat f.type.toNat
  | .vrd => decide (f.func.toNat ≤ 5)
  | .vsf => decide (f.func.toNat ≤ 3)
  | .vsmx => decide (f.func.toNat ≤ 1)
  | .vnrm => decide (f.func.toNat ≤ 1)
  | .vtopk => decide (f.func.toNat ≤ 1) && f.dst != 31
  | .vrng => decide (f.func.toNat ≤ 1)
  | .cvt => cvtOk (f.func.toNat / 16) (f.func.toNat % 16) f.lenm1.toNat
  | .vflg => decide (f.func.toNat ≤ 2)

/-- Whether an MTL is well formed (R116). -/
def mtlOk (f : MtlF) : Bool :=
  f.wfmt != 7 && decide (1 ≤ f.kblk.toNat) && decide (f.kblk.toNat ≤ 8) &&
    (if f.wfmt = 6 then f.kblk.toNat % 2 == 0 else decide (f.ncolm1.toNat ≤ 255))

/-- Whether an MMA is well formed (R116). -/
def mmaOk (f : MmaF) : Bool := f.afmt != 3

/-- Whether an MDR is well formed (R116). -/
def mdrOk (f : MdrF) : Bool := f.dmode != 3

/-- Whether a transfer of panel memory is well formed (R149): 98,304 flits at most. -/
def dmOk (f : DmF) : Bool := decide (f.lenm1.toNat ≤ 98303)

/-- Whether a descriptor is well formed. -/
def Uop.wf : Uop → Bool
  | .ctl op f => ctlOk op f
  | .vec op f => vecOk op f
  | .mtl f => mtlOk f
  | .mma f => mmaOk f
  | .mdr f => mdrOk f
  | .dm _ f => dmOk f
  | .fm _ _ => true
  | .knot _ => true

/-! ## Places -/

/-- A place that issues micro-ops: a logical rank, a cluster, a stream core and a cycle of the larger
budget (R117, R166). -/
def issueOk (i : Issue) : Bool :=
  decide (i.rank < 132) && decide (i.clu < 4) && decide (i.sc < 8) && decide (i.cyc < 304)

/-- A transfer outstanding at a stream core. -/
def xferOk (rank clu sc : Nat) : Bool := decide (rank < 132) && decide (clu < 4) && decide (sc < 8)

/-- A die (R261). -/
def dieOk (d : Nat) : Bool := decide (d < Machine.numDies)

/-- A port of a die that a link is joined to (R29, R272). -/
def portOk (d p : Nat) : Bool := dieOk d && decide (p < 6) && (Machine.peer d p).isSome

/-- A logical rank. -/
def rankOk (r : Nat) : Bool := decide (r < 132)

/-- A memory stack. -/
def stackOk (c m : Nat) : Bool := decide (c < 12) && decide (m < 6)

/-- A compute site and a cluster of it. -/
def siteOk (c w k : Nat) : Bool := decide (c < 12) && decide (w < 12) && decide (k < 4)

/-- A function of the host ports (R573): 0 to 63, or 64 for PF1. -/
def fnOk (f : Nat) : Bool := decide (f ≤ 64)

/-- A ring pair (R378). -/
def ringOk (r : RingRef) : Bool := decide (r.tenant < 64) && decide (r.pair < 8)

/-- A park port. -/
def parkOk (p : Nat) : Bool := decide (p < 6)

/-- A host port. -/
def hostPortOk (p : Nat) : Bool := decide (p < 2)

/-- An access to BAR0, of 64 MiB, in one request of at most 4,096 bytes (R374, R564). -/
def barOk (off len : Nat) : Bool := decide (1 ≤ len) && decide (len ≤ 4096) && decide (off + len ≤ 2 ^ 26)

/-- An access to the weight-intake aperture of 4 GiB (R374). -/
def apertureOk (off len : Nat) : Bool := decide (1 ≤ len) && decide (len ≤ 4096) && decide (off + len ≤ 2 ^ 32)

/-- A site, with the place of a set flit's slot. -/
def slotOk (slot : Nat) : Bool := decide (slot < 4096)

/-- Whether a command is well formed: every operand names a part that exists, and a micro-op is one that
passes staging. -/
def Instr.wf : Instr → Bool
  | .identify q | .statusRead q | .interfaceCaps q | .licenceInstall q | .licenceRead q
  | .patternStage q | .patternCommit q | .patternStart q | .patternStop q _ | .weightsIntakeOpen q _ _ _
  | .weightsIntakeClose q | .setWrite q _ _ _ _ | .setSwapAt q _ | .setRead q _ _ _ | .modeSet q _
  | .powerCapSet q _ | .powerRead q | .coolantReport q _ _ | .thermalRead q | .healthRead q _ _ _
  | .darnRead q | .repairPolicySet q _ _ _ | .siteRetire q _ _ | .faultLogRead q _ _ | .flagsRead q
  | .flagsClear q _ | .tenantConfigure q _ | .tenantReset q _ | .shaperSet q _ _ _ _ | .sessionExport q _
  | .sessionImport q _ | .tailLogRead q _ _ | .roundFence q _ | .resetFabric q | .resetWarm q
  | .bindOff q _ _ | .timeRead q | .timerArm q _ _ _ | .linkRead q _ _ | .linkRetrain q _ _ _
  | .memoryScrubSet q _ _ _ _ | .memoryStatus q | .firmwareStage q | .firmwareActivate q _ => fnOk q.fn
  | .mailboxTakeUp _ => true
  | .ringOpen r _ | .ringAppend r _ | .ringStep r _ | .ringDraft r _ | .ringCancel r _ | .ringClose r _
  | .ringPark r _ | .ringUnpark r _ => ringOk r
  | .doorbellWrite f p _ _ => fnOk f && decide (p < 8)
  | .tokenArrayArrived t _ _ => decide (t < 64)
  | .intCauseClear f _ => fnOk f
  | .registerWrite f off data => 
      fnOk f && decide (off % 4 = 0) && decide (data.length % 4 = 0) && barOk off data.length
  | .misalignedAccess f off len _ => fnOk f && barOk off len && Machine.crosses off len
  | .pairLoRead f off len => fnOk f && barOk off len
  | .busMasterEnable f _ => fnOk f
  | .hostPortReset p _ => hostPortOk p
  | .vfFlr f => decide (1 ≤ f) && decide (f ≤ 63)
  | .apertureWrite off data => apertureOk off data.length
  | .apertureRead off len => apertureOk off len
  | .nop i f => issueOk i && ctlOk .nop f
  | .loop i f => issueOk i && ctlOk .loop f
  | .seti i f => issueOk i && ctlOk .seti f
  | .alu i f => issueOk i && ctlOk .alu f
  | .ldw i f => issueOk i && ctlOk .ldw f
  | .stw i f => issueOk i && ctlOk .stw f
  | .mask i f => issueOk i && ctlOk .mask f
  | .syw i f => issueOk i && ctlOk .syw f
  | .sywSatisfied i => issueOk i
  | .vld i f => issueOk i && vecOk .vld f
  | .vst i f => issueOk i && vecOk .vst f
  | .vew i f => issueOk i && vecOk .vew f
  | .vrd i f => issueOk i && vecOk .vrd f
  | .vsf i f => issueOk i && vecOk .vsf f
  | .vsmx i f => issueOk i && vecOk .vsmx f
  | .vnrm i f => issueOk i && vecOk .vnrm f
  | .vtopk i f => issueOk i && vecOk .vtopk f
  | .vrng i f => issueOk i && vecOk .vrng f
  | .cvt i f => issueOk i && vecOk .cvt f
  | .vflg i f => issueOk i && vecOk .vflg f
  | .mtl i f => issueOk i && mtlOk f
  | .mma i f => issueOk i && mmaOk f
  | .mdr i f => issueOk i && mdrOk f
  | .dmr i f => issueOk i && dmOk f
  | .dmw i f => issueOk i && dmOk f
  | .ssn i _ | .srv i _ | .fsn i _ | .frv i _ => issueOk i
  | .knot i _ => issueOk i
  | .dmTransferComplete r c k _ | .freeMessageComplete r c k _ => xferOk r c k
  | .dieArrival d => decide (d < 144)
  | .stitchStart d | .holdLine d _ | .mark d _ _ | .syncFrameReceive d _ | .report d | .freq d
  | .release d | .arrive d _ | .freeFlitAck d _ _ _ _ | .ackTimer d _ _
  | .retransmitTimeout d _ _ | .syncPathSwitch d | .timingLinkLost d _ | .nack d | .armAnswer d _
  | .refclkLoss d | .thermalTrip d _ => dieOk d
  | .fault d c => dieOk d && (decide (1 ≤ c.toNat) && decide (c.toNat ≤ 6) || decide (0x10 ≤ c.toNat) && decide (c.toNat ≤ 0x13))
  | .tbu r k => rankOk r && decide (k < 4)
  | .tbs | .extend _ | .freeze _ | .freezePoint | .resume _ | .resumePoint | .fire _ _ _ | .sectionStart
  | .knotTimeout | .idleSnapshot | .swap _ | .withhold _ | .armTimeout | .swapAtTarget => true
  | .abort c l => decide (1 ≤ c.toNat) && decide (c.toNat ≤ 5) && l.all fun i => decide (i < 1048576)
  | .pageWaitTimeout t _ => decide (t < 64)
  | .parkCopyDone i | .unparkDone i | .parkTransferFail i _ => decide (i < 1048576)
  | .parkPortDown p => parkOk p
  | .freeFlitRoute d slot => dieOk d && slotOk slot
  | .setFlitForward d p slot f => portOk d p && slotOk slot && rankOk f.hdr.drank.toNat && rankOk f.hdr.srank.toNat
  | .setFlitLanding r slot f => rankOk r && slotOk slot && rankOk f.hdr.srank.toNat && f.hdr.drank.toNat == r
  | .controlPacket d p _ => portOk d p
  | .controlResend d p _ => portOk d p
  | .timerFire f t => fnOk f && decide (t < 8)
  | .axustFrameReceive d p _ | .replayTimeout d p _ | .linkFault d p _ _ | .retrainRequest d p _ _
  | .keepaliveLost d p | .standbyCheck d p _ => portOk d p
  | .rawFlitReceive d p _ _ _ => portOk d p
  | .memRead _ _ _ _ => true
  | .memWrite _ _ _ => true
  | .stackOut c m _ _ | .refreshRateChange c m _ | .stackRebuildDone c m => stackOk c m
  | .scrubVisit v => decide (v.stripe < 6)
  | .coldReset _ | .panelRstAssert | .warmReset _ | .backoffExpiry _ | .flashHandoverTimeout
  | .anchorTakeover _ | .herusBindOff => true
  | .coursePowerTimeout c | .courseLoss c _ _ | .pwrGoodDeassert c _ _ _ | .courseCurrentLimit c _ _
  | .memoryRailFault c _ _ | .pwrGoodAssert c => decide (c < 12)
  | .clusterOvercurrent c w k _ | .regulatorFault c w k _ _ => siteOk c w k
  | .dieSilent c w _ => siteOk c w 0
  | .healthScoring _ | .pwrWarnAssert | .pwrWarnDeassert | .forcedLeanPoint | .ringSupplyLoss
  | .marginTrim _ | .capControl _ | .throttleStep _ _ | .resistanceMeasure _ _ _ _ _ _
  | .thermalCycleSample _ | .healthFlashWrite => true
  | .setEndpointId _ | .getEndpointId | .getMctpVersionSupport | .getMessageTypeSupport | .getState
  | .getPower | .getTime | .getFault | .coolant _ _ | .bypass _ | .samplePreload _ | .extest _ => true
  | .hostPerstNDeassert p => hostPortOk p
  | .standbyAnchorFailure | .soleAnchorFailure | .thermAlertChange _ => true
  | .hostMemoryReadFailed (.descriptor r) => ringOk r
  | .hostMemoryReadFailed (.tokenArray t _) => decide (t < 64)
  | .hostMemoryReadFailed (.bulkIn f) => fnOk f
  | .vfEnableChange _ n => decide (n ≤ 63)

end Sys2Proof
end

