-- ==== Sys2Proof/Machine/Image.lean ====
section
/-! DEFINITION. The pattern image (R207 to R219): its parts and the checks of PATTERN_STAGE. -/

namespace Sys2Proof.Machine

open Sys2Proof

/-! ## Parts of an image -/

/-- A failed check of R219: its number, and the stream core, rank and index it concerns. -/
structure CheckFail where
  check : Nat
  sc : Nat := 0xFF
  rank : Nat := 0xFF
  index : Nat := 0xFFFFFFFF
  deriving DecidableEq, Repr

/-- A failure unless a condition holds. -/
def need (ok : Bool) (f : CheckFail) : Option CheckFail := if ok then none else some f

/-- The first failure of a list. -/
def firstFail (l : List (Option CheckFail)) : Option CheckFail := l.findSome? id

/-- Round up to a multiple of 64. -/
def align64 (n : Nat) : Nat := ceilDiv n 64 * 64

/-- A site block: its place and the places of its parts. -/
structure SiteBlock where
  off : Nat
  len : Nat
  deriving DecidableEq, Repr

/-- Descriptor count of stream core `j` of a block. -/
def blockCount (b : List Byte) (x : SiteBlock) (j : Nat) : Nat := leAt b (x.off + 8 + 2 * j) 2

/-- Entry of stream core `j` into section `i`. -/
def blockEntry (b : List Byte) (x : SiteBlock) (i j : Nat) : Nat := leAt b (x.off + 128 + 2 * (32 * i + j)) 2

/-- Place of the window table of a block. -/
def blockWin (b : List Byte) (x : SiteBlock) : Nat := x.off + 128 + imgNsect b * 64

/-- Place of the descriptor images of stream core `j`. -/
def blockDesc (b : List Byte) (x : SiteBlock) (j : Nat) : Nat :=
  blockWin b x + 32 * 128 + 18 * ((List.range j).map (blockCount b x)).sum

/-- Length of a block as its counts give it. -/
def blockSize (b : List Byte) (x : SiteBlock) : Nat := blockDesc b x 32 - x.off

/-- The site blocks of an image, `n` from a place on. -/
def blocksFrom (b : List Byte) : Nat → Nat → List SiteBlock
  | 0, _ => []
  | n + 1, o =>
    let x : SiteBlock := { off := o, len := leAt b (o + 4) 4 }
    x :: blocksFrom b n (align64 (o + x.len))

/-- The 132 site blocks. -/
def imgBlocks (b : List Byte) : List SiteBlock := blocksFrom b 132 (imgDir b 2).1

/-- A cluster window (R211). -/
def cwinAt (b : List Byte) (o : Nat) : Window :=
  let v := leAt b o 8
  { base := bitsOf v 19 0, len := bitsOf v 51 32, r := bitOf v 62, w := bitOf v 63 }

/-- A panel window (R212). -/
def pwinAt (b : List Byte) (o : Nat) : Window :=
  let v := leAt b o 16
  { base := bitsOf v 33 0, len := bitsOf v 97 64, r := bitOf v 126, w := bitOf v 127 }

/-- Cluster windows of stream core `j`. -/
def blockCwins (b : List Byte) (x : SiteBlock) (j : Nat) : List Window :=
  (List.range 8).map fun i => cwinAt b (blockWin b x + 128 * j + 8 * i)

/-- Panel windows of stream core `j`. -/
def blockPwins (b : List Byte) (x : SiteBlock) (j : Nat) : List Window :=
  (List.range 4).map fun i => pwinAt b (blockWin b x + 128 * j + 64 + 16 * i)

/-- Store entries of stream core `j`: issue word below descriptor (R119, R209). -/
def blockStore (b : List Byte) (x : SiteBlock) (j : Nat) : List (BitVec 144) :=
  let o := blockDesc b x j
  (List.range (blockCount b x j)).map fun i => BitVec.ofNat 144 (leAt b (o + 18 * i) 18)

/-- Entries of the manifest as numbers (R214). -/
def manifestEntries (b : List Byte) : List Nat :=
  let d := imgDir b 4
  (List.range (d.2 / 16)).map fun i => leAt b (d.1 + 16 * i) 16

/-- Entries of the relocation table as numbers (R216). -/
def relocEntries (b : List Byte) : List Nat :=
  let d := imgDir b 5
  (List.range (d.2 / 16)).map fun i => leAt b (d.1 + 16 * i) 16

/-- BATCHMAX of an image. -/
def imgBatch (b : List Byte) : Nat := leAt b 0x1A 2
/-- DRAFTMAX of an image. -/
def imgDraft (b : List Byte) : Nat := leAt b 0x1C 1
/-- IMGLEN of an image. -/
def imgLen (b : List Byte) : Nat := leAt b 8 8
/-- Budget of an image's grade. -/
def imgBudget (b : List Byte) : Nat := if bitOf (imgGrade b) 0 then 304 else 256

/-- Bytes of an image from an offset that are all zero. -/
def zeros (b : List Byte) (o n : Nat) : Bool := ((b.drop o).take n).all (· == 0)

/-! ## Checks 1 to 6 -/

/-- Checks 1 and 2: the header's identity and the digest. -/
def checkHead (b : List Byte) : Option CheckFail :=
  firstFail [
    need (leAt b 0 4 == 0x334E5450 && leAt b 4 2 == 1 && leAt b 6 2 == 256 && imgLen b == b.length &&
      imgLen b % 64 == 0 && decide (imgLen b ≤ 2 ^ 30) && decide (256 + 48 ≤ imgLen b)) { check := 1 },
    need (sha384 (b.take (b.length - 48)) == b.drop (b.length - 48)) { check := 2 }]

/-- Whether two directory entries overlap. -/
def dirOverlap (x y : Nat × Nat) : Bool :=
  decide (0 < x.2) && decide (0 < y.2) && decide (x.1 < y.1 + y.2) && decide (y.1 < x.1 + x.2)

/-- Check 3: directory, reserved fields, ranges, and the session-layout record (R207, R208, R346). -/
def checkDir (b : List Byte) : Option CheckFail :=
  let l := (List.range 7).map (imgDir b)
  let r := (imgDir b 6).1
  let g := imgGrade b
  need (
    l.all (fun d => d.1 % 64 == 0 && decide (256 ≤ d.1) && decide (d.1 + d.2 + 48 ≤ imgLen b)) &&
    (l.zipIdx.all fun x => (l.drop (x.2 + 1)).all fun y => !dirOverlap x.1 y) &&
    imgDir b 7 == (0, 0) && (imgDir b 0).2 == 16 * imgNsect b && (imgDir b 1).2 == 8 * imgNsect b &&
    (imgDir b 6).2 == 256 && (imgDir b 3).2 % (132 * 16) == 0 && decide (slotCount b ≤ 65536) &&
    (imgDir b 4).2 % 16 == 0 && (imgDir b 5).2 % 16 == 0 &&
    zeros b 0x1D 3 && zeros b 0x68 24 &&
    bitsOf g 31 12 == 0 && bitsOf g 8 5 == 0 && bitsOf g 3 1 == 0 &&
    decide (1 ≤ imgNsect b) && decide (imgNsect b ≤ 4096) && decide (1 ≤ imgBatch b) &&
    decide (imgBatch b ≤ 8192) && decide (imgDraft b ≤ 15) &&
    leAt b r 2 == 1 && zeros b (r + 6) 2 && zeros b (r + 0x0C) 4 && zeros b (r + 0x28) 8 && zeros b (r + 0x40) 192)
    { check := 3 }

/-- Whether a licence covers a grade (R8, R201). -/
def gradeLicensed (lic : Option Licence) (g : Nat) : Bool :=
  match lic with
  | none => false
  | some l => l.variantX || !(bitOf g 0 || bitOf g 9 || bitOf g 10 || bitOf g 11)

/-- Bytes of panel memory that an image declares. -/
def imgPlace (b : List Byte) : Nat := leAt b 0x50 8 + leAt b 0x58 8 + leAt b 0x60 8

/-- Check 5: declared placement (R2). -/
def checkPlace (b : List Byte) : Option CheckFail := need (decide (imgPlace b ≤ 3840 * 2 ^ 30)) { check := 5 }

/-- Check 6: section and knot entries (R198 to R200). -/
def checkSections (b : List Byte) : Option CheckFail :=
  (List.range (imgNsect b)).findSome? fun i =>
    let e := imgSection b i
    let k := imgKnot b i
    let len := bitsOf e 91 72
    let cap := bitsOf e 71 56
    let role := bitsOf e 55 52
    let isSet := !bitOf e 48
    let lastK := i + 1 == imgNsect b
    need (bitsOf e 127 92 == 0 && bitsOf e 51 49 == 0 && bitsOf e 47 0 == 0 && decide (role ≤ 5) &&
      (if isSet then decide (1 ≤ len) else len == 0) &&
      (if role = 1 then decide (1 ≤ cap) && decide (cap ≤ imgBatch b) else cap == 0) &&
      bitsOf k 63 44 == 0 && bitsOf k 15 0 == 0 &&
      decide ((if lastK then 24 else 2) ≤ knotOffset b i) &&
      decide ((if isSet then len + 1 else 1) ≤ knotLimit b i)) { check := 6, index := i }

/-! ## Checks 7 to 9 -/

/-- Whether a store entry is a KNOT with an index. -/
def isKnot (e : BitVec 144) (k : Nat) : Bool :=
  decodeUop (e.extractLsb' 16 128) == some (.knot (BitVec.ofNat 12 k))

/-- Whether a store entry is any KNOT. -/
def anyKnot (e : BitVec 144) : Bool := (e.extractLsb' 16 8).toNat == 0x60

/-- Check 7: site blocks: ranks, counts and entry vectors (R209, R210). -/
def checkBlock (b : List Byte) (r : Nat) (x : SiteBlock) : Option CheckFail :=
  let n := imgNsect b
  firstFail (
    need (leAt b x.off 2 == r && zeros b (x.off + 2) 2 && zeros b (x.off + 72) 56 && x.len == blockSize b x &&
      decide (x.off + x.len ≤ (imgDir b 2).1 + (imgDir b 2).2)) { check := 7, rank := r } ::
    ((List.range 32).map fun j =>
      let c := blockCount b x j
      need (decide (1 ≤ c) && decide (c ≤ 8192)) { check := 7, rank := r, sc := j }) ++
    ((List.range 32).map fun j => need (blockEntry b x 0 j == 0) { check := 7, rank := r, sc := j, index := 0 }) ++
    (List.range 32).map fun j =>
      let c := blockCount b x j
      let st := blockStore b x j
      (List.range n).findSome? fun i =>
        need (if i + 1 < n then
            decide (blockEntry b x i j < blockEntry b x (i + 1) j) &&
              decide (blockEntry b x (i + 1) j < c) &&
              (match st.drop (blockEntry b x (i + 1) j - 1) with | e :: _ => isKnot e i | [] => false)
          else (match st.drop (c - 1) with | e :: _ => isKnot e i | [] => false))
          { check := 7, rank := r, sc := j, index := i })

/-- Whether an issue word is in range: `first` when its descriptor enters a section or follows a KNOT
(R119, R120). -/
def issueWordOk (budget : Nat) (first : Bool) (w : Nat) : Bool :=
  bitsOf w 14 9 == 0 &&
    (if first || bitOf w 15 then decide (bitsOf w 8 0 < budget)
     else decide (1 ≤ bitsOf w 8 0) && decide (bitsOf w 8 0 ≤ 303))

/-- Whether a descriptor names T5, which needs the grade's T5 bit. -/
def usesT5 : Uop → Bool
  | .mtl f => f.wfmt == 6
  | .vec .cvt f => f.func.toNat / 16 == 12
  | _ => false

/-- Whether a descriptor may stand in a section of its kind: SSN and SRV and loops on a register (R126,
R152). -/
def sectionOk (isSet : Bool) : Uop → Bool
  | .fm .ssn _ => isSet
  | .fm .srv _ => isSet
  | .ctl .loop f => !isSet || f.srca == 0
  | _ => true

/-- Where a walk over a descriptor store stands: index, section, whether the descriptor is the first of a
section, and the ends of the loop bodies it is within. -/
structure Walk where
  idx : Nat := 0
  sect : Nat := 0
  first : Bool := true
  ends : List Nat := []

/-- Whether the descriptor at a place of the walk passes, and the walk after it. -/
def walkOne (b : List Byte) (e : BitVec 144) (w : Walk) : Bool × Walk :=
  match decodeUop (e.extractLsb' 16 128) with
  | none => (false, w)
  | some u =>
    let ends := w.ends.filter fun x => decide (w.idx < x)
    let base := u.wf && issueWordOk (imgBudget b) w.first (e.extractLsb' 0 16).toNat &&
      (!usesT5 u || bitOf (imgGrade b) 9) && sectionOk (imgIsSet b w.sect) u
    match u with
    | .knot _ => (base && ends.isEmpty, { idx := w.idx + 1, sect := w.sect + 1, first := true, ends := [] })
    | .ctl .loop f =>
      let stop := w.idx + 1 + f.body.toNat
      (base && decide (ends.length < 4) && ends.all (fun x => decide (stop ≤ x)),
        { idx := w.idx + 1, sect := w.sect, first := false, ends := stop :: ends })
    | _ => (base, { idx := w.idx + 1, sect := w.sect, first := false, ends := ends })

/-- The index of the first descriptor of a store that fails check 8. -/
def walkStore (b : List Byte) : List (BitVec 144) → Walk → Option Nat
  | [], _ => none
  | e :: l, w =>
    let r := walkOne b e w
    if r.1 then walkStore b l r.2 else some w.idx

/-- The KNOTs of a store in order, each with its index in the store and its KIDX. -/
def knotSeq (st : List (BitVec 144)) : List (Nat × BitVec 12) :=
  st.zipIdx.filterMap fun e =>
    match decodeUop (e.1.extractLsb' 16 128) with
    | some (.knot k) => some (e.2, k)
    | _ => none

/-- The index of the first KNOT of a store of `n` descriptors that departs from a sequence of KIDX values, or `n` where the store lacks one
of them. -/
def knotDiff (n : Nat) : List (BitVec 12) → List (Nat × BitVec 12) → Option Nat
  | [], [] => none
  | [], p :: _ => some p.1
  | _ :: _, [] => some n
  | k :: ks, p :: ps => if k = p.2 then knotDiff n ks ps else some p.1

/-- Check 8: every descriptor and issue word (R44, R116, R120, R123 to R126, R135, R142, R143, R152), and that the stream cores of a site
issue the same KIDX values in the same order (R155). -/
def checkStores (b : List Byte) (r : Nat) (x : SiteBlock) : Option CheckFail :=
  let knots := (knotSeq (blockStore b x 0)).map Prod.snd
  (List.range 32).findSome? fun j =>
    ((walkStore b (blockStore b x j) {}).or (knotDiff (blockCount b x j) knots (knotSeq (blockStore b x j)))).map fun i =>
      { check := 8, rank := r, sc := j, index := i }

/-- Check 9 on the windows of a block (R211, R212). -/
def checkWindows (b : List Byte) (r : Nat) (x : SiteBlock) : Option CheckFail :=
  (List.range 32).findSome? fun j =>
    firstFail (
      ((List.range 8).map fun i =>
        let v := leAt b (blockWin b x + 128 * j + 8 * i) 8
        need (bitsOf v 61 52 == 0 && bitsOf v 31 20 == 0 && decide (bitsOf v 19 0 + bitsOf v 51 32 ≤ 0x60000))
          { check := 9, rank := r, sc := j, index := i }) ++
      (List.range 4).map fun i =>
        let v := leAt b (blockWin b x + 128 * j + 64 + 16 * i) 16
        need (bitsOf v 125 98 == 0 && bitsOf v 63 34 == 0) { check := 9, rank := r, sc := j, index := 8 + i })

/-- Whether two ranges of granules overlap. -/
def rangesMeet (a n c m : Nat) : Bool := decide (0 < n) && decide (0 < m) && decide (a < c + m) && decide (c < a + n)

/-- Check 9 on a manifest entry: its fields, and that no write-permitted window of its cluster and no other
entry of it meets it (R214, R215). -/
def checkManifest (b : List Byte) (bl : List SiteBlock) (all : List Nat) (i : Nat) (e : Nat) : Option CheckFail :=
  let rank := bitsOf e 15 8
  let clu := bitsOf e 17 16
  let a := bitsOf e 37 18
  let n := bitsOf e 57 38
  let wins := match bl.drop rank with
    | x :: _ => (List.range 8).flatMap fun j => blockCwins b x (8 * clu + j)
    | [] => []
  need (bitsOf e 7 0 == 0 && bitsOf e 59 58 != 3 && decide (rank < 132) && decide (a + n ≤ 0x60000) &&
    (wins.all fun w => !(w.w && rangesMeet a n w.base w.len)) &&
    ((all.drop (i + 1)).all fun f =>
      !(bitsOf f 15 8 == rank && bitsOf f 17 16 == clu && rangesMeet a n (bitsOf f 37 18) (bitsOf f 57 38))))
    { check := 9, rank := rank, index := i }

/-! ## Checks 10 and 11 -/

/-- The first logical direction of a set route: 0 none, 1 north, 2 south, 3 west, 4 east. -/
def firstDir (order : Bool) (src dst : Nat) : Nat :=
  let v := if dst / 12 < src / 12 then 1 else if src / 12 < dst / 12 then 2 else 0
  let h := if dst % 12 < src % 12 then 3 else if src % 12 < dst % 12 then 4 else 0
  if order then (if h ≠ 0 then h else v) else (if v ≠ 0 then v else h)

/-- A set-slot entry is well formed; one of all zeros is unused (log entry 14). -/
def slotOkAt (rank e : Nat) : Bool :=
  e == 0 || (bitsOf e 39 33 == 0 && bitsOf e 31 11 == 0 && !bitOf e 9 && decide (bitsOf e 8 0 ≤ 447) &&
    bitsOf e 47 40 != rank && decide (bitsOf e 47 40 ≤ 131))

/-- What two entries of one SSN chain must not share: first logical direction, stitch and DSLOT. -/
def slotSig (rank e : Nat) : Nat × Bool × Nat :=
  (firstDir (bitOf e 32) rank (bitsOf e 47 40), bitOf e 10, bitsOf e 8 0)

/-- Whether a list holds no repeats. -/
def noRepeats {α : Type} [DecidableEq α] : List α → Bool
  | [] => true
  | x :: l => !l.contains x && noRepeats l

/-- The SSN chains of a block, as first entry and entries. -/
def ssnChains (b : List Byte) (x : SiteBlock) : List (Nat × Nat) :=
  (List.range 32).flatMap fun j => (blockStore b x j).filterMap fun e =>
    match decodeUop (e.extractLsb' 16 128) with
    | some (.fm .ssn f) => some (f.slot.toNat, f.lenm1.toNat + 1)
    | _ => none

/-- Check 10: the slot tables of a rank (R205, R248, R249). -/
def checkSlots (b : List Byte) (r : Nat) (x : SiteBlock) : Option CheckFail :=
  let n := slotCount b
  firstFail [
    (List.range n).findSome? fun i => need (slotOkAt r (setSlotEntry b r i)) { check := 10, rank := r, index := i },
    (List.range n).findSome? fun i =>
      let e := landEntry b r i
      need (bitsOf e 51 48 == 0 && bitsOf e 29 0 == 0 && decide (bitsOf e 47 40 ≤ 131) && decide (bitsOf e 39 30 ≤ 448))
        { check := 10, rank := r, index := i },
    (ssnChains b x).findSome? fun c =>
      need (noRepeats ((List.range c.2).map fun i => slotSig r (setSlotEntry b r (c.1 + i))))
        { check := 10, rank := r, index := c.1 }]

/-- Whether a symbol is in range for a type (R217). -/
def symOk (ty sym : Nat) : Bool :=
  match ty with
  | 1 => decide (sym ≤ 5)
  | 2 => decide (sym ≤ 5)
  | 3 => sym == 0
  | 4 => decide (sym ≤ 0x83) || (decide (0xC0 ≤ sym) && decide (sym ≤ 0xC5)) || (decide (0xD0 ≤ sym) && decide (sym ≤ 0xD2))
  | 5 => decide (sym ≤ 63)
  | 6 => sym == 0
  | _ => false

/-- The place of a relocation's target of 128 bits; `none` where it names none. -/
def relocTarget (b : List Byte) (bl : List SiteBlock) (e : Nat) : Option Nat :=
  let idx := bitsOf e 67 52
  let sc := bitsOf e 51 47
  match bitsOf e 83 81, bl.drop (bitsOf e 46 39) with
  | 0, x :: _ => if idx < blockCount b x sc then some (blockDesc b x sc + 18 * idx + 2) else none
  | 1, x :: _ => if idx < 4 then some (blockWin b x + 128 * sc + 64 + 16 * idx) else none
  | 2, _ => if idx < (imgDir b 4).2 / 16 then some ((imgDir b 4).1 + 16 * idx) else none
  | 3, _ => if idx < 16 then some ((imgDir b 6).1 + 16 * idx) else none
  | _, _ => none

/-- Check 11: a relocation entry (R216). -/
def checkReloc (b : List Byte) (bl : List SiteBlock) (i e : Nat) : Option CheckFail :=
  let w := bitsOf e 73 68
  need (bitsOf e 38 0 == 0 && symOk (bitsOf e 87 84) (bitsOf e 95 88) && decide (1 ≤ w) && decide (w ≤ 40) &&
    decide (bitsOf e 80 74 + w ≤ 128) && (relocTarget b bl e).isSome)
    (if bitsOf e 83 81 < 2 then { check := 11, rank := bitsOf e 46 39, sc := bitsOf e 51 47, index := i } else { check := 11, index := i })

/-! ## PATTERN_STAGE's checks in order (R219) -/

/-- The first check that an image fails. -/
def stageCheck (lic : Option Licence) (b : List Byte) : Option CheckFail :=
  match firstFail [checkHead b] with
  | some f => some f
  | none =>
    let bl := imgBlocks b
    let sites := bl.zipIdx
    let man := manifestEntries b
    match firstFail [checkDir b, need (gradeLicensed lic (imgGrade b)) { check := 4 }, checkPlace b, checkSections b] with
    | some f => some f
    | none =>
      firstFail [
        sites.findSome? fun x => checkBlock b x.2 x.1,
        sites.findSome? fun x => checkStores b x.2 x.1,
        sites.findSome? fun x => checkWindows b x.2 x.1,
        man.zipIdx.findSome? fun x => checkManifest b bl man x.2 x.1,
        sites.findSome? fun x => checkSlots b x.2 x.1,
        (relocEntries b).zipIdx.findSome? fun x => checkReloc b bl x.2 x.1]

/-! ## Relocation (R217, R220) -/

/-- The number with a field of `w` bits from `lsb` set to `v`. -/
def setField (t lsb w v : Nat) : Nat := t - bitsOf t (lsb + w - 1) lsb * 2 ^ lsb + v * 2 ^ lsb

/-- The first unit of an image's resident image (log entry 15). -/
def imgResident (b : List Byte) : Nat := Config.residentBase (leAt b 0x50 8) (leAt b 0x58 8) (leAt b 0x60 8)

/-- The value of a symbol before ADDEND, with the tenants' windows supplied (R217). -/
def symBase (b : List Byte) (win : Nat → TWin) (ty sym : Nat) : Nat :=
  match ty with
  | 1 => sym * stripeUnits
  | 2 => 0
  | 3 => 2 * stripeUnits + sessTableUnit
  | 4 => sym
  | 5 => (win sym).stripe * stripeUnits + (win sym).off
  | _ => imgResident b

/-- A panel window field written by a TYPE 5 entry: BASE, modulo 2^34, and LEN, which is 0 where the tenant has no window or the
addend passes it (R217). -/
def windowField (w : TWin) (addend : Int) (t : Nat) : Nat :=
  let base := ((w.stripe * stripeUnits + w.off : Nat) : Int) + addend
  let len := (w.len : Int) - addend
  setField (setField t 0 34 (base % 2 ^ 34).toNat) 64 34 (if 0 < w.len ∧ 0 ≤ len then len.toNat % 2 ^ 34 else 0)

/-- Apply one relocation entry; `none` where it is refused. -/
def relocOne (win : Nat → TWin) (bl : List SiteBlock) (b : List Byte) (e : Nat) : Option (List Byte) :=
  match relocTarget b bl e with
  | none => none
  | some o =>
    let t := leAt b o 16
    let addend := signedOf 32 (bitsOf e 127 96)
    let ty := bitsOf e 87 84
    if ty = 5 ∧ bitsOf e 83 81 = 1 then some (overlay b o (natLe 16 (windowField (win (bitsOf e 95 88)) addend t)))
    else
      let v := (symBase b win ty (bitsOf e 95 88) : Int) + addend
      let w := bitsOf e 73 68
      let lsb := bitsOf e 80 74
      if v < 0 ∨ (2 : Int) ^ w ≤ v then none
      else if bitsOf t (lsb + w - 1) lsb ≠ 0 then none
      else some (overlay b o (natLe 16 (setField t lsb w v.toNat)))

/-- Apply every entry in table order; the index of the first refused one. -/
def relocAll (win : Nat → TWin) (bl : List SiteBlock) : List (Nat × Nat) → List Byte → List Byte ⊕ Nat
  | [], b => .inl b
  | (e, i) :: l, b =>
    match relocOne win bl b e with
    | some b' => relocAll win bl l b'
    | none => .inr i

/-- Allocation A of an image (R305). -/
def imgAlloc (b : List Byte) : Nat := ceilDiv (imgPlace b) 1536

/-- What the symbol of a relocation names, as first unit and length: the allocation in a stripe, the session table, a
tenant's window or the resident image (R217, R305, R343). -/
def relocRegion (b : List Byte) (win : Nat → TWin) (e : Nat) : Option (Nat × Nat) :=
  let sym := bitsOf e 95 88
  let base := symBase b win (bitsOf e 87 84) sym
  match bitsOf e 87 84 with
  | 1 => some (base, imgAlloc b)
  | 3 => some (base, 0x40000)
  | 5 => some (base, (win sym).len)
  | 6 => some (base, ceilDiv (leAt b 0x60 8) 256)
  | _ => none

/-- Whether a relocation entry writes the BASE of window `i` of stream core `j` of rank `r`. -/
def relocsBase (r j i e : Nat) : Bool :=
  bitsOf e 83 81 == 1 && bitsOf e 46 39 == r && bitsOf e 51 47 == j && bitsOf e 67 52 == i &&
    (bitsOf e 87 84 == 5 || decide (bitsOf e 80 74 < 34))

/-- Whether a panel window that is in use lies within what the relocation of its BASE named (R220); one that no such entry
names must lie within the pattern's allocation in its stripe (R346, log entry 120). -/
def windowPlaced (b : List Byte) (win : Nat → TWin) (r j : Nat) (x : Window × Nat) : Bool :=
  let w := x.1
  let own := if w.base < 6 * stripeUnits then some (w.base / stripeUnits * stripeUnits, imgAlloc b) else none
  w.len == 0 ||
    (match ((((relocEntries b).filter (relocsBase r j x.2)).getLast?.bind (relocRegion b win)).or own) with
    | some (a, n) => decide (a ≤ w.base) && decide (w.base + w.len ≤ a + n)
    | none => false)

/-- Whether every panel window that is in use lies where it may (R220). -/
def windowsPlaced (b : List Byte) (win : Nat → TWin) (bl : List SiteBlock) : Bool :=
  bl.zipIdx.all fun x => (List.range 32).all fun j => (blockPwins b x.1 j).zipIdx.all (windowPlaced b win x.2 j)

/-- The windows of the tenants as an image of allocation A takes them: one beyond it is no window (R389). -/
def winsFor (s : State) (a : Nat) (t : Nat) : TWin :=
  let w := (tenOf s t).win
  if w.off + w.len ≤ a then w else {}

/-- PATTERN_COMMIT's relocation of a staged image: the committed image, or the entry refused. -/
def commitImage (s : State) (b : List Byte) : List Byte ⊕ Nat :=
  let bl := imgBlocks b
  let win := winsFor s (imgAlloc b)
  match relocAll win bl (relocEntries b).zipIdx b with
  | .inr i => .inr i
  | .inl b' => if windowsPlaced b' win bl then .inl b' else .inr 0xFFFFFFFF

/-- Apply one TYPE 5 entry again, over what the field holds (R222). -/
def rewindow (win : Nat → TWin) (bl : List SiteBlock) (b : List Byte) (e : Nat) : List Byte :=
  if bitsOf e 87 84 ≠ 5 then b
  else
    match relocTarget b bl e with
    | none => b
    | some o =>
      let t := leAt b o 16
      let addend := signedOf 32 (bitsOf e 127 96)
      if bitsOf e 83 81 = 1 then overlay b o (natLe 16 (windowField (win (bitsOf e 95 88)) addend t))
      else
        let v := (symBase b win 5 (bitsOf e 95 88) : Int) + addend
        let w := bitsOf e 73 68
        if v < 0 ∨ (2 : Int) ^ w ≤ v then b else overlay b o (natLe 16 (setField t (bitsOf e 80 74) w v.toNat))

/-- Whether a TYPE 5 entry, applied again, gives a value that its field can hold (R220, R222). -/
def rewindowFits (win : Nat → TWin) (b : List Byte) (e : Nat) : Bool :=
  let v := (symBase b win 5 (bitsOf e 95 88) : Int) + signedOf 32 (bitsOf e 127 96)
  bitsOf e 87 84 != 5 || bitsOf e 83 81 == 1 || (decide (0 ≤ v) && decide (v < (2 : Int) ^ bitsOf e 73 68))

/-- Whether the tenants' windows fit every field of an image that names them. -/
def windowsFit (s : State) (b : List Byte) : Bool := (relocEntries b).all (rewindowFits (winsFor s (imgAlloc b)) b)

/-- An image with its tenants' windows written again. -/
def rewindowAll (s : State) (b : List Byte) : List Byte :=
  let bl := imgBlocks b
  (relocEntries b).foldl (rewindow (winsFor s (imgAlloc b)) bl) b

/-! ## Loading (R221, R214) -/

/-- A descriptor store that holds a list of entries from index 0 on. -/
def storeTab (l : List (BitVec 144)) : Tab (BitVec 144) :=
  l.zipIdx.filterMap fun p => if p.1 = 0 then none else some (p.2, p.1)

/-- The stream cores of a cluster as an image loads them. -/
def loadCores (b : List Byte) (x : SiteBlock) (k : Nat) : Tab Core :=
  (List.range 8).foldl (fun t n =>
    let j := 8 * k + n
    tabPut {} t n { store := storeTab (blockStore b x j), cwin := blockCwins b x j, pwin := blockPwins b x j }) []

/-- The bytes of a manifest range from its source (R214). -/
def rangeSource (s : State) (b : List Byte) (e : Nat) : List Byte :=
  let n := bitsOf e 57 38 * 64
  let src := bitsOf e 127 94 * 256
  match bitsOf e 59 58 with
  | 0 => fitBytes n ((b.drop src).take n)
  | 1 => memRead s.pmem.data src n
  | _ => List.replicate n 0

/-- Byte address of a manifest range's copy in the resident image (R214). -/
def rangePlace (b : List Byte) (e : Nat) : Nat := (imgResident b + bitsOf e 93 60) * 256

/-- The slot tables of a rank, as they stand in an image (R213). -/
def slotTables (b : List Byte) (r : Nat) : List Byte := (b.drop ((imgDir b 3).1 + r * (slotCount b * 16))).take (slotCount b * 16)

/-- What the resident image holds of a site beside its manifest ranges: the relocated block and the slot tables. -/
def siteImage (b : List Byte) (r : Nat) (x : SiteBlock) : List Byte := (b.drop x.off).take x.len ++ slotTables b r

/-- Write the site blocks and slot tables of the resident image (step 3 of R221, R222). -/
def writeBlocks (b : List Byte) (s : State) : State :=
  (imgBlocks b).zipIdx.foldl (fun s x => pmWrite ((imgResident b + Config.residentSite x.2) * 256) (siteImage b x.2 x.1) s) s

/-- The ranges of panel memory that a resident image takes, as first unit and units. -/
def residentRanges (b : List Byte) : List (Nat × Nat) :=
  ((imgBlocks b).zipIdx.map fun x =>
    (imgResident b + Config.residentSite x.2, ceilDiv (siteImage b x.2 x.1).length 256)) ++
  (manifestEntries b).map fun e => (imgResident b + bitsOf e 93 60, ceilDiv (bitsOf e 57 38 * 64) 256)

/-- Write the resident image: the site blocks, the slot tables, and each manifest range from its source (step 3 of R221). -/
def writeResident (b : List Byte) (s : State) : State :=
  let s1 := (manifestEntries b).foldl (fun t e => pmWrite (rangePlace b e) (rangeSource s b e) t) (writeBlocks b s)
  { s1 with pat := { s1.pat with resident := residentRanges b } }

/-- Load one manifest range from the resident image into a cluster's memory (step 4 of R221). -/
def loadRange (s : State) (b : List Byte) (e : Nat) (m : Mem) : Mem :=
  memWrite m (bitsOf e 37 18 * 64) (memRead s.pmem.data (rangePlace b e) (bitsOf e 57 38 * 64))

/-- A cluster of rank `r` as it loads its stream cores and manifest ranges from the running image and the resident image. -/
def loadClu (s : State) (b : List Byte) (r : Nat) (x : SiteBlock) (k : Nat) (c : Cluster) : Cluster :=
  let rs := (manifestEntries b).filter fun e => bitsOf e 15 8 == r && bitsOf e 17 16 == k
  { c with cores := loadCores b x k, mem := rs.foldl (fun m e => loadRange s b e m) c.mem }

/-- Load a site: descriptor stores, windows and manifest ranges; engines as at a pattern's start (R115). -/
def loadSite (b : List Byte) (r : Nat) (x : SiteBlock) (s : State) : State :=
  let d := physOf s.grid.skip r
  (List.range 4).foldl (fun s k => modClu d k (loadClu s b r x k) s) s

/-- Load every site of an image. -/
def loadAll (b : List Byte) (s : State) : State :=
  (imgBlocks b).zipIdx.foldl (fun s x => loadSite b x.2 x.1 s) s

/-- Give the cores of every site the windows and the descriptors that the running image holds (R222). -/
def reloadWindows (b : List Byte) (s : State) : State :=
  (imgBlocks b).zipIdx.foldl (fun s x =>
    (List.range 4).foldl (fun s k =>
      modClu (physOf s.grid.skip x.2) k (fun c => { c with
        cores := (List.range 8).foldl (fun t n =>
          tabMod {} t n (fun q => { q with
            store := storeTab (blockStore b x.1 (8 * k + n)), pwin := blockPwins b x.1 (8 * k + n) })) c.cores }) s) s) s

end Sys2Proof.Machine
end

