-- ==== Sys2Proof/Machine/Fabric.lean ====
section
/-! DEFINITION. The bulk fabric (chapter 07): headers, set routes, slots, free traffic, acknowledgements,
and the control fabric and sync chain. -/

namespace Sys2Proof.Machine

open Sys2Proof

/-! ## Headers (R251, R278) -/

/-- The bits of a route header (R251). -/
def routeBits (h : RouteHdr) : BitVec 128 :=
  h.addr ++ h.off ++ h.msg ++ h.srank ++ h.sclass ++ h.drank ++ h.dclass ++ h.tag ++ h.hops ++
    BitVec.ofBool h.cm ++ BitVec.ofBool h.ece ++ h.kind ++ h.tepoch ++ (0 : BitVec 2)

/-- A route header from its bits. -/
def routeOfBits (b : BitVec 128) : RouteHdr :=
  { addr := b.extractLsb' 94 34, off := b.extractLsb' 77 17, msg := b.extractLsb' 65 12
    srank := b.extractLsb' 49 16, sclass := b.extractLsb' 45 4, drank := b.extractLsb' 29 16
    dclass := b.extractLsb' 25 4, tag := b.extractLsb' 17 8, hops := b.extractLsb' 11 6
    cm := b.getLsbD 10, ece := b.getLsbD 9, kind := b.extractLsb' 6 3, tepoch := b.extractLsb' 2 4 }

/-- The bits of a set header (R278). -/
def setBits (h : SetHdr) : BitVec 128 :=
  h.lentry ++ h.drank ++ h.srank ++ BitVec.ofBool h.order ++ h.due ++ h.dstitch ++ (0 : BitVec 75)

/-- A set header from its bits. -/
def setOfBits (b : BitVec 128) : SetHdr :=
  { lentry := b.extractLsb' 112 16, drank := b.extractLsb' 104 8, srank := b.extractLsb' 96 8
    order := b.getLsbD 95, due := b.extractLsb' 83 12, dstitch := b.extractLsb' 75 8 }

/-! ## Links: sending (R281, R282, R285, R288) -/

/-- The period P of a link's state and width (R285, R288); 0 when it carries no flits. -/
def linkPeriod (l : Link) : Nat :=
  let lanes := l.lanes0 + l.lanes1
  match l.state with
  | .axust =>
    if lanes = 128 then (if l.fb0 && l.fb1 then 1 else 2)
    else if 64 ≤ lanes then 2 else 4
  | .raw => if lanes = 0 then 0 else ceilDiv 2304 (16 * lanes)
  | _ => 0

/-- Set capacity of a link per stitch (R285). -/
def setCapacity (l : Link) : Nat := if linkPeriod l = 0 then 0 else ceilDiv 448 (linkPeriod l)

/-- Whether a link carries free traffic (R274, R289). -/
def freeLive (s : State) (d p : Nat) : Bool :=
  (linkOf s d p).state == .axust &&
    (match peer d p with | some e => dieLive s e.1 | none => false)

/-- Whether an output can take a new flit: its replay buffer is not full (R282). -/
def txRoom (s : State) (d p : Nat) : Bool := decide ((txDir (linkOf s d p) d p).buf.length < 256)

/-- Counters of a link direction (R269, R299), by index. -/
def dirCount (d p i : Nat) (s : State) : State := modTx d p (fun x => { x with cnt := cntInc x.cnt i }) s

/-- A frame leaves an end of an AXUST link: it acknowledges what the end has received and names the first SEQ that the end still misses
(R277, R283), each once. -/
def frameOut (d p chan : Nat) (seq : BitVec 12) (replay : Bool) (hdr : BitVec 128) (payload : List Byte) (s : State) : State :=
  let rx := rxDir (linkOf s d p) d p
  let f : AxFrame := {
    chan := chan, seq := seq, ackseq := rx.rxNext, nakseq := rx.naks.headD 0, nakv := !rx.naks.isEmpty, replay := replay, hdr := hdr
    payload := payload }
  modTx d p (fun x => { x with wire := some f })
    (modRx d p (fun x => if x.naks.isEmpty then x else { x with naks := x.naks.tail, cnt := cntInc x.cnt 16 }) s)

/-- Send a flit on an AXUST link: it takes the next SEQ and stays in the replay buffer (R282). -/
def axustSend (d p chan : Nat) (hdr : BitVec 128) (payload : List Byte) (s : State) : State :=
  let q := (txDir (linkOf s d p) d p).nextSeq
  modTx d p (fun x => { x with
    buf := x.buf ++ [{ seq := q, chan := chan, hdr := hdr, payload := payload }], nextSeq := q + 1 })
    (frameOut d p chan q false hdr payload s)

/-- The frame of a SEQ in a replay buffer. -/
def frameOf (x : LinkDir) (q : BitVec 12) : Option Framed := x.buf.find? fun f => f.seq == q

/-- Send the oldest replay that waits at an output (R281, R283), and count it. -/
def sendReplay (d p slot : Nat) (s : State) : State :=
  let x := txDir (linkOf s d p) d p
  match x.replays with
  | [] => s
  | q :: l =>
    let s1 := modTx d p (fun x => { x with replays := l }) s
    match frameOf x q with
    | none => s1
    | some f =>
      let s2 := dirCount d p 15 (frameOut d p f.chan q true f.hdr f.payload s1)
      if 496 ≤ slot ∧ slot < 512 then dirCount d p 18 s2 else s2

/-! ## Set routes (R242, R243) -/

/-- Whether a compute die forwards under a darn map: it is not the wale's skipped site. -/
def mapLive (skip : List Nat) (d : Nat) : Bool := (rankOf skip d).isSome

/-- The dies after the first of a vertical run between two courses of one wale, without the skipped
site: each step one course, or two across the skip. -/
def vertRun (skip : List Nat) (w : Nat) : Nat → Nat → Nat → List Nat
  | 0, _, _ => []
  | n + 1, c, c' =>
    -- logical courses
    if c = c' then []
    else
      let k := if c < c' then c + 1 else c - 1
      physOf skip (12 * k + w) :: vertRun skip w n k c'

/-- The dies after the first of a type A step from wale `w` to `w'` (R243), from physical course `a` to
`b`. -/
def stepA (skip : List Nat) (w w' a b : Nat) : List Nat :=
  if a = b then [siteDie b w']
  else if mapLive skip (siteDie a w') then [siteDie a w', siteDie b w']
  else if mapLive skip (siteDie b w) then [siteDie b w, siteDie b w']
  else
    let lo := min a b
    if lo ≤ 9 then
      -- the end in the upper course goes round by course lo + 2
      (if a < b then [siteDie (a + 2) w, siteDie (a + 2) w', siteDie b w']
       else [siteDie (b + 2) w, siteDie (b + 2) w', siteDie b w'])
    else
      (if a < b then [siteDie 9 w, siteDie 9 w', siteDie b w']
       else [siteDie 9 w, siteDie 9 w', siteDie b w'])

/-- The dies after the first of a type B step through memory column `m` (R243). -/
def stepB (w' m a b : Nat) : List Nat :=
  if a = b then [stackDie a m, siteDie a w'] else [stackDie a m, stackDie b m, siteDie b w']

/-- The dies after the first of a horizontal run along a logical course. -/
def horizRun (skip : List Nat) (c : Nat) : Nat → Nat → Nat → List Nat
  | 0, _, _ => []
  | n + 1, w, w' =>
    if w = w' then []
    else
      let k := if w < w' then w + 1 else w - 1
      let a := dieCourse (physOf skip (12 * c + w))
      let b := dieCourse (physOf skip (12 * c + k))
      (if w / 2 = k / 2 then stepA skip w k a b else stepB k (min w k / 2) a b) ++
        horizRun skip c n k w'

/-- The dies of a set route after the source (R242). -/
def setRoute (skip : List Nat) (order : Bool) (src dst : Nat) : List Nat :=
  let cs := src / 12
  let ws := src % 12
  let cd := dst / 12
  let wd := dst % 12
  if order then horizRun skip cs 12 ws wd ++ vertRun skip wd 12 cs cd
  else vertRun skip ws 12 cs cd ++ horizRun skip cd 12 ws wd

/-- The port of `d` that faces `e`. -/
def portTo (d e : Nat) : Option Nat :=
  (List.range 6).find? fun p => match peer d p with | some x => x.1 == e | none => false

/-- The next die of a route after `d`, from the list of its dies. -/
def nextOnRoute (d : Nat) : List Nat → Option Nat
  | a :: b :: l => if a = d then some b else nextOnRoute d (b :: l)
  | _ => none

/-- The output on which a set flit leaves a die, under the present darn map. -/
def setOutput (s : State) (d : Nat) (h : SetHdr) : Option Nat :=
  let skip := s.grid.skip
  let src := physOf skip h.srank.toNat
  (nextOnRoute d (src :: setRoute skip h.order h.srank.toNat h.drank.toNat)).bind (portTo d)

/-- The budget of a crossing: the grade's class limit (R183, R244). -/
def crossBudget (s : State) (d p : Nat) : Nat :=
  if isWaleBypass d p then (if gradeB s then 20 else 16) else (if gradeB s then 16 else 12)

/-- Remove the first copy of a flit from a retiming buffer. -/
def retimeDel (f : SetFlit) (l : List (Nat × SetFlit)) : List (Nat × SetFlit) :=
  match l with
  | [] => []
  | x :: xs => if x.2.hdr = f.hdr ∧ x.2.payload = f.payload then xs else x :: retimeDel f xs

/-- Whether a flit waits for an output in a retiming buffer. -/
def retimeHas (port : Nat) (f : SetFlit) (l : List (Nat × SetFlit)) : Bool :=
  l.any fun x => x.1 == port && x.2.hdr == f.hdr && x.2.payload == f.payload

/-- The stitch, modulo 256, and the slot in it of a slot counted from the edge of a flit's DSTITCH (R244): an extension
quantum adds no numbered slot, and the set slots of a lean stitch are its slot times 0 to 511 (R168). -/
def slotAt (h : SetHdr) (slot : Nat) : Nat × Nat := ((h.dstitch.toNat + slot / 512) % 256, slot % 512)

/-- Budget of a logical step from one rank to the next (R247). -/
def stepBudget (classB : Bool) (a c : Nat) : Nat :=
  if a % 12 = c % 12 then (if classB then 20 else 16)
  else if a % 12 / 2 = c % 12 / 2 then (if classB then 52 else 40)
  else (if classB then 48 else 36)

/-- The route bound of a set route between two ranks (R247); it does not depend on the order of the steps. -/
def routeBound (classB : Bool) (src dst : Nat) : Nat :=
  let lo := min (src % 12) (dst % 12)
  let hi := max (src % 12) (dst % 12)
  8 + (max (src / 12) (dst / 12) - min (src / 12) (dst / 12)) * stepBudget classB 0 12 +
    ((List.range (hi - lo)).map fun i => stepBudget classB (lo + i) (lo + i + 1)).sum

/-- The landing stitch of a set flit, modulo 256 (R247): the stitch of D + route bound, or the next one where that point lies past the hold
line of the 512 slot times for which every pattern is compiled (R168). -/
def landStitch (s : State) (f : SetFlit) : Nat :=
  let p := bitsOf (setSlotEntry (runImg s) f.hdr.srank.toNat f.entry) 8 0 +
    routeBound (gradeB s) f.hdr.srank.toNat f.hdr.drank.toNat
  (f.hdr.dstitch.toNat + p / 512 + (if p % 512 ≤ 448 then 0 else 1)) % 256

/-- The flit that a source sends for a set-slot entry (R244, R248, R278): its header comes from the entry and the stitch of the handover. -/
def sourceFlit (s : State) (rank entry : Nat) (h : Handed) : SetFlit :=
  let e := setSlotEntry (runImg s) rank entry
  { hdr := { lentry := BitVec.ofNat 16 (bitsOf e 63 48), drank := BitVec.ofNat 8 (bitsOf e 47 40), srank := BitVec.ofNat 8 rank
             order := bitOf e 32, due := BitVec.ofNat 12 (bitsOf e 8 0)
             dstitch := BitVec.ofNat 8 (h.stitch.toNat + (bitOf e 10).toNat) }
    payload := h.payload, entry := entry }

/-- A cluster whose SSNs have read their flits for a set-slot entry. -/
def cluHandOver (entry : Nat) (c : Cluster) : Cluster :=
  match c.inflight.find? fun p => match p.eff with | .ssnRead e _ _ => e == entry | _ => false with
  | some p => settle p.cycle c
  | none => c

/-- The cluster of a die that has handed over a flit for a set-slot entry, with what it handed over. -/
def handedAt (s : State) (d entry : Nat) : Option (Nat × Handed) :=
  (List.range 4).findSome? fun k =>
    let h := tabGet {} (cluHandOver entry (cluOf s d k)).handed entry
    if h.payload = [] then none else some (k, h)

/-- Whether a die is the source of a set flit. -/
def isSource (s : State) (d : Nat) (h : SetHdr) : Bool := rankOf s.grid.skip d == some h.srank.toNat

/-- The set flits that a die's clusters have handed over and that have not left it. -/
def handedFlits (s : State) (d : Nat) : List SetFlit :=
  match rankOf s.grid.skip d with
  | none => []
  | some r => (List.range 4).flatMap fun k => (cluOf s d k).handed.map fun p => sourceFlit s r p.1 p.2

/-- Whether an on-time set flit is due in a slot of an output: one has left in it, or one waits for it in the retiming buffer or at its
source (R245). -/
def slotTaken (s : State) (die port : Nat) (f : SetFlit) (at_ : Nat × Nat) : Bool :=
  (niOf s die).due.contains (port, at_.2) ||
    ((niOf s die).retime.any fun x => x.1 == port && x.2.hdr != f.hdr && slotAt x.2.hdr x.2.hdr.due.toNat == at_) ||
    (handedFlits s die).any fun x => setOutput s die x.hdr == some port && x.hdr != f.hdr && slotAt x.hdr x.hdr.due.toNat == at_

/-- Whether a source's flit was handed over less than 32 ns before its departure slot (R248). -/
def handedShort (s : State) (die slot : Nat) (h : Handed) : Bool :=
  decide ((dieOf s die).ref.toNat - (dieOf s die).phase + slot < h.ref + 64)

/-- Whether a late set flit finds a slot of an output taken: by an on-time flit, by what has left in it, or by a replay that waits (R281). -/
def lateWaits (s : State) (die port : Nat) (f : SetFlit) (q : Nat × Nat) : Bool :=
  slotTaken s die port f q || (niOf s die).used.contains (port, q.2) || !(txDir (linkOf s die port) die port).replays.isEmpty

/-- Whether a set flit cannot leave a die in a slot: the link cannot send, the slot is before the due one or is no transmit slot, or
the flit is late and the slot is taken (R244, R245, R281, R285); `short`: it was handed over too late to claim its own slot (R248). -/
def setWaits (die port slot : Nat) (short : Bool) (f : SetFlit) (s : State) : Bool :=
  let l := linkOf s die port
  let per := linkPeriod l
  let q := slotAt f.hdr slot
  per == 0 || decide (slot < f.hdr.due.toNat) || q.2 % max per 1 != 0 ||
    ((slot != f.hdr.due.toNat || short) && lateWaits s die port f q) || (l.state == .axust && !txRoom s die port)

/-- A set flit leaves a die in a slot (R244 to R246): two on-time flits in one slot of one output raise DST. -/
def setLeave (die port slot : Nat) (f : SetFlit) (s : State) : State :=
  let l := linkOf s die port
  let onTime := slot == f.hdr.due.toNat
  let q := slotAt f.hdr slot
  if onTime && (niOf s die).due.contains (port, q.2) then
    addPatFault die { code := 0x01, entry := BitVec.ofNat 16 f.entry
                      link := BitVec.ofNat 4 (linkCode die port), slot := BitVec.ofNat 12 q.2
                      detail := f.hdr.srank.setWidth 16, sect := BitVec.ofNat 12 s.pat.sect } s
  else
    let s1 := if onTime then modNI die (fun n => { n with due := (port, q.2) :: n.due }) s
      else modNI die (fun n => { n with used := (port, q.2) :: n.used }) (dirCount die port 5 (dirCount die port 4 s))
    let h := { f.hdr with due := BitVec.ofNat 12 (slot + crossBudget s die port) }
    let s2 := dirCount die port 0 s1
    if l.state = .axust then axustSend die port 0 (setBits h) f.payload s2
    else modTx die port (fun x => { x with
        rseqTx := x.rseqTx + 1
        wire := some { chan := 0, seq := x.rseqTx, ackseq := 0, nakseq := 0, nakv := false, replay := false, hdr := setBits h
                       payload := f.payload } }) s2

/-- A set flit at its source: the operand is the flit that the entry and the handover make, or nothing happens; it waits at the interface
until it can leave. -/
def setDepart (die port slot : Nat) (f : SetFlit) (s : State) : State :=
  match handedAt s die f.entry with
  | none => s
  | some (k, h) =>
    if f ≠ sourceFlit s f.hdr.srank.toNat f.entry h ∨ setWaits die port slot (handedShort s die slot h) f s then s
    else
      setLeave die port slot f (modClu die k (fun c =>
        let c := cluHandOver f.entry c
        { c with handed := tabPut {} c.handed f.entry {} }) s)

/-- A set flit at a die on its route: it leaves, or waits in the retiming buffer, which holds 64 flits for each output (R245). -/
def setTransit (die port slot : Nat) (f : SetFlit) (s : State) : State :=
  if setWaits die port slot false f s then
    modNI die (fun n => { n with retime :=
      if (n.retime.filter fun x => x.1 == port).length < 64 ∧ retimeHas port f n.retime = false
      then n.retime ++ [(port, f)] else n.retime }) s
  else setLeave die port slot f (modNI die (fun n => { n with retime := retimeDel f n.retime }) s)

/-- SET_FLIT_FORWARD: a set flit leaves a die in a slot, counted from the edge of its DSTITCH.  It leaves
at its due slot or, late, in a later transmit slot in which no on-time flit is due (R244, R245, R285); before its due slot,
or while the link cannot send, it waits. -/
def setForward (die port slot : Nat) (f : SetFlit) (s : State) : State :=
  if setOutput s die f.hdr ≠ some port then s
  else if isSource s die f.hdr then setDepart die port slot f s
  else setTransit die port slot f s

/-- SET_FLIT_LANDING: the flit is written at its landing entry's buffer position and sets the full bit; a
full position is overwritten and counted (R249).  A flit that lands in the stitch in which it was sent is in the landing
entries from the next stitch on (R36, R152).  The least margin against the landing slot is kept (R185). -/
def setLanding (rank slot : Nat) (f : SetFlit) (s : State) : State :=
  let d := physOf s.grid.skip rank
  let e := landEntry (runImg s) rank f.hdr.lentry.toNat
  let pos := bitsOf e 63 52
  let full := tabGet [] (niOf s d).landing pos != []
  let s1 :=
    if f.hdr.dstitch.toNat = (dieOf s d).count.toNat % 256 then
      modNI d (fun n => { n with arriving := n.arriving ++ [(pos, fitBytes 256 f.payload)], retime := retimeDel f n.retime }) s
    else
      modNI d (fun n => { n with
        landing := tabPut [] n.landing pos (fitBytes 256 f.payload)
        retime := retimeDel f n.retime
        cnt := if full then cntInc n.cnt 5 else n.cnt }) s
  match setOutput s (physOf s.grid.skip f.hdr.srank.toNat) f.hdr with
  | some _ =>
    let last := (physOf s.grid.skip f.hdr.srank.toNat ::
      setRoute s.grid.skip f.hdr.order f.hdr.srank.toNat rank).dropLast.getLastD d
    match portTo d last with
    | some p => modRx d p (fun x => { x with margin := min x.margin (f.hdr.due.toNat + 8 - slot) }) s1
    | none => s1
  | none => s1

/-! ## Endpoints and routing of free flits (R238 to R240, R252) -/

/-- The park ports' dies in the order of park ports 0 to 5 (chapter 00). -/
def parkDies : List Nat := [216, 218, 219, 220, 222, 223]

/-- Stack, row and data slot of a panel-memory address (R302): column, course, row. -/
def unitPlace (paddr : Nat) : Nat × Nat × Nat :=
  let m := paddr / 0xA0000000
  let o := paddr % 0xA0000000
  let r := o / 10
  (m, (r + 2 + o % 10) % 12, r)

/-- Whether a panel-memory address names a unit (R303). -/
def unitExists (paddr : Nat) : Bool := decide (paddr < 0x3C0000000)

/-- Whether a stack is lost for its stripe (R301). -/
def stackLost (s : State) (c m : Nat) : Bool := (stackOf s c m).state != .inService

/-- The course of the stack that serves an operation on a unit: its own, or the row's proxy in a
degraded stripe (R315, R317, R318). -/
def serveCourse (s : State) (m c r : Nat) (write : Bool) : Nat :=
  let anyLost := (List.range 12).any fun x => stackLost s x m
  let p := r % 12
  let q := (r + 1) % 12
  let proxy := if !stackLost s p m then p else if !stackLost s q m then q else c
  if stackLost s c m then proxy else if write && anyLost then proxy else c

/-- The die of an endpoint (R239, R240); `none` when the rank names no endpoint of its class. -/
def endpointDie (s : State) (drank dclass addr kind : Nat) : Option Nat :=
  match dclass with
  | 0 => if drank < 132 then some (physOf s.grid.skip drank) else none
  | 1 =>
    if 0xC0 ≤ drank ∧ drank ≤ 0xC5 ∧ unitExists addr then
      (let u := unitPlace addr
       some (stackDie (serveCourse s u.1 u.2.1 u.2.2 (kind == 0)) u.1))
    else none
  | 2 =>
    if drank = 0xD1 then some 217 else if drank = 0xD2 then some 221
    else if 0xD8 ≤ drank ∧ drank ≤ 0xDD then (parkDies.drop (drank - 0xD8)).head? else none
  | 3 => if drank = 0xD0 ∨ drank = 0xE0 then some (anchorDie s) else none
  | _ => none

/-- Node column and course of a die, a ring die taken at one of its attachment stacks. -/
def nodePos (d : Nat) : Int × Int :=
  if d < 216 then (dieCourse d, nodeX d)
  else (if isNorth d then -1 else 12, ((ringCols d).map fun x => (3 * x.1 + 2 : Int)).headD 2)

/-- Distances down and along to a destination (R252). -/
def dist (d dest : Nat) : Nat × Nat :=
  let a := nodePos d
  let b := nodePos dest
  ((a.1 - b.1).natAbs, (a.2 - b.2).natAbs)

/-- Total distance. -/
def dist1 (d dest : Nat) : Nat := (dist d dest).1 + (dist d dest).2

/-- Whether a port lies along the courses (vertical) or along a course. -/
def isVertical (d p : Nat) : Bool :=
  match peer d p with
  | some e => (nodePos d).1 != (nodePos e.1).1
  | none => false

/-- Whether a port leads north or west. -/
def isNorthWest (d p : Nat) : Bool :=
  match peer d p with
  | some e => decide ((nodePos e.1).1 < (nodePos d).1) || decide ((nodePos e.1).2 < (nodePos d).2)
  | none => false

/-- Preference of a productive output: along the larger remaining distance first, north or west on a
tie, then the lower port. -/
def outPref (d dest p : Nat) : Nat :=
  let x := dist d dest
  let along := if isVertical d p then decide (x.2 < x.1) else decide (x.1 < x.2)
  let tie := x.1 == x.2 && isNorthWest d p
  (if along then 0 else if tie then 8 else 16) + p

/-- The least element of a list under a key. -/
def minBy (key : Nat → Nat) : List Nat → Option Nat
  | [] => none
  | x :: xs => match minBy key xs with
    | some y => if key x ≤ key y then some x else some y
    | none => some x

/-- Whether a free flit may cross to a die: a ring die carries no traffic from one node of the site field to another (R241). -/
def ringOk (ring : Bool) (e dest : Nat) : Bool := decide (e < 216) || decide (216 ≤ dest) || ring

/-- The productive outputs of a flit at a die, among those free in the slot; `ring`: its source is a ring port or an
anchor. -/
def productive (s : State) (d dest : Nat) (ring : Bool) (busy : List Nat) : List Nat :=
  (List.range 6).filter fun p =>
    !busy.contains p && freeLive s d p && txRoom s d p &&
    (match peer d p with
    | some e => decide (dist1 e.1 dest < dist1 d dest) && ringOk ring e.1 dest
    | none => false)

/-- The outputs free in a slot to which a flit may be deflected. -/
def freeOutputs (s : State) (d dest : Nat) (ring : Bool) (busy : List Nat) : List Nat :=
  (List.range 6).filter fun p => !busy.contains p && freeLive s d p && txRoom s d p &&
    (match peer d p with | some e => ringOk ring e.1 dest | none => false)

/-! ## Acknowledgements and the source (R254 to R256) -/

/-- Length of the injection queue of a die, as R256 counts it. -/
def queueLevel (n : NI) : Nat := n.inj.length

/-- The rate window towards a destination (R256). -/
def winOf (n : NI) (drank : W16) (dclass : BitVec 4) : RateWin :=
  (n.wins.find? fun x => x.drank == drank && x.dclass == dclass).getD { drank := drank, dclass := dclass }

/-- Store a rate window; a 65th drops the least recently used. -/
def winPut (n : NI) (x : RateWin) : NI :=
  let rest := n.wins.filter fun y => !(y.drank == x.drank && y.dclass == x.dclass)
  let old := (rest.map (·.stamp)).foldl min n.stamp
  let rest' := if rest.length < 64 then rest else rest.filter fun y => y.stamp != old
  { n with wins := { x with stamp := n.stamp } :: rest', stamp := n.stamp + 1 }

/-- Flits sent to a destination and not acknowledged. -/
def inFlight (n : NI) (drank : W16) (dclass : BitVec 4) : Nat :=
  (n.sent.filter fun x => x.flit.hdr.drank == drank && x.flit.hdr.dclass == dclass).length

/-- Whether an acknowledgement record covers a flit. -/
def ackCovers (drank : W16) (dclass : BitVec 4) (r : AckRec) (x : Sent) : Bool :=
  let h := x.flit.hdr
  h.msg == r.msg && h.drank == drank && h.dclass == dclass &&
    decide (r.off.toNat ≤ h.off.toNat) && decide (h.off.toNat < r.off.toNat + r.count)

/-- Credit the outstanding transfers of a die's clusters with `n` flits of message `msg`. -/
def creditCore (msg : BitVec 12) (n : Nat) (k : Core) : Core :=
  { k with xfers := k.xfers.map fun x =>
      if (x.kind == .dmw || x.kind == .fsn) && x.msg == msg then { x with moved := x.moved + n } else x }

/-- A change of every core of a cluster that has state. -/
def cluMapCores (f : Core → Core) (c : Cluster) : Cluster :=
  (List.range 8).foldl (fun c i => cluSetCore c i (f (cluCore c i))) c

/-- Count a halving of a rate window: the interface reports the largest number within 1 ms (R269). -/
def countHalving (now : Nat) (n : NI) : NI :=
  let w := now / 2000000
  let k := if n.halveWin = w then n.halves + 1 else 1
  { n with halveWin := w, halves := k
           cnt := if (tabGet 0 n.cnt 6).toNat < k then tabPut 0 n.cnt 6 (BitVec.ofNat 32 k) else n.cnt }

/-- Growth of a rate window (R256): one for each W flits acknowledged at window W, to no more than 512.  Gives the window and
what is left over. -/
def growWin : Nat → Nat → Nat → Nat × Nat
  | 0, w, a => (w, a)
  | n + 1, w, a => if w ≤ a then growWin n (min 512 (w + 1)) (a - w) else (w, a)

/-- A rate window when `n` of its flits are acknowledged at a reference count (R256), and whether it is halved: with ECE it is, to
no less than 2 and at most once in 4 µs; without, it grows. -/
def winAck (now n : Nat) (ece : Bool) (w : RateWin) : RateWin × Bool :=
  if ece then
    if w.halved.any fun t => decide (now < t + 8000) then (w, false)
    else ({ w with w := max 2 (w.w / 2), acked := 0, halved := some now }, true)
  else
    let g := growWin (w.acked + n) w.w (w.acked + n)
    ({ w with w := g.1, acked := g.2 }, false)

/-- FREE_FLIT_ACK: an acknowledgement retires the flits it covers and adjusts the rate window. -/
def freeAck (die : Nat) (drank : W16) (dclass : BitVec 4) (recs : List AckRec) (ece : Bool) (s : State) : State :=
  let n := niOf s die
  let hit := n.sent.filter fun x => recs.any fun r => ackCovers drank dclass r x
  let w := winAck (refNow s).toNat hit.length ece (winOf n drank dclass)
  let s1 := modNI die (fun n =>
    let n1 := winPut { n with sent := n.sent.filter fun x => !(recs.any fun r => ackCovers drank dclass r x) } w.1
    if w.2 then countHalving (refNow s).toNat n1 else n1) s
  if die < 144 then
    hit.foldl (fun s x => (List.range 4).foldl (fun s k =>
      modClu die k (cluMapCores (creditCore x.flit.hdr.msg 1)) s) s) s1
  else s1

/-- Acknowledgement records of flit indices that rise, one for each run (R254). -/
def ackRuns (msg : BitVec 12) : List Nat → List AckRec
  | [] => []
  | o :: l =>
    match ackRuns msg l with
    | [] => [{ msg := msg, off := BitVec.ofNat 17 o, count := 1 }]
    | r :: rs =>
      if r.off.toNat = o + 1 then { r with off := BitVec.ofNat 17 o, count := r.count + 1 } :: rs
      else { msg := msg, off := BitVec.ofNat 17 o, count := 1 } :: r :: rs

/-- Whether a record covers a flit index. -/
def recHas (r : AckRec) (o : Nat) : Bool := decide (r.off.toNat ≤ o) && decide (o < r.off.toNat + r.count)

/-- The eight bytes of an acknowledgement record (R254). -/
def ackBytes (r : AckRec) : List Byte :=
  natLe 8 (r.msg.toNat + r.off.toNat * 2 ^ 12 + r.count * 2 ^ 29)

/-- An acknowledgement flit from the endpoint a message is addressed to, for the flit indices `l`, to its source: a stripe is reached at the
stack of the first of them. -/
def ackFlit (r : RxMsg) (l : List Nat) (recs : List AckRec) : FreeFlit :=
  { hdr := { addr := if r.sclass = 1 then r.base + BitVec.ofNat 34 (l.headD 0) else 0
             off := 0, msg := r.msg, srank := r.drank, sclass := r.dclass, drank := r.srank
             dclass := r.sclass, tag := 0, hops := 0, cm := false, ece := l.any fun o => r.marked.contains o, kind := 1, tepoch := 0 },
    chan := 1, payload := fitBytes 256 (recs.flatMap ackBytes) }

/-- Job rank and class of a die as a source (R239). -/
def jobRank (s : State) (d : Nat) : W16 × BitVec 4 :=
  if d < 144 then (BitVec.ofNat 16 ((rankOf s.grid.skip d).getD 0xFFFF), 0)
  else if d < 216 then (BitVec.ofNat 16 (0xC0 + dieCol d), 1)
  else if d = 217 then (0xD1, 2)
  else if d = 221 then (0xD2, 2)
  else if isAnchor d then (0xE0, 3)
  else (BitVec.ofNat 16 (0xD8 + (parkDies.findIdx? (· == d)).getD 0), 2)

/-- The flit indices that one acknowledgement of a message covers: those that have come from the stack of the first, where the source is a
stripe, and all of them otherwise. -/
def ackGroup (s : State) (r : RxMsg) : List Nat :=
  if r.sclass = 1 then
    let at_ := fun (o : Nat) => endpointDie s r.srank.toNat 1 (r.base + BitVec.ofNat 34 o).toNat 1
    r.unacked.filter fun o => at_ o == at_ (r.unacked.headD 0)
  else r.unacked

/-- Send an acknowledgement of a message from a destination, of up to 30 records; what it does not cover stays to be acknowledged (R254). -/
def sendAck (die : Nat) (r : RxMsg) (s : State) : State :=
  let recs := (ackRuns r.msg (ackGroup s r)).take 30
  let l := (ackGroup s r).filter fun o => recs.any fun a => recHas a o
  modNI die (fun n => { n with
    inj := n.inj ++ [ackFlit r l recs]
    rx := n.rx.map fun x => if x.msg = r.msg ∧ x.srank = r.srank ∧ x.sclass = r.sclass
      then { x with unacked := x.unacked.filter (!l.contains ·), marked := x.marked.filter (!l.contains ·) } else x }) s

/-- ACK_TIMER: 2 µs after a flit that has gone unacknowledged, the destination acknowledges (R254). -/
def ackTimer (die : Nat) (srank : W16) (msg : BitVec 12) (s : State) : State :=
  match (niOf s die).rx.find? fun x => x.srank == srank && x.msg == msg && !x.unacked.isEmpty with
  | some r => sendAck die r s
  | none => s

/-- Note the arrival of a flit at its destination, to be acknowledged or not; whether it is the first copy (R255).  A message
number is forgotten 2 ms after its last flit (log entry 123). -/
def rxNote (now : Nat) (ack : Bool) (h : RouteHdr) (n : NI) : NI × Bool :=
  let o := h.off.toNat
  let live := n.rx.filter fun x => decide (now < x.at_ + 4000000) || !x.unacked.isEmpty
  let old := (live.find? fun x => x.srank == h.srank && x.sclass == h.sclass && x.msg == h.msg).getD
    { srank := h.srank, sclass := h.sclass, msg := h.msg, drank := h.drank, dclass := h.dclass, base := h.addr - h.off.setWidth 34 }
  let rest := live.filter fun x => !(x.srank == h.srank && x.sclass == h.sclass && x.msg == h.msg)
  ({ n with rx := rest ++ [{ old with
      seen := setIns o old.seen, unacked := if ack then setIns o old.unacked else old.unacked
      marked := if ack && h.cm then setIns o old.marked else old.marked, at_ := now }] },
   !old.seen.contains o)

/-! ## Delivery at the destination -/

/-- A core of a die with a posted buffer of some kind, as cluster, core and index of its transfer. -/
def frvAt (s : State) (d : Nat) (p : Xfer → Bool) : Option (Nat × Nat × Nat) :=
  (List.range 32).findSome? fun j =>
    ((cluCore (cluOf s d (j / 8)) (j % 8)).xfers.findIdx? fun x => x.kind == .frv && p x).map fun i => (j / 8, j % 8, i)

/-- The message of a flit. -/
def msgKey (h : RouteHdr) : W16 × BitVec 4 × BitVec 12 := (h.srank, h.sclass, h.msg)

/-- The posted buffer of a flit (R153): the one that its message has matched or, where `fresh`, the first posted under its tag that
no message has matched. -/
def findFrv (s : State) (d : Nat) (h : RouteHdr) (fresh : Bool) : Option (Nat × Nat × Nat) :=
  (frvAt s d fun x => x.tag == h.tag && x.src == some (msgKey h)).or
    (if fresh then frvAt s d fun x => x.tag == h.tag && x.src == none else none)

/-- Deliver a flit of a free message to a posted buffer (R153): a flit beyond the buffer raises ADR and
is acknowledged. -/
def frvDeliver (s : State) (d : Nat) (f : FreeFlit) (first : Bool) (at_ : Nat × Nat × Nat) : State :=
  let c := cluOf s d at_.1
  let k := cluCore c at_.2.1
  match k.xfers.drop at_.2.2 with
  | x :: _ =>
    let o := f.hdr.off.toNat
    if o < x.flits then
      let c1 := { c with mem := memWrite c.mem ((x.caddr + 4 * o) * 64) (fitBytes 256 f.payload) }
      let up := fun (y : Xfer) => { y with moved := if first then y.moved + 1 else y.moved, src := some (msgKey f.hdr) }
      let k1 := { k with xfers := listMod up k.xfers at_.2.2 }
      modClu d at_.1 (fun _ => cluSetCore c1 at_.2.1 k1) s
    else if x.tooLong then s
    else
      let k1 := { k with xfers := listMod (fun y => { y with tooLong := true, src := some (msgKey f.hdr) }) k.xfers at_.2.2 }
      addPatFault d { code := 0x05, detail := 5, addr := BitVec.ofNat 32 (o + 1)
                      clu := BitVec.ofNat 2 at_.1, sc := BitVec.ofNat 3 at_.2.1
                      uop := BitVec.ofNat 13 k.uop, sect := BitVec.ofNat 12 s.pat.sect }
        (modClu d at_.1 (fun _ => cluSetCore c at_.2.1 k1) s)
  | [] => s

/-- Deliver read data to the DMR that asked for it (R150). -/
def dmrDeliver (s : State) (d : Nat) (f : FreeFlit) (first : Bool) : State :=
  match ((List.range 32).findSome? fun j =>
    (((cluCore (cluOf s d (j / 8)) (j % 8)).xfers.findIdx? fun x => x.kind == .dmr && x.msg == f.hdr.msg).map
      fun i => (j / 8, j % 8, i))) with
  | some a =>
    let c := cluOf s d a.1
    let k := cluCore c a.2.1
    (match k.xfers.drop a.2.2 with
    | x :: _ =>
      if first then
        let c1 := { c with mem := memWrite c.mem ((x.caddr + 4 * f.hdr.off.toNat) * 64) (fitBytes 256 f.payload) }
        let k1 := { k with xfers := listMod (fun y => { y with moved := y.moved + 1 }) k.xfers a.2.2 }
        modClu d a.1 (fun _ => cluSetCore c1 a.2.1 k1) s
      else s
    | [] => s)
  | none => s

/-- The acknowledgement records in the payload of an acknowledgement flit. -/
def ackOfPayload (p : List Byte) : List AckRec :=
  ((List.range 30).map fun i =>
    let v := leAt p (8 * i) 8
    ({ msg := BitVec.ofNat 12 v, off := BitVec.ofNat 17 (v / 2 ^ 12), count := v / 2 ^ 29 } : AckRec)).filter
    fun r => r.count != 0

/-- What the memory of a stack does with a flit; the memory chapter supplies it. -/
abbrev MemServe := Nat → FreeFlit → State → State

/-- TEPOCH of a flit on a ring port: the low bits of the epoch of the tenant for whom it moves (R251, R394). -/
def portEpoch (s : State) (h : RouteHdr) : BitVec 4 := (tenOf s (Config.portTenant h.drank.toNat h.addr.toNat)).epoch.setWidth 4

/-- Whether the shared engines of a ring port discard a flit, its tenant's epoch having advanced (R258). -/
def staleFlit (s : State) (h : RouteHdr) : Bool := h.dclass == 2 && h.tepoch != portEpoch s h

/-- Eject a flit at its destination (R252 to R258): an acknowledgement, an operation for a stack, read data, or data.  A stale flit at a ring port
is discarded. -/
def eject (serve : MemServe) (die : Nat) (f : FreeFlit) (s : State) : State :=
  let h := f.hdr
  let now := (refNow s).toNat
  let kind := h.kind.toNat
  if kind = 1 then freeAck die h.srank h.sclass (ackOfPayload f.payload) h.ece s
  else if kind = 2 ∨ (kind = 0 ∧ h.dclass = 1) then serve die f s
  else if kind = 3 then
    let first := (niOf s die).sent.any fun x => x.flit.hdr.msg == h.msg && x.flit.hdr.off == h.off
    let s1 := modNI die (fun n =>
      let n1 := (rxNote now true h n).1
      if first then winPut { n1 with sent := n1.sent.filter fun x => !(x.flit.hdr.msg == h.msg && x.flit.hdr.off == h.off) }
        (winAck now 1 false (winOf n1 h.srank h.sclass)).1
      else n1) s
    dmrDeliver s1 die f first
  else if kind = 0 ∧ (f.chan = 2 ∨ !staleFlit s h) then
    let noted := rxNote now true h (niOf s die)
    let s1 := modNI die (fun _ => noted.1) s
    if h.dclass = 0 then
      match findFrv s die h noted.2 with
      | some a => frvDeliver s1 die f noted.2 a
      | none =>
        if !noted.2 then s1
        else if (niOf s die).held.length < 256 then modNI die (fun n => { n with held := n.held ++ [f] }) s1
        else niCount die 4 s
    else s1
  else s

/-- Whether every flit of a message has come, as its destination knows it: it has filled its posted buffer, or it is all the data of a DMR. -/
def msgFull (s : State) (die : Nat) (h : RouteHdr) : Bool :=
  if h.kind = 3 then
    (List.range 32).any fun j => (cluCore (cluOf s die (j / 8)) (j % 8)).xfers.any fun x =>
      x.kind == .dmr && x.msg == h.msg && decide (x.flits ≤ x.moved)
  else (frvAt s die fun x => x.tag == h.tag && x.src == some (msgKey h) && decide (x.flits ≤ x.moved)).isSome

/-- Send an acknowledgement when 32 flits of a message are unacknowledged or the message is complete (R254). -/
def ackAt32 (die : Nat) (h : RouteHdr) (s : State) : State :=
  match (niOf s die).rx.find? fun x => x.srank == h.srank && x.sclass == h.sclass && x.msg == h.msg with
  | some r => if 32 ≤ r.unacked.length ∨ (!r.unacked.isEmpty && msgFull s die h) then sendAck die r s else s
  | none => s

/-- A die marks congestion while its queues hold more than 24 flits (R256). -/
def markCm (n : NI) (h : RouteHdr) : RouteHdr := if 24 < queueLevel n then { h with cm := true } else h

/-- A base die also marks what it ejects while it has 768 operations or more queued (R309). -/
def markEject (s : State) (die : Nat) (h : RouteHdr) : RouteHdr :=
  let h1 := markCm (niOf s die) h
  if 144 ≤ die ∧ die < 216 ∧ 768 ≤ (stackOf s (dieCourse die) (dieCol die)).queue.length then { h1 with cm := true } else h1

/-- Send a free flit through an output: HOPS grows by one at the crossing (R253). -/
def freeSend (die port : Nat) (deflected : Bool) (f : FreeFlit) (s : State) : State :=
  let h := markCm (niOf s die) f.hdr
  let h1 := { h with hops := h.hops + 1, cm := h.cm || deflected }
  let s1 := dirCount die port 1 s
  let s2 := if deflected then dirCount die port 2 s1 else s1
  let s3 := if h1.cm then dirCount die port 3 s2 else s2
  axustSend die port f.chan (routeBits h1) f.payload s3

/-- Whether a flit's source is a ring port or an anchor. -/
def fromRing (h : RouteHdr) : Bool := decide (2 ≤ h.sclass.toNat)

/-- Move one flit: ejected, sent on a productive output, deflected, or left for the next slot.  Gives
the outputs taken. -/
def routeOne (serve : MemServe) (die : Nat) (x : Nat × FreeFlit) (st : State × List Nat) : State × List Nat :=
  let s := st.1
  let h := x.2.hdr
  let drop := fun (s : State) => modNI die (fun n => { n with inq := n.inq.erase x }) s
  match endpointDie s h.drank.toNat h.dclass.toNat h.addr.toNat h.kind.toNat with
  | none => (niCount die 3 (drop s), st.2)
  | some dest =>
    if dest = die then (ackAt32 die h (eject serve die { x.2 with hdr := markEject s die h } (drop s)), st.2)
    else if h.hops = 63 then (niCount die 0 (drop s), st.2)
    else
      match minBy (outPref die dest) (productive s die dest (fromRing h) st.2) with
      | some p => (freeSend die p false x.2 (drop s), p :: st.2)
      | none =>
        match freeOutputs s die dest (fromRing h) st.2 with
        | [] => (s, st.2)
        | p :: ps =>
          let i := Config.freeChoice s.free % (ps.length + 1)
          let q := ((p :: ps).drop i).headD p
          (freeSend die q true x.2 (drop { s with free := s.free + 1 }), q :: st.2)

/-- Rank of an input of a die in the order N, E, S, W, N bypass, S bypass, ring. -/
def inputRank (die p : Nat) : Nat := 8 * linkCode die p + p

/-- Order of competition: greater HOPS first, then the lower input (R252). -/
def insInput (die : Nat) (x : Nat × FreeFlit) : List (Nat × FreeFlit) → List (Nat × FreeFlit)
  | [] => [x]
  | y :: l =>
    if y.2.hdr.hops.toNat < x.2.hdr.hops.toNat ∨ (y.2.hdr.hops = x.2.hdr.hops ∧ inputRank die x.1 < inputRank die y.1)
    then x :: y :: l else y :: insInput die x l

/-- The first flit at each input. -/
def inputHeads (die : Nat) (l : List (Nat × FreeFlit)) : List (Nat × FreeFlit) :=
  l.foldl (fun acc x => if acc.any fun y => y.1 == x.1 then acc else insInput die x acc) []

/-- The next flit that a transfer of a die's cores puts into the network, with its place, when its rate
window has room (R256).  One for another cluster of the die waits for a later stitch than the one in which it was posted (R36). -/
def nextOfXfer (s : State) (die : Nat) : Option ((Nat × Nat × Nat) × FreeFlit) :=
  (List.range 32).findSome? fun j =>
    let c := cluOf s die (j / 8)
    (cluCore c (j % 8)).xfers.zipIdx.findSome? fun p =>
      let x := p.1
      let me := jobRank s die
      let pa := x.paddr + x.next
      let dr : W16 := if x.kind = .fsn then x.drank else BitVec.ofNat 16 (0xC0 + pa / 0xA0000000)
      let dc : BitVec 4 := if x.kind = .fsn then x.dclass else 1
      let n := niOf s die
      let addr := if x.kind ≠ .fsn then BitVec.ofNat 34 pa
        else Config.fsnAddr x.drank.toNat x.tag.toNat + BitVec.ofNat 34 x.next
      let here := endpointDie s dr.toNat dc.toNat addr.toNat 0 == some die && (dieOf s die).count == x.posted
      if x.kind ≠ .frv ∧ x.next < x.flits ∧ inFlight n dr dc < (winOf n dr dc).w ∧ !here then
        let h : RouteHdr := {
          addr := addr
          off := BitVec.ofNat 17 x.next, msg := x.msg, srank := me.1, sclass := me.2, drank := dr, dclass := dc
          tag := x.tag, hops := 0, cm := false, ece := false
          kind := if x.kind = .dmr then 2 else 0, tepoch := 0 }
        some ((j / 8, j % 8, p.2),
          { hdr := { h with tepoch := if dc = 2 then portEpoch s h else 0 }, chan := 1
            payload := if x.kind = .dmr then [] else memRead c.mem ((x.caddr + 4 * x.next) * 64) 256 })
      else none

/-- The flit of an injection queue that enters first: coherence, event, free bulk (R281). -/
def injPick (l : List FreeFlit) : Option FreeFlit :=
  (l.find? fun f => f.chan == 2).or ((l.find? fun f => f.chan == 3).or (l.find? fun f => decide (f.chan ≤ 1)))

/-- Whether a queued flit may enter: an invalidation that has not been sent needs room in its rate window (R256); the others entered their windows when
they were queued. -/
def injReady (n : NI) (f : FreeFlit) : Bool :=
  f.chan != 2 || (n.sent.any fun x => x.flit == f) ||
    decide (inFlight n f.hdr.drank f.hdr.dclass < (winOf n f.hdr.drank f.hdr.dclass).w)

/-- A queued flit leaves the queue; an invalidation then waits for its acknowledgement. -/
def injTake (f : FreeFlit) (n : NI) : NI :=
  let n1 := { n with inj := n.inj.erase f }
  if f.chan = 2 ∧ !(n.sent.any fun x => x.flit == f) then
    winPut { n1 with sent := n1.sent ++ [{ flit := f }] } (winOf n f.hdr.drank f.hdr.dclass)
  else n1

/-- New flits enter where transit flits leave an output free (R252), in the channel order coherence, event, free bulk, debug (R281); one for the
die itself is ejected. -/
def injectOne (serve : MemServe) (die : Nat) (st : State × List Nat) : State × List Nat :=
  let s := st.1
  let n := niOf s die
  let go := fun (f : FreeFlit) (s' : State) =>
    match endpointDie s f.hdr.drank.toNat f.hdr.dclass.toNat f.hdr.addr.toNat f.hdr.kind.toNat with
    | none => (niCount die 3 s', st.2)
    | some dest =>
      if dest = die then (ackAt32 die f.hdr (eject serve die { f with hdr := markEject s die f.hdr } s'), st.2)
      else match minBy (outPref die dest) (productive s die dest (fromRing f.hdr) st.2) with
      | some p => (freeSend die p false f s', p :: st.2)
      | none => st
  let ready := n.inj.filter (injReady n)
  let queued := fun (f : FreeFlit) => go f (modNI die (injTake f) s)
  if n.drained then st
  else
    match injPick ready with
    | some f => queued f
    | none =>
        match (if 144 ≤ die then none else nextOfXfer s die) with
        | none => (match ready with | [] => st | f :: _ => queued f)
        | some x =>
          let s1 := modClu die x.1.1 (fun c =>
            cluSetCore c x.1.2.1 (let k := cluCore c x.1.2.1
              { k with xfers := listMod (fun y => { y with next := y.next + 1 }) k.xfers x.1.2.2 })) s
          go x.2 (modNI die (fun n => winPut { n with sent := n.sent ++ [{ flit := x.2 }] } (winOf n x.2.hdr.drank x.2.hdr.dclass)) s1)

/-- Whether a set flit holds a slot of the present stitch of an output: one has left in it, or one is due in it (R237). -/
def setHolds (s : State) (die slot p : Nat) : Bool :=
  let q := ((dieOf s die).count.toNat % 256, slot)
  (niOf s die).due.contains (p, slot) ||
    ((niOf s die).retime.any fun x => x.1 == p && slotAt x.2.hdr x.2.hdr.due.toNat == q) ||
    (handedFlits s die).any fun x => setOutput s die x.hdr == some p && slotAt x.hdr x.hdr.due.toNat == q

/-- Whether an output sends no free flit in a slot: it is no transmit slot (R285), a set flit holds it, or something has left in it. -/
def outBusy (s : State) (die slot p : Nat) : Bool :=
  slot % max (linkPeriod (linkOf s die p)) 1 != 0 || setHolds s die slot p || (niOf s die).used.contains (p, slot)

/-- What an output in AXUST sends before free traffic in a slot: the oldest replay that waits (R281).  A slot in which the replay buffer is full
is counted (R299). -/
def slotReplay (die slot p : Nat) (s : State) : State :=
  if (linkOf s die p).state ≠ .axust then s
  else
    let s1 := if txRoom s die p then s else dirCount die p 19 s
    if outBusy s1 die slot p || (txDir (linkOf s1 die p) die p).replays.isEmpty then s1
    else sendReplay die p slot (modNI die (fun n => { n with used := (p, slot) :: n.used }) s1)

/-- An output in AXUST with nothing else to send in a slot sends an idle frame (R277, R281). -/
def slotIdle (die slot p : Nat) (s : State) : State :=
  if (linkOf s die p).state ≠ .axust || outBusy s die slot p then s
  else frameOut die p 5 0 false 0 (List.replicate 256 0) (modNI die (fun n => { n with used := (p, slot) :: n.used }) s)

/-- FREE_FLIT_ROUTE: in a slot of its present stitch each output of a die sends what R281 puts first: nothing more where a set flit holds
the slot, a replay, a transit free flit, one of the die's own, or an idle frame. -/
def freeRoute (serve : MemServe) (die slot : Nat) (s : State) : State :=
  let s1 := (List.range 6).foldl (fun s p => slotReplay die slot p s) s
  let taken := (List.range 6).filter (outBusy s1 die slot)
  let heads := inputHeads die (niOf s1 die).inq
  let st := injectOne serve die (heads.foldl (fun st x => routeOne serve die x st) (s1, taken))
  let s2 := modNI die (fun n => { n with used := (st.2.filter (!taken.contains ·)).map (·, slot) ++ n.used }) st.1
  (List.range 6).foldl (fun s p => slotIdle die slot p s) s2

/-- RETRANSMIT_TIMEOUT: an unacknowledged flit is sent again; after 6 retransmissions the transfer fails
with FTX, which aborts the round as a hardware fault (R254). -/
def retransmit (die : Nat) (msg : BitVec 12) (off : BitVec 17) (s : State) : State :=
  match (niOf s die).sent.find? fun x => x.flit.hdr.msg == msg && x.flit.hdr.off == off with
  | none => s
  | some x =>
    if x.tries < 6 then
      modNI die (fun n => { n with
        sent := n.sent.map fun y => if y.flit.hdr.msg = msg ∧ y.flit.hdr.off = off then { y with tries := y.tries + 1 } else y
        inj := if n.drained then n.inj else n.inj ++ [x.flit]
        cnt := cntInc n.cnt 1 }) s
    else
      let s1 := modNI die (fun n => { n with
        sent := n.sent.filter fun y => !(y.flit.hdr.msg == msg), cnt := cntInc n.cnt 2 }) s
      abortRound 5 (addFault die { code := 0x20, detail := x.flit.hdr.drank } s1)

/-! ## The control fabric (R261 to R263) -/

/-- One step of CRC-32 (IEEE 802.3, reflected) over a bit. -/
def crcStep (c : BitVec 32) : BitVec 32 :=
  if c.getLsbD 0 then (c >>> 1) ^^^ 0xEDB88320 else c >>> 1

/-- CRC-32 (IEEE 802.3 polynomial) of a byte list. -/
def crc32 (l : List Byte) : BitVec 32 :=
  l.foldl (fun c b =>
    let x := c ^^^ b.setWidth 32
    crcStep (crcStep (crcStep (crcStep (crcStep (crcStep (crcStep (crcStep x)))))))) 0xFFFFFFFF ^^^ 0xFFFFFFFF

/-- Whether a control packet's CRC holds (R262). -/
def ctlCrcOk (b : List Byte) : Bool :=
  b.length == 64 && crc32 (b.take 60) == BitVec.ofNat 32 (leAt b 60 4)

/-- Whether a control packet is addressed to a die (R261). -/
def ctlForMe (s : State) (d dest : Nat) : Bool :=
  dest == d || (dest == 0xFFFF && dieLive s d) || (dest == 0xFFFE && decide (d < 144) && dieLive s d) ||
    (dest == 0xFFFD && decide (144 ≤ d) && decide (d < 216) && dieLive s d)

/-- Place of a counter of the control link at a port (R269): 0 CRC failures, 1 resends, 2 link-down events. -/
def ctlCnt (port k : Nat) : Nat := 32 + 4 * port + k

/-- The port by which a control packet goes on from a die towards another, over links that are not marked down: along the larger remaining
distance (log entry 143). -/
def ctlToward (s : State) (die dest : Nat) : Option Nat :=
  minBy (outPref die dest) ((List.range 6).filter fun p => !(niOf s die).ctlDown.contains p &&
    (match peer die p with | some e => decide (dist1 e.1 dest < dist1 die dest) | none => false))

/-- The ports by which a broadcast goes on from a die: to the dies whose own way to the active anchor leads through it (R263). -/
def ctlChildren (s : State) (die : Nat) : List Nat :=
  (List.range 6).filter fun p => match peer die p with
    | some e => dieLive s e.1 && ctlToward s e.1 (anchorDie s) == some e.2
    | none => false

/-- A die sends a control packet on a port and waits for its acknowledgement (R263). -/
def ctlSend (die : Nat) (b : List Byte) (s : State) (p : Nat) : State :=
  let q : W16 := BitVec.ofNat 16 (leAt b 6 2)
  modNI die (fun n => { n with
    ctlSent := { port := p, seq := q, bytes := b } :: (n.ctlSent.filter fun x => !(x.port == p && x.seq == q)) }) s

/-- A packet of a type, from a die to another, under the die's next sequence number (R262). -/
def ctlBytes (s : State) (ty die dest : Nat) (payload : List Byte) : List Byte :=
  let h := natLe 1 ty ++ natLe 1 2 ++ natLe 2 dest ++ natLe 2 die ++ natLe 2 (niOf s die).ctlSeq.toNat ++ fitBytes 52 payload
  h ++ natLe 4 (crc32 h).toNat

/-- A die answers a control packet (R259, R262). -/
def packetReply (ty die dest : Nat) (payload : List Byte) (s : State) : State :=
  match ctlToward s die dest with
  | none => s
  | some p => ctlSend die (ctlBytes s ty die dest payload) (modNI die (fun n => { n with ctlSeq := n.ctlSeq + 1 }) s) p

/-- What a packet does at a die it is addressed to.  Type 0x07 drains the interface, which reports itself empty (R259); a table write, type
0x01, is taken by a drained interface, whose injection then resumes, and is otherwise refused, counted and reported, and Herus repeats the drain
(R260); a read, type 0x02, is answered.  What a read returns is a free value. -/
def ctlAct (die : Nat) (b : List Byte) (s : State) : State :=
  match leAt b 0 1 with
  | 0x01 =>
    if (niOf s die).drained then
      modNI die (fun n => { n with drained := false, inj := (n.inj.filter fun f => f.hdr.kind == 1) ++ n.sent.map (·.flit) }) s
    else drainFabric (packetReply 9 die (leAt b 4 2) [] (niCount die 8 s))
  | 0x02 => packetReply 3 die (leAt b 4 2) ((List.range 52).map fun i => Config.freeByte (s.free + i)) { s with free := s.free + 52 }
  | 0x07 => packetReply 8 die (leAt b 4 2) [] (modNI die (fun n => { n with drained := true, inq := [], cnt := cntInc n.cnt 7 }) s)
  | _ => s

/-- CONTROL_PACKET: a packet is checked and acknowledged at its link; one whose CRC fails is counted and waits to be resent (R263).  It acts
at the dies it is addressed to, and goes on towards the others. -/
def controlPacket (die port : Nat) (b : List Byte) (s : State) : State :=
  if !ctlCrcOk b then niCount die (ctlCnt port 0) s
  else
    let dest := leAt b 2 2
    let s1 := match peer die port with
      | some e => modNI e.1 (fun n => { n with ctlSent := n.ctlSent.filter fun x => !(x.port == e.2 && x.seq.toNat == leAt b 6 2) }) s
      | none => s
    let s2 := if ctlForMe s die dest then ctlAct die b s1 else s1
    if 0xFFFD ≤ dest then ((ctlChildren s die).filter (· != port)).foldl (ctlSend die b) s2
    else if dest = die then s2
    else match ctlToward s die dest with
      | some p => ctlSend die b s2 p
      | none => s2

/-- CONTROL_RESEND: an unacknowledged packet is resent, up to 8 times, and then its link is marked down
(R263). -/
def controlResend (die port : Nat) (seq : W16) (s : State) : State :=
  let old := (niOf s die).ctlSent.find? fun x => x.port == port && x.seq == seq
  let r := (old.map (·.resends)).getD 0
  if r < 8 then
    modNI die (fun n => { n with
      ctlSent := { port := port, seq := seq, bytes := (old.map (·.bytes)).getD [], resends := r + 1 } ::
        n.ctlSent.filter fun x => !(x.port == port && x.seq == seq)
      cnt := cntInc n.cnt (ctlCnt port 1) }) s
  else
    modNI die (fun n => { n with
      ctlSent := n.ctlSent.filter fun x => !(x.port == port && x.seq == seq)
      ctlDown := setIns port n.ctlDown, cnt := cntInc n.cnt (ctlCnt port 2) }) s

/-- SYNC_PATH_SWITCH: a sync node that sees no carrier switches to its other trunk; the switch and the
carrier loss are counted (R267, R269). -/
def syncPathSwitch (die : Nat) (s : State) : State :=
  modNI die (fun n => { n with southTrunk := !n.southTrunk, cnt := cntInc (cntInc n.cnt 13) 14 })
    (modDie die (fun x => { x with depth := x.depthAlt, depthAlt := x.depth }) s)

end Sys2Proof.Machine
end

