-- ==== Sys2Proof/Machine/Meaning.lean ====
section
/-! DEFINITION. The form of a meaning, and the issue of a micro-op (R119 to R122). -/

namespace Sys2Proof.Machine

open Sys2Proof

/-- What a meaning answers. -/
abbrev Ans := Host.Outcome State Fault Refusal

/-- A meaning: the next state of a well-formed command; another is refused. -/
def done (ok : Bool) (s : State) : Ans := if ok then .next s else .refused .illFormed

/-- The record of a pattern fault that a micro-op reports: its site, stream core and index (R228). -/
def uopFault (s : State) (x : Ctx) (uop : Nat) (p : Pf) : FaultRec :=
  { code := p.code, detail := p.detail, addr := p.addr, entry := p.entry, link := p.link
    slot := p.slot.getD 0, uop := BitVec.ofNat 13 uop, sect := BitVec.ofNat 12 s.pat.sect
    sc := BitVec.ofNat 3 x.sc, clu := BitVec.ofNat 2 x.clu }

/-- The effect of a micro-op on the panel, with the pattern faults it raises. -/
abbrev UopAct := Ctx → State → State × List Pf

/-- The reference count of a die in a budgeted cycle of its present stitch: cycles last 2,000 slot times over the set point in MHz (R158,
R166; log entry 132). -/
def cycleRef (s : State) (d cyc : Nat) : Nat := (dieOf s d).ref.toNat - (dieOf s d).phase + cyc * 2000 / setPoint s d

/-- Where and when a micro-op issues in the present state. -/
def issueCtx (i : Issue) (s : State) : Ctx :=
  let d := physOf s.grid.skip i.rank
  let c := cluOf s d i.clu
  { rank := i.rank, die := d, clu := i.clu, sc := i.sc, uop := (cluCore c i.sc).uop, now := c.base + i.cyc, ref := cycleRef s d i.cyc, sp := setPoint s d
    limit := c.base + budget s
    setSec := inSetSection s, hold := tickHold s }

/-- The issuing cluster with every effect up to the cycle of issue brought about. -/
def issueClu (i : Issue) (s : State) : Cluster :=
  settle (issueCtx i s).now (cluOf s (issueCtx i s).die i.clu)

/-- Whether a place issues in its cycle: a section executes, the budget runs in that cycle, and the core's next micro-op is due in it
(R34, R42, R120, R122, R155). -/
def issues (i : Issue) (s : State) : Bool :=
  s.pat.running.isSome && s.pat.inSect && !s.lode.frozen && decide (i.cyc < budget s) &&
    canIssue (budget s) (issueClu i s) i.sc (issueCtx i s).now

/-- The descriptor that the store of the issuing core holds at the core's place (R117, R120). -/
def placedDesc (i : Issue) (s : State) : BitVec 128 :=
  let k := cluCore (issueClu i s) i.sc
  (storeAt k k.uop).extractLsb' 16 128

/-- Whether the descriptor at the core's place is that of a micro-op: the panel runs the micro-programs of the accepted image and nothing
else (R1, R120). -/
def stored (i : Issue) (u : Uop) (s : State) : Bool := placedDesc i s == encodeUop u

/-- Issue a micro-op: the core moves on, the micro-op acts, and its faults are recorded.  A micro-op that is not the one its core issues in
that cycle changes nothing (log entry 39). -/
def issueUop (i : Issue) (u : Uop) (act : UopAct) (s : State) : State :=
  if issues i s && stored i u s then
    let x := issueCtx i s
    let c := issueClu i s
    let k := cluCore c i.sc
    let r := act x (modClu x.die i.clu (fun _ => cluSetCore c i.sc (coreIssued k x.now)) s)
    r.2.foldl (fun t p => addPatFault x.die (uopFault s x k.uop p) t) r.1
  else s

/-- The action of a micro-op that touches its own cluster only. -/
def onCluster (op : Ctx → Cluster → Cluster × List Pf) : UopAct := fun x s =>
  let r := op x (cluOf s x.die x.clu)
  (modClu x.die x.clu (fun _ => r.1) s, r.2)

end Sys2Proof.Machine
end

