-- ==== Sys2Proof/Machine/PanelMemory.lean ====
section
/-! DEFINITION. Panel memory (chapter 09): rows and parity, reads, writes, poison, loss of a stack, scrub,
refresh and rebuild.  Each unit's contents stand in `PanelMem.data`, stored or implied by the row's
parity, so P and Q are functions of it (log entry 12). -/

namespace Sys2Proof.Machine

open Sys2Proof

/-! ## GF(2^8) and parity (R304) -/

/-- Multiplication by g = 2 in GF(2^8) with the polynomial 0x11D. -/
def gfDouble (a : Byte) : Byte := if a.msb then (a <<< 1) ^^^ 0x1D else a <<< 1

/-- Multiplication by g^j. -/
def gfScale : Nat → Byte → Byte
  | 0, a => a
  | j + 1, a => gfDouble (gfScale j a)

/-- Product in GF(2^8). -/
def gfMul (a b : Byte) : Byte :=
  (List.range 8).foldl (fun r i => if b.getLsbD i then r ^^^ gfScale i a else r) 0

/-- A power in GF(2^8). -/
def gfPow (a : Byte) : Nat → Byte
  | 0 => 1
  | n + 1 => gfMul (gfPow a n) a

/-- The inverse of an element that is not zero. -/
def gfInv (a : Byte) : Byte := gfPow a 254

/-- First PADDR of a row of a stripe (R302). -/
def rowBase (m r : Nat) : Nat := m * 0xA0000000 + 10 * r

/-- Byte `i` of data slot `j` of a row. -/
def rowByte (mem : Mem) (m r j i : Nat) : Byte := memGet mem ((rowBase m r + j) * 256 + i)

/-- Byte `i` of the P unit of a row. -/
def parityP (mem : Mem) (m r i : Nat) : Byte :=
  (List.range 10).foldl (fun a j => a ^^^ rowByte mem m r j i) 0

/-- Byte `i` of the Q unit of a row. -/
def parityQ (mem : Mem) (m r i : Nat) : Byte :=
  (List.range 10).foldl (fun a j => a ^^^ gfScale j (rowByte mem m r j i)) 0

/-- A lost data byte recovered from P and the other nine. -/
def recoverP (mem : Mem) (m r x i : Nat) : Byte :=
  ((List.range 10).filter (· != x)).foldl (fun a j => a ^^^ rowByte mem m r j i) (parityP mem m r i)

/-- Two lost data bytes recovered from P and Q (x < y). -/
def recoverPQ (mem : Mem) (m r x y i : Nat) : Byte × Byte :=
  let rest := (List.range 10).filter fun j => j != x && j != y
  let p' := rest.foldl (fun a j => a ^^^ rowByte mem m r j i) (parityP mem m r i)
  let q' := rest.foldl (fun a j => a ^^^ gfScale j (rowByte mem m r j i)) (parityQ mem m r i)
  let dx := gfMul (gfInv (gfScale x 1 ^^^ gfScale y 1)) (gfScale y p' ^^^ q')
  (dx, p' ^^^ dx)

/-! ## Units -/

/-- The bytes of a unit. -/
def unitBytes (s : State) (paddr : Nat) : List Byte := memRead s.pmem.data (paddr * 256) 256

/-- Lost stacks of a stripe. -/
def lostIn (s : State) (m : Nat) : Nat := ((List.range 12).filter fun c => stackLost s c m).length

/-- Count in a stack (R329). -/
def stackCount (c m i : Nat) (n : Nat := 1) (s : State) : State :=
  modStack c m (fun x => { x with cnt := cntInc x.cnt i n }) s

/-- Poison sectors of a unit: they hold zeros (R313). -/
def poisonUnit (paddr : Nat) (mask : BitVec 4) (s : State) : State :=
  let cells := ((List.range 4).filter fun k => mask.getLsbD k).flatMap fun k =>
    (List.range 64).map fun i => (paddr * 256 + 64 * k + i, (0 : Byte))
  { s with pmem := { s.pmem with
      data := memPuts s.pmem.data cells
      poison := tabPut 0 s.pmem.poison paddr (poisonOf s paddr ||| mask) } }

/-- Whether the data of a unit is beyond recovery: its stack is lost in a failed stripe (R320). -/
def unitGone (s : State) (paddr : Nat) : Bool :=
  let u := unitPlace paddr
  s.pmem.failed.contains u.1 && stackLost s u.2.1 u.1

/-- The bytes that a read of a unit returns: free values where its data is beyond recovery. -/
def readBytes (s : State) (paddr : Nat) : List Byte :=
  if unitGone s paddr then (List.range 256).map fun i => Config.lostByte s.free (paddr * 256 + i) else unitBytes s paddr

/-- A read of a unit is counted at the stack that holds it, or at its row's proxy (R307, R317, R329); data beyond recovery uses up a
free value. -/
def countRead (paddr : Nat) (s : State) : State :=
  let u := unitPlace paddr
  let sc := serveCourse s u.1 u.2.1 u.2.2 false
  let s1 := stackCount sc u.1 (if sc = u.2.1 then 0 else 8) 1 s
  if unitGone s paddr then { s1 with free := s1.free + 1 } else s1

/-- The die from which a read of a unit is served. -/
def readDie (s : State) (paddr : Nat) : Nat :=
  let u := unitPlace paddr
  stackDie (serveCourse s u.1 u.2.1 u.2.2 false) u.1

/-- The read-data flit that answers a request (R307). -/
def replyFlit (s : State) (paddr : Nat) (req : RouteHdr) : FreeFlit :=
  { hdr := { req with
      srank := BitVec.ofNat 16 (0xC0 + (unitPlace paddr).1), sclass := 1
      drank := req.srank, dclass := req.sclass, hops := 0, cm := false, ece := false, kind := 3 },
    chan := 1, payload := readBytes s paddr }

/-- A stack's interface sends read data, and keeps it until it is acknowledged (R254); a repeated request sends it again. -/
def sendReply (f : FreeFlit) (n : NI) : NI :=
  { n with inj := n.inj ++ [f], sent := n.sent.filter (fun x => x.flit.hdr != f.hdr) ++ [{ flit := f }] }

/-- A read of a unit finds poisoned sectors (R313): MPO at the die that serves it, and what follows. -/
def notePoison (paddr d : Nat) (s : State) : State :=
  let po := poisonOf s paddr
  if po = 0 then s
  else mpoHandle paddr po (addFault d { code := 0x30, detail := po.setWidth 16, addr := BitVec.ofNat 32 (unitPlace paddr).2.2 } s)

/-- Serve a read of a unit at the stack that holds it, or at its row's proxy (R307, R317).  A poisoned
sector raises MPO and aborts the round (R313). -/
def serveRead (paddr : Nat) (req : RouteHdr) (s : State) : State :=
  let d := readDie s paddr
  notePoison paddr d (modNI d (sendReply (replyFlit s paddr req)) (countRead paddr s))

/-- Row of the table of R318 for a write in a degraded stripe. -/
def degradedRow (s : State) (m c r : Nat) : Nat :=
  let lostD := stackLost s c m
  let lp := (stackLost s (r % 12) m).toNat + (stackLost s ((r + 1) % 12) m).toNat
  if lostD then (if lp = 0 then 2 else 3) else lp.min 2 |> fun n => if n = 0 then 0 else if n = 1 then 1 else 4

/-- Carry out a whole-unit or sector-masked write (R310, R311, R314, R318): only the sectors of the mask
are written, and their poison is cleared. -/
def serveWrite (paddr : Nat) (mask : BitVec 4) (bytes : List Byte) (s : State) : State :=
  let u := unitPlace paddr
  let b := fitBytes 256 bytes
  let po := poisonOf s paddr
  let cells := ((List.range 4).filter fun k => mask.getLsbD k).flatMap fun k =>
    cellsAt (paddr * 256 + 64 * k) ((b.drop (64 * k)).take 64)
  let cleared := ((List.range 4).filter fun k => mask.getLsbD k && po.getLsbD k).length
  let sc := serveCourse s u.1 u.2.1 u.2.2 true
  let s1 := stackCount sc u.1 7 cleared (stackCount sc u.1 (if mask = 0xF then 1 else 2) 1 s)
  let s2 := if lostIn s u.1 = 0 then s1 else stackCount sc u.1 (9 + degradedRow s u.1 u.2.1 u.2.2) 1 s1
  { s2 with pmem := { s2.pmem with
      data := memPuts s2.pmem.data cells
      poison := tabPut 0 s2.pmem.poison paddr (po &&& ~~~mask) } }

/-- What a stack does with a flit that is ejected at it: a read request or a whole-unit write waits in the base die's queue of up to 1,024
operations; at a full queue it is discarded and counted (R309). -/
def stackServe : MemServe := fun d f s =>
  let c := dieCourse d
  let m := dieCol d
  if 1024 ≤ (stackOf s c m).queue.length then stackCount c m 3 1 s
  else modStack c m (fun x => { x with queue := x.queue ++ [f] }) s

/-- A base die carries out an operation of its queue: a read, or a write, which it then acknowledges (R311). -/
def serveOp (d : Nat) (f : FreeFlit) (s : State) : State :=
  let a := f.hdr.addr.toNat
  if f.hdr.kind = 2 then serveRead a f.hdr s
  else ackAt32 d f.hdr (serveWrite a 0xF f.payload (modNI d (fun n => (rxNote (refNow s).toNat true f.hdr n).1) s))

/-- The first operation on a unit in a base die's queue that `p` picks, taken from the queue after the earlier ones on the unit have been carried
out in order (R308); all of them are where none is picked. -/
def takeOp (c m a : Nat) (p : FreeFlit → Bool) (s : State) : Option FreeFlit × State :=
  let mine := (stackOf s c m).queue.filter fun f => f.hdr.addr.toNat == a
  let first := mine.takeWhile fun f => !p f
  let hit := mine.find? p
  let s1 := modStack c m (fun x => { x with queue := (first ++ hit.toList).foldl List.erase x.queue }) s
  (hit, first.foldl (fun s f => serveOp (stackDie c m) f s) s1)

/-- A write that its base die carries out after the operations on the unit that came before (R308). -/
def writeAfter (a : Nat) (mask : BitVec 4) (l : List Byte) (s : State) : State :=
  let u := unitPlace a
  serveWrite a mask l (takeOp (serveCourse s u.1 u.2.1 u.2.2 true) u.1 a (fun _ => false) s).2

/-- Units of a row that are erased at a sector position: those on lost stacks, and those whose sector cannot be corrected (R312). -/
def erasedAt (s : State) (m r k : Nat) (l : List (Nat × BitVec 4)) : Nat :=
  ((List.range 12).filter fun i => stackLost s ((r + i) % 12) m || l.any fun x => x.1 == i && x.2.getLsbD k).length

/-- The sectors among `mask` that a row cannot recover: more than two of its units are erased at their position (R312). -/
def beyondRecovery (s : State) (m r : Nat) (mask : BitVec 4) (l : List (Nat × BitVec 4)) : BitVec 4 :=
  BitVec.ofNat 4 (((List.range 4).filter fun k => mask.getLsbD k && decide (2 < erasedAt s m r k l)).map (2 ^ ·)).sum

/-- The sectors of a mask. -/
def maskCount (mask : BitVec 4) : Nat := ((List.range 4).filter fun k => mask.getLsbD k).length

/-- What the sector checks do on a DRAM read of a unit (R312): sectors are corrected, recovered from the row and rewritten, or poisoned, each
counted at the stack that serves the read; a unit on a lost stack is recovered whole. -/
def checkRead (a : Nat) (found : MemCheck) (s : State) : State :=
  let u := unitPlace a
  let lost := stackLost s u.2.1 u.1
  let sc := serveCourse s u.1 u.2.1 u.2.2 false
  let own := if lost then 0xF else found.erased
  let l := ((u.2.1 + 12 - u.2.2 % 12) % 12, own) :: found.others
  let bad := if unitGone s a then 0 else beyondRecovery s u.1 u.2.2 own l
  let s1 := stackCount sc u.1 6 (maskCount bad) (stackCount sc u.1 5 (if lost then 0 else maskCount (own &&& ~~~bad))
    (stackCount sc u.1 4 found.corrected s))
  if bad = 0 then s1 else poisonUnit a bad s1

/-- MEM_READ: a PADDR that names no unit is an addressing error at its source (R303).  The earlier operations on the unit in the base die's queue
come first (R308). -/
def memReadOp (paddr : BitVec 34) (rank : W16) (cls : BitVec 4) (tag : RouteHdr) (found : MemCheck) (s : State) : State :=
  let a := paddr.toNat
  if !unitExists a then
    match endpointDie s rank.toNat cls.toNat 0 2 with
    | some d => niCount d 3 s
    | none => s
  else
    let u := unitPlace a
    let req : RouteHdr := { tag with addr := paddr, srank := rank, sclass := cls, kind := 2 }
    let r := takeOp (serveCourse s u.1 u.2.1 u.2.2 false) u.1 a
      (fun f => f.hdr.kind == 2 && f.hdr.srank == rank && f.hdr.sclass == cls && f.hdr.msg == tag.msg && f.hdr.off == tag.off) s
    serveRead a req (checkRead a found r.2)

/-- MEM_WRITE: the earlier operations on the unit in the base die's queue come first (R308); a whole-unit write that waits there is acknowledged
once it is carried out. -/
def memWriteOp (paddr : BitVec 34) (mask : BitVec 4) (data : List Byte) (s : State) : State :=
  let a := paddr.toNat
  if unitExists a then
    let u := unitPlace a
    let c := serveCourse s u.1 u.2.1 u.2.2 true
    let r := takeOp c u.1 a (fun f => f.hdr.kind == 0 && mask == 0xF && f.payload == data) s
    match r.1 with
    | some f => serveOp (stackDie c u.1) f r.2
    | none => serveWrite a mask data r.2
  else s

/-! ## Loss of a stack (R315 to R320) -/

/-- DETAIL of MSO (R327). -/
def stackCauseCode : StackCause → Nat
  | .channel => 1
  | .errors => 2
  | .temperature => 3
  | .vdramVpp => 4
  | .baseDie => 5

/-- Settle the torn rows of a stripe (R319): a unit of the row on a lost stack is poisoned, and the row's
parity counts it as zero; MTR once, with their number. -/
def settleTorn (m : Nat) (rows : List Nat) (s : State) : State :=
  if rows.isEmpty then s
  else
    let s1 := rows.foldl (fun s r =>
      (List.range 10).foldl (fun s j =>
        let c := (r + 2 + j) % 12
        if stackLost s c m then stackCount c m 6 4 (poisonUnit (rowBase m r + j) 0xF s) else s) s) s
    let r0 := rows.headD 0
    let px := serveCourse s m (r0 % 12) r0 true
    stackCount px m 14 rows.length
      (addFault (stackDie px m) { code := 0x32, detail := BitVec.ofNat 16 (min rows.length 0xFFFF) } s1)

/-- Herus rewrites the stack map of the settings area (R458). -/
def saveStackMap (s : State) : State :=
  { s with flash := { s.flash with lostStacks := (List.range 72).filter fun i => stackLost s (i / 6) (i % 6) } }

/-- Take a stack out of service: its state, the record MSO, and MSF when it is the third of its stripe
(R315, R320). -/
def markLost (c m : Nat) (cause : StackCause) (s : State) : State :=
  let d := stackDie c m
  let s1 := saveStackMap (modStack c m (fun x => { x with
    state := if cause = .baseDie then .dead else .out, outwhy := stackCauseCode cause
    queue := if cause = .baseDie then [] else x.queue }) s)
  let s2 := addFault d { code := 0x31, detail := BitVec.ofNat 16 (stackCauseCode cause) } s1
  if 3 ≤ lostIn s1 m ∧ ¬ s1.pmem.failed.contains m then
    addFault d { code := 0x33, detail := BitVec.ofNat 16 (lostIn s1 m) }
      { s2 with pmem := { s2.pmem with failed := setIns m s2.pmem.failed } }
  else s2

/-- STACK_OUT: a loss while a pattern runs aborts the round; the fabric is drained, torn rows are settled,
the stack map is rewritten and the round is replayed (R316).  The third loss fails the stripe and takes
the panel out of service (R320), and so does a base die that falls silent in a live course (R241). -/
def stackOut (c m : Nat) (cause : StackCause) (env : RepairEnv) (s : State) : State :=
  if stackLost s c m then s
  else
    let s1 := markLost c m cause s
    let torn := (env.tornRows.filter fun x => x.1 == m).map Prod.snd
    let s2 := settleTorn m torn (drainFabric s1)
    if s2.pmem.failed.contains m || (cause == .baseDie && !courseLost s c) then goOutOfService (stackDie c m) s2
    else if s.pat.running.isSome then abortRound 3 s2
    else s2

/-! ## Scrub, refresh, rebuild (R321 to R324) -/

/-- Rows of a stripe. -/
def numRows : Nat := 2 ^ 28

/-- The row that a stripe's scrub visits next: in ascending order, after the last row those that were deferred, then a new pass (R322). -/
def scrubNext (p : PanelMem) (m : Nat) : Nat :=
  let n := tabGet 0 p.scrubRow m
  if n < numRows then n else (tabGet [] p.deferred m).headD 0

/-- The scrub moves on past the row it visits; a row that is not checked is deferred. -/
def scrubAdvance (m : Nat) (deferred : Bool) (p : PanelMem) : PanelMem :=
  let n := tabGet 0 p.scrubRow m
  let r := scrubNext p m
  let l := tabGet [] p.deferred m
  let l1 := (if n < numRows then l else l.tail) ++ (if deferred then [r] else [])
  { p with
    scrubRow := tabPut 0 p.scrubRow m (if n < numRows then n + 1 else if l.isEmpty then 1 else n)
    scrubLast := tabPut 0 p.scrubLast m r, deferred := tabPut [] p.deferred m l1 }

/-- Poison the sectors of a row's data units that cannot be recovered, and count them (R312, R322). -/
def scrubPoison (px m r : Nat) (l : List (Nat × BitVec 4)) (s : State) : State :=
  l.foldl (fun t x =>
    let bad := beyondRecovery s m r x.2 l
    let t1 := stackCount px m 6 (maskCount bad) (stackCount px m 5 (maskCount (x.2 &&& ~~~bad)) t)
    if bad = 0 ∨ x.1 < 2 ∨ 12 ≤ x.1 then t1 else poisonUnit (rowBase m r + (x.1 - 2)) bad t1) s

/-- SCRUB_VISIT: the patrol scrub visits the next row of a stripe (R322), unless a write reaches the row meanwhile, which defers it.  Sectors are
corrected, recovered or poisoned, one bad data unit or parity unit is rewritten, and each is counted (R329); parity is a function of
the data here (log entry 12), so a rewritten unit holds what it held. -/
def scrubVisit (m : Nat) (found : ScrubFind) (s : State) : State :=
  if s.pmem.period = 0 then s
  else
    let r := scrubNext s.pmem m
    let px := serveCourse s m (r % 12) r true
    let s1 := { s with pmem := scrubAdvance m found.written s.pmem }
    if found.written then stackCount px m 16 1 s1
    else
      scrubPoison px m r found.erased
        (stackCount px m 18 found.parity (stackCount px m 17 found.located.toNat (stackCount px m 4 found.corrected (stackCount px m 15 1 s1))))

/-- Refresh code of a stack temperature: halved access lasts until the stack falls to 93 °C (R324). -/
def refreshCode (old t : Nat) : Nat :=
  if t ≤ 85 then 0
  else if 95 < t then 2
  else if old = 2 ∧ 93 < t then 2
  else 1

/-- REFRESH_RATE_CHANGE: at 105 °C or more the stack becomes OUT (R315). -/
def refreshChange (c m t : Nat) (s : State) : State :=
  let s1 := modStack c m (fun x => { x with
    temp := t, refresh := refreshCode x.refresh t
    cnt := if (tabGet 0 x.cnt 21).toNat < t then tabPut 0 x.cnt 21 (BitVec.ofNat 32 t) else x.cnt }) s
  if 105 ≤ t then stackOut c m .temperature {} s1 else s1

/-- A stack counts a millisecond at the double refresh rate, and one with its access halved (R324, R329). -/
def refreshMs (x : Stack) : Stack :=
  let c := if x.refresh = 0 then x.cnt else cntInc x.cnt 19 1
  { x with cnt := if x.refresh = 2 then cntInc c 20 1 else c }

/-- Every stack counts a millisecond. -/
def refreshTick (s : State) : State :=
  (List.range 72).foldl (fun s i => if (stackOf s (i / 6) (i % 6)).refresh = 0 then s else modStack (i / 6) (i % 6) refreshMs s) s

/-- The first stack that is REBUILDING. -/
def nextRebuild (s : State) : Option (Nat × Nat) :=
  ((List.range 72).find? fun i => (stackOf s (i / 6) (i % 6)).state == .rebuilding).map fun i => (i / 6, i % 6)

/-- STACK_REBUILD_DONE: the stack becomes IN_SERVICE in a drained fabric (R321), and the rebuild of the next one, if
any, begins. -/
def rebuildDone (c m : Nat) (s : State) : State :=
  if (stackOf s c m).state = .rebuilding then
    let s1 := saveStackMap (drainFabric (modStack c m (fun x => { x with state := .inService }) s))
    { s1 with pmem := { s1.pmem with rebuild := nextRebuild s1, rebuildRow := 0 } }
  else s

end Sys2Proof.Machine
end

