-- ==== Sys2Proof/Machine/Transfer.lean ====
section
/-! DEFINITION. Transfers and knots (R149 to R155): DMR, DMW, SSN, SRV, FSN, FRV, KNOT, the end of a
transfer, and a die's arrival at a knot. -/

namespace Sys2Proof.Machine

open Sys2Proof

/-! ## Addresses -/

/-- The panel-memory address of a transfer: PADDR + I[PIX], modulo 2^34. -/
def dmPaddr (k : Core) (f : DmF) : Nat := (f.paddr.toNat + (coreIdx k f.pix.toNat).toNat) % 2 ^ 34

/-- The first granule of a DMR or DMW. -/
def dmCaddr (k : Core) (f : DmF) : Nat := ixAdd f.caddr.toNat (coreIdx k f.cix.toNat)

/-- The first granule of an SSN, SRV, FSN or FRV. -/
def fmCaddr (k : Core) (f : FmF) : Nat := ixAdd f.caddr.toNat (coreIdx k f.cix.toNat)

/-- Flits of a DMR or DMW. -/
def dmFlits (f : DmF) : Nat := f.lenm1.toNat + 1

/-- Flits of an SSN, SRV, FSN or FRV. -/
def fmFlits (f : FmF) : Nat := f.lenm1.toNat + 1

/-- Whether the flits from a granule on lie in one cluster window of a core (R133). -/
def flitsOk (k : Core) (write : Bool) (ga n : Nat) : Bool :=
  decide (ga + 4 * n ≤ granules) && inWindow k.cwin write ga (4 * n)

/-- The core that issues. -/
def ctxCore (x : Ctx) (s : State) : Core := cluCore (cluOf s x.die x.clu) x.sc

/-- Change the core that issues. -/
def modCore (d k n : Nat) (g : Core → Core) (s : State) : State :=
  modClu d k (fun c => cluSetCore c n (g (cluCore c n))) s

/-! ## Posting transfers (R150, R153) -/

/-- Register an outstanding transfer under a new message number of the die, with the stitch in which it was posted. -/
def postXfer (x : Ctx) (t : Xfer) (s : State) : State :=
  let m := (niOf s x.die).nextMsg
  modCore x.die x.clu x.sc (fun k => { k with xfers := k.xfers ++ [{ t with msg := m, posted := (dieOf s x.die).count }] })
    (modNI x.die (fun n => { n with nextMsg := m + 1 }) s)

/-- DMR and DMW: the ranges are checked against the windows (R133) and the units of panel memory
(R303), and the transfer becomes outstanding. -/
def actDm (write : Bool) (f : DmF) : UopAct := fun x s =>
  let k := ctxCore x s
  let ga := dmCaddr k f
  let pa := dmPaddr k f
  let n := dmFlits f
  if !flitsOk k (!write) ga n then (s, [pfAdr 0 ga])
  else if !(inWindow k.pwin write pa n && unitExists (pa + n - 1)) then (s, [pfAdr 1 pa])
  else
    (postXfer x {
      kind := if write then .dmw else .dmr, paddr := pa, caddr := ga, flits := n, ctr := f.ctr.toNat
      carry := f.carry && !write } s, [])

/-- Whether a job rank names an endpoint of its class (R238). -/
def namesEndpoint (s : State) (drank : W16) (dclass : BitVec 4) : Bool :=
  (endpointDie s drank.toNat dclass.toNat 0 0).isSome

/-- ADR for a message whose destination names no endpoint: DETAIL is a free value, ADDR the field that names none (R238, R229). -/
def pfEndpoint (s : State) (f : FmF) : Pf :=
  { code := 0x05, detail := Config.endpointDetail s.free
    addr := if 4 ≤ f.dclass.toNat then f.dclass.setWidth 32 else f.drank.setWidth 32 }

/-- FSN: the source range is checked and the message becomes outstanding; flits for no endpoint are discarded and counted as
addressing errors (R238). -/
def actFsn (f : FmF) : UopAct := fun x s =>
  let k := ctxCore x s
  let ga := fmCaddr k f
  if !flitsOk k false ga (fmFlits f) then (s, [pfAdr 0 ga])
  else if !namesEndpoint s f.drank f.dclass then
    (modNI x.die (fun n => { n with cnt := cntInc n.cnt 3 (fmFlits f) }) { s with free := s.free + 1 }, [pfEndpoint s f])
  else
    (postXfer x {
      kind := .fsn, caddr := ga, flits := fmFlits f, ctr := f.ctr.toNat, tag := f.tag
      drank := f.drank, dclass := f.dclass } s, [])

/-- The held flits of the first message that waits under a tag. -/
def heldFor (n : NI) (tag : Byte) : List FreeFlit :=
  match n.held.find? fun f => f.hdr.tag == tag with
  | none => []
  | some g => n.held.filter fun f => f.hdr.tag == tag && f.hdr.msg == g.hdr.msg && f.hdr.srank == g.hdr.srank &&
      f.hdr.sclass == g.hdr.sclass

/-- FRV: the buffer is posted, and flits that the interface held for its tag are written. -/
def actFrv (f : FmF) : UopAct := fun x s =>
  let k := ctxCore x s
  let ga := fmCaddr k f
  if !flitsOk k true ga (fmFlits f) then (s, [pfAdr 0 ga])
  else
    let s1 := postXfer x { kind := .frv, caddr := ga, flits := fmFlits f, ctr := f.ctr.toNat, tag := f.tag } s
    let h := heldFor (niOf s x.die) f.tag
    let s2 := modNI x.die (fun n => { n with held := n.held.filter fun g => !h.contains g }) s1
    (h.foldl (fun t g =>
      match findFrv t x.die g.hdr true with
      | some a => frvDeliver t x.die g true a
      | none => t) s2, [])

/-! ## Set traffic (R152, R248, R249) -/

/-- One access a cycle of four granules for each flit. -/
def flitAccesses (now ga n : Nat) : Accesses :=
  (List.range n).flatMap fun f => (List.range 4).map fun j => (now + f, ga + 4 * f + j)

/-- Increment a completion counter, but not counter 0. -/
def bumpCt (ctr : Nat) (k : Core) : Core := if ctr = 0 then k else coreSetCt k ctr (coreCt k ctr + 1)

/-- The increment of a completion counter in the cycle after the last of `n` flits has moved, but not of counter 0 (R128). -/
def ctAfter (x : Ctx) (ctr n : Nat) : List Pend :=
  if ctr = 0 then [] else [{ cycle := x.now + n, eff := .ct x.sc ctr }]

/-- SSN: flit f is read in cycle issue + f and handed over for set-slot entry SLOT + f. -/
def opSsn (x : Ctx) (f : FmF) (c : Cluster) : Cluster × List Pf :=
  let k := cluCore c x.sc
  let ga := fmCaddr k f
  let n := fmFlits f
  if !flitsOk k false ga n then (c, [pfAdr 0 ga])
  else
    match claimAll x.sc (flitAccesses x.now ga n) c.claims with
    | .inr pf => (c, [pf])
    | .inl cl =>
      (cluPend { c with claims := cl } (((List.range n).map fun i =>
        { cycle := x.now + i, reads := true, eff := .ssnRead (f.slot.toNat + i) ((ga + 4 * i) * 64) (x.ref + i * 2000 / x.sp) }) ++
          ctAfter x f.ctr.toNat n), [])

/-- The ORDER with which a source sends to a landing entry of a rank, from its set-slot table. -/
def orderOf (s : State) (src rank lentry : Nat) : Bool :=
  let img := runImg s
  match (List.range (slotCount img)).find? fun i =>
    let e := setSlotEntry img src i
    bitsOf e 63 48 == lentry && bitsOf e 47 40 == rank with
  | some i => bitOf (setSlotEntry img src i) 32
  | none => false

/-- The LGR record of an empty landing entry: the last crossing of the route under the present darn map and
the landing's due slot. -/
def lgrOf (s : State) (x : Ctx) (lentry : Nat) : Pf :=
  let e := landEntry (runImg s) x.rank lentry
  let src := bitsOf e 47 40
  let path := physOf s.grid.skip src :: setRoute s.grid.skip (orderOf s src x.rank lentry) src x.rank
  let port := portTo x.die (path.dropLast.getLastD x.die)
  { code := 0x06, detail := 0, addr := 0, entry := BitVec.ofNat 16 lentry
    link := BitVec.ofNat 4 ((port.map (linkCode x.die)).getD 0), slot := some (BitVec.ofNat 12 (bitsOf e 39 30)) }

/-- One flit of an SRV: the landing entry is written to cluster memory and its full bit is cleared; an empty one raises LGR. -/
def srvFlit (x : Ctx) (j : SrvJob) (s : State) : State × List Pf :=
  let p := bitsOf (landEntry (runImg s) x.rank j.entry) 63 52
  match tabGet [] (niOf s x.die).landing p with
  | [] => (s, [lgrOf s x j.entry])
  | l =>
    (modNI x.die (fun m => { m with landing := tabPut [] m.landing p [] })
      (modClu x.die x.clu (fun c => cluPend c [{ cycle := j.cycle + 1, eff := .mem (cellsAt (j.ga * 64) l) }]) s), [])

/-- Flits of SRVs, one after another. -/
def srvFlits (x : Ctx) : List SrvJob → State → State × List Pf
  | [], s => (s, [])
  | j :: l, s =>
    let r := srvFlit x j s
    let q := srvFlits x l r.1
    (q.1, r.2 ++ q.2)

/-- SRV: landing entry SLOT + f is read in cycle issue + f (R152); those whose cycle lies in a later stitch wait for that stitch. -/
def actSrv (f : FmF) : UopAct := fun x s =>
  let c := cluOf s x.die x.clu
  let k := cluCore c x.sc
  let ga := fmCaddr k f
  let n := fmFlits f
  if !flitsOk k true ga n then (s, [pfAdr 0 ga])
  else
    match claimAll x.sc (flitAccesses x.now ga n) c.claims with
    | .inr pf => (s, [pf])
    | .inl cl =>
      let jobs : List SrvJob := (List.range n).map fun i =>
        { cycle := x.now + i, ga := ga + 4 * i, entry := f.slot.toNat + i, sc := x.sc, uop := x.uop }
      let s1 := modClu x.die x.clu (fun c => cluPend { c with
        claims := cl, srvs := c.srvs ++ jobs.filter fun j => decide (x.limit ≤ j.cycle) } (ctAfter x f.ctr.toNat n)) s
      srvFlits x (jobs.filter fun j => decide (j.cycle < x.limit)) s1

/-! ## Knots (R155, R172) -/

/-- Whether a free transfer keeps its cluster from a knot: a carried DMR does so at a round-ending knot
only. -/
def keepsKnot (last : Bool) (t : Xfer) : Bool := last || !t.carry

/-- Whether every core of a cluster is at a knot. -/
def allAtKnot (c : Cluster) : Bool := (List.range 8).all fun n => (cluCore c n).knot.isSome

/-- Whether a KNOT with this index ends a round. -/
def lastKnot (s : State) (kidx : Nat) : Bool := kidx + 1 == imgNsect (runImg s)

/-- Transfers of a cluster that keep it from a knot. -/
def knotXfers (last : Bool) (c : Cluster) : Bool :=
  (List.range 8).any fun n => (cluCore c n).xfers.any (keepsKnot last)

/-- KNOT: the core issues nothing more until the knot releases.  In a set section a cluster whose eight
cores are at the knot while a transfer is outstanding stops as a whole and requests a freeze
(R122, R172). -/
def actKnot (kidx : BitVec 12) : UopAct := fun x s =>
  let s1 := modCore x.die x.clu x.sc (fun k => { k with knot := some kidx }) s
  let c := cluOf s1 x.die x.clu
  if x.setSec && allAtKnot c && knotXfers (lastKnot s kidx.toNat) c then
    (modClu x.die x.clu (cluPause x.ref) s1, [])
  else (s1, [])

/-- Whether nothing holds a stopped cluster any more. -/
def cluFreed (s : State) (c : Cluster) : Bool :=
  ((List.range 8).all fun n => (cluCore c n).paused.isNone) &&
    !(allAtKnot c && knotXfers (lastKnot s (((cluCore c 0).knot.getD 0).toNat)) c)

/-- The clusters' cycles, at the set point, between the reference counts at which a pause began and ended (R195). -/
def pauseCycles (s : State) (d start stop : Nat) : W32 := BitVec.ofNat 32 ((stop - start) * setPoint s d / 2000)

/-- A stopped cluster that nothing holds goes on at a reference count, and its pause is counted. -/
def cluResume (s : State) (d ref : Nat) (c : Cluster) : Cluster :=
  if c.pausedSet && cluFreed s c then
    { c with pausedSet := false, pauseCyc := c.pauseCyc + pauseCycles s d c.pausedAt ref }
  else c

/-- A stopped cluster goes on when nothing holds it; while a freeze is named or in force it goes on at
the resume point (R173). -/
def freeClu (d k ref : Nat) (s : State) : State :=
  if s.lode.frozen || s.lode.freezeAt.isSome then s else modClu d k (cluResume s d ref) s

/-- SYW_SATISFIED: the condition of a paused core is met; the counter is consumed and the next micro-op is due DELAY cycles after the cycle
in which it was met (R122, R128).  A cluster that has stopped in a set section counts no budgeted cycles, so that is the cycle of the SYW. -/
def sywDone (i : Issue) (s : State) : State :=
  let d := physOf s.grid.skip i.rank
  let c := cluOf s d i.clu
  let k := cluCore c i.sc
  match k.paused with
  | none => s
  | some (r, n) =>
    if (coreCt k r).toNat < n.toNat then s
    else
      freeClu d i.clu (cycleRef s d i.cyc) (modCore d i.clu i.sc (fun k =>
        { coreSetCt k r (coreCt k r - n) with
          paused := none, next := none, last := if c.pausedSet then k.last else some (c.base + i.cyc) }) s)

/-! ## The end of a transfer -/

/-- Drop a transfer and increment its counter. -/
def endXfer (d k n idx : Nat) (s : State) : State :=
  freeClu d k (dieOf s d).ref.toNat (modCore d k n (fun c =>
    match c.xfers.drop idx with
    | t :: _ => { coreSetCt c t.ctr (coreCt c t.ctr + 1) with xfers := listDrop c.xfers idx }
    | [] => c) s)

/-- The flits that remain of a transfer: those below the first not moved singly have arrived. -/
def restOf (t : Xfer) : List Nat := if t.moved = t.flits then [] else List.range t.flits

/-- The remaining flits of a DMR are read and written to cluster memory; the first poisoned unit ends it
without its counter (R313). -/
def dmrRest (d k : Nat) (t : Xfer) : List Nat → State → State × Bool
  | [], s => (s, true)
  | o :: os, s =>
    let a := t.paddr + o
    let s1 := countRead a s
    if poisonOf s a = 0 then
      dmrRest d k t os (modClu d k (fun c => { c with mem := memWrite c.mem ((t.caddr + 4 * o) * 64) (readBytes s a) }) s1)
    else (notePoison a (readDie s a) s1, false)

/-- The remaining flits of a DMW are written to panel memory. -/
def dmwRest (d k : Nat) (t : Xfer) (l : List Nat) (s : State) : State :=
  l.foldl (fun s o => writeAfter (t.paddr + o) 0xF (memRead (cluOf s d k).mem ((t.caddr + 4 * o) * 64) 256) s) s

/-- The transfer at an index of a core. -/
def xferAt (s : State) (d k n idx : Nat) : Option Xfer := ((cluCore (cluOf s d k) n).xfers.drop idx).head?

/-- DM_TRANSFER_COMPLETE: the last flit of a DMR has been written, or the last of a DMW acknowledged
(R150). -/
def dmComplete (rank clu sc idx : Nat) (s : State) : State :=
  let d := physOf s.grid.skip rank
  match xferAt s d clu sc idx with
  | none => s
  | some t =>
    match t.kind with
    | .dmr =>
      let r := dmrRest d clu t (restOf t) s
      if r.2 then endXfer d clu sc idx r.1 else r.1
    | .dmw => endXfer d clu sc idx (dmwRest d clu t (restOf t) s)
    | .fsn => s
    | .frv => s

/-- Flit `o` of a core's free message. -/
def fsnFlit (s : State) (d k rank : Nat) (t : Xfer) (o : Nat) : FreeFlit :=
  let h : RouteHdr := {
    addr := Config.fsnAddr t.drank.toNat t.tag.toNat + BitVec.ofNat 34 o, off := BitVec.ofNat 17 o, msg := t.msg, srank := BitVec.ofNat 16 rank
    sclass := 0, drank := t.drank, dclass := t.dclass, tag := t.tag, hops := 0, cm := false, ece := false, kind := 0, tepoch := 0 }
  { hdr := { h with tepoch := if t.dclass = 2 then portEpoch s h else 0 }
    chan := 1, payload := memRead (cluOf s d k).mem ((t.caddr + 4 * o) * 64) 256 }

/-- The flits of a free message that have not moved singly reach their destination (R153): a posted buffer, the interface's
hold, or a unit of panel memory. -/
def fsnRest (d k rank : Nat) (t : Xfer) (s : State) : State :=
  if t.dclass = 1 then
    (restOf t).foldl (fun s o =>
      let a := (Config.fsnAddr t.drank.toNat t.tag.toNat + BitVec.ofNat 34 o).toNat
      if unitExists a then writeAfter a 0xF (fsnFlit s d k rank t o).payload s else s) s
  else if t.dclass ≠ 0 ∨ 132 ≤ t.drank.toNat then s
  else
    let e := physOf s.grid.skip t.drank.toNat
    (restOf t).foldl (fun s o =>
      let f := fsnFlit s d k rank t o
      let noted := rxNote (refNow s).toNat false f.hdr (niOf s e)
      let s1 := modNI e (fun _ => noted.1) s
      match findFrv s e f.hdr noted.2 with
      | some a => frvDeliver s1 e f noted.2 a
      | none => if noted.2 then modNI e (fun n => { n with held := n.held ++ [f] }) s1 else s1) s

/-- Whether the destination of a free message can take the flits that have not moved singly: a buffer is posted, or the interface
has room for them (R257), and another cluster sees them in a later stitch than the one of sending (R36). -/
def fsnFits (s : State) (d k rank : Nat) (t : Xfer) : Bool :=
  let e := physOf s.grid.skip t.drank.toNat
  t.dclass ≠ 0 || ((dieOf s d).count != t.posted &&
    (decide (132 ≤ t.drank.toNat) || (findFrv s e (fsnFlit s d k rank t 0).hdr true).isSome ||
      decide ((niOf s e).held.length + (restOf t).length ≤ 256)))

/-- The flits of the message that an FRV has matched, while its sender still holds it. -/
def sentFlits (s : State) (src : W16 × BitVec 4 × BitVec 12) : Option Nat :=
  if src.2.1 ≠ 0 ∨ 132 ≤ src.1.toNat then none
  else
    let d := physOf s.grid.skip src.1.toNat
    (List.range 32).findSome? fun j =>
      ((cluCore (cluOf s d (j / 8)) (j % 8)).xfers.find? fun x => x.kind == .fsn && x.msg == src.2.2).map (·.flits)

/-- Whether every flit of the message of an FRV has come to its die. -/
def frvWhole (s : State) (d : Nat) (t : Xfer) : Bool :=
  match t.src with
  | none => false
  | some m =>
    decide (0 < t.moved) && (match sentFlits s m with
    | none => true
    | some n => ((niOf s d).rx.find? fun x => x.srank == m.1 && x.sclass == m.2.1 && x.msg == m.2.2).any fun x =>
        decide (n ≤ x.seen.length))

/-- FREE_MESSAGE_COMPLETE: every flit of an FSN has been acknowledged, or every flit of the message of an
FRV written. -/
def freeComplete (rank clu sc idx : Nat) (s : State) : State :=
  let d := physOf s.grid.skip rank
  match xferAt s d clu sc idx with
  | none => s
  | some t =>
    match t.kind with
    | .fsn => if fsnFits s d clu rank t then endXfer d clu sc idx (fsnRest d clu rank t s) else s
    | .frv => if frvWhole s d t then endXfer d clu sc idx s else s
    | .dmr => s
    | .dmw => s

/-! ## Arrival (R155) -/

/-- The knot at which every core of a die's four clusters stands, if they stand at one. -/
def dieKnot (s : State) (d : Nat) : Option (BitVec 12) :=
  match (cluCore (cluOf s d 0) 0).knot with
  | none => none
  | some k =>
    if (List.range 4).all fun c => (List.range 8).all fun n => (cluCore (cluOf s d c) n).knot == some k
    then some k else none

/-- Whether a cluster has set flits that have not left its network interface: handed over, or still to be read by an SSN. -/
def cluSending (c : Cluster) : Bool :=
  !c.handed.isEmpty || c.inflight.any fun p => match p.eff with | .ssnRead _ _ _ => true | _ => false

/-- Whether a die still has to send set flits of its own (R155). -/
def dieSending (s : State) (d : Nat) : Bool :=
  ((List.range 4).any fun k => cluSending (cluOf s d k)) ||
    (niOf s d).retime.any fun x => rankOf s.grid.skip d == some x.2.hdr.srank.toNat

/-- The lowest-numbered condition of R155 that a die does not meet at a knot; `none` when it has arrived. -/
def unmetCond (s : State) (d kidx : Nat) : Option Nat :=
  if dieKnot s d ≠ some (BitVec.ofNat 12 kidx) then some 1
  else if (List.range 4).any fun k => !(cluOf s d k).srvs.isEmpty then some 2
  else if dieSending s d then some 3
  else if (List.range 4).any fun c => knotXfers (lastKnot s kidx) (cluOf s d c) then some 4
  else none

/-- DIE_ARRIVAL: the die's pipelines have finished, and it reports arrival when its four clusters have
arrived. -/
def dieArrive (d : Nat) (s : State) : State :=
  match dieKnot s d with
  | none => s
  | some k =>
    if unmetCond s d k.toNat = none then
      modDie d (fun x => { x with arrived := some k, arrivedIn := x.count })
        ((List.range 4).foldl (fun s c => modClu d c settleAll s) s)
    else s

end Sys2Proof.Machine
end

