-- ==== Sys2Proof/Machine/Timebase.lean ====
section
/-! DEFINITION. Stitches and tick hold (chapter 05): what each timebase event does.  The lodestar is the
active anchor's die; time advances only as events say (log entry 8). -/

namespace Sys2Proof.Machine

open Sys2Proof

/-! ## Stitch start, hold line, extension -/

/-- Hold-line phase of a mode (R166). -/
def holdPhase (m : Mode) : Nat := if m = .lean then 704 else 448

/-- One step of the slew of R161: the next stitch is shorter by a slot time when the die's edge is late,
longer when it is early. -/
def slewStep (e : Int) : Int := if 0 < e then -1 else if e < 0 then 1 else 0

/-- Slot times by which a die slews the stitch that it ends: an extended one is not slewed (R161). -/
def slewNow (x : Die) : Int := if x.quanta = 0 then slewStep x.slew else 0

/-- A die's timebase at the end of a stitch (R158, R161). -/
def dieEdge (m : Mode) (x : Die) : Die :=
  { x with
    ref := x.ref + BitVec.ofNat 64 (((x.len : Int) + slewNow x).toNat - x.phase)
    phase := 0
    count := x.count + 1
    epoch := if x.count = BitVec.allOnes 48 then x.epoch + 1 else x.epoch
    len := modeSlots m
    quanta := 0
    slew := x.slew + slewNow x
    reporting := false }

/-- A stream core at a stitch edge: the first cycle of the stitch that follows its last issue is known (R119). -/
def coreEdge (base : Nat) (k : Core) : Core :=
  if k.last.isSome ∧ k.next.isNone then { k with next := some base } else k

/-- Work that a cluster ends with the stitch: what its cycles bring about has come about, its budget is counted, and past bank claims are dropped.  In an elastic section the work that
is not finished goes on in the next stitch, so that the count stops at the first cycle in which a core has not issued (R120, R175). -/
def cluEdge (b : Nat) (elastic : Bool) (c : Cluster) : Cluster :=
  let full := c.base + b
  let base := if elastic then ((dueBefore b full c).map Prod.snd).foldl min full else full
  let c := settle (base - 1) c
  { c with
    base := base, count := c.count + 1, droop := false
    cores := tabMap {} (coreEdge base) c.cores
    claims := c.claims.filter fun x => decide (base ≤ x.1)
    drain := c.drain.filter fun t => decide (base ≤ t) }

/-- The core of a cluster of a set section that still has budgeted cycles to run at the end of the stitch, with how many: one that waits
for an SYW or, with its cluster stopped, at a knot, or else the first whose next micro-op was due (R176). -/
def leftOver (b : Nat) (c : Cluster) : Option (Nat × Nat) :=
  match c.cores.find? fun p => c.pausedSet && (p.2.paused.isSome || p.2.knot.isSome) with
  | some (n, q) => some (n, b - (match q.last with | some l => l + 1 - c.base | none => 0))
  | none => (dueBefore b (c.base + b) c).head?.map fun p => (p.1, c.base + b - p.2)

/-- OVR for a cluster of a set section that still has budgeted cycles to run at the end of its stitch: the
record names the core that has them (R176, R229). -/
def edgeOvr (d k : Nat) (s : State) : State :=
  let c := cluOf s d k
  match leftOver (budget s) c with
  | some (n, left) =>
    addPatFault d { code := 0x02, detail := BitVec.ofNat 16 left, clu := BitVec.ofNat 2 k
                    sc := BitVec.ofNat 3 n, uop := BitVec.ofNat 13 (cluCore c n).uop, sect := BitVec.ofNat 12 s.pat.sect } s
  | none => s

/-- Whether an elastic section is executing. -/
def inElastic (s : State) : Bool := s.pat.running.isSome && s.pat.inSect && !inSetSection s

/-- The clusters of a die at the end of a stitch; a cluster of a set section that has cycles to run has its work cut
off.  Without a running pattern only the copy of the stitch count advances. -/
def clustersEdge (d : Nat) (s : State) : State :=
  if 144 ≤ d then s
  else if s.pat.running.isNone then
    (List.range 4).foldl (fun s k => modClu d k (fun c => { c with count := c.count + 1, droop := false }) s) s
  else
    (List.range 4).foldl (fun s k =>
      modClu d k (cluEdge (budget s) (inElastic s)) (if inSetSection s then edgeOvr d k s else s)) s

/-- Set flits that landed in the stitch they were sent in take their landing positions; one that is full is overwritten and counted
(R36, R249). -/
def niEdge (n : NI) : NI :=
  n.arriving.foldl (fun n p => { n with
    landing := tabPut [] n.landing p.1 p.2
    cnt := if tabGet [] n.landing p.1 != [] then cntInc n.cnt 5 else n.cnt }) { n with due := [], arriving := [] }

/-- The flits of SRVs of a cluster whose cycles lie in the stitch that begins (R152). -/
def srvEdge (d k : Nat) (s : State) : State :=
  let c := cluOf s d k
  let limit := c.base + budget s
  let now := c.srvs.filter fun j => decide (j.cycle < limit)
  if now.isEmpty then s
  else
    now.foldl (fun s j =>
      let x : Ctx := {
        rank := (rankOf s.grid.skip d).getD 0, die := d, clu := k, sc := j.sc, uop := j.uop, now := j.cycle, ref := 0, sp := 1, limit := limit
        setSec := true, hold := false }
      let r := srvFlit x j s
      r.2.foldl (fun t p => addPatFault d (uopFault s x j.uop p) t) r.1)
      (modClu d k (fun c => { c with srvs := c.srvs.filter fun j => decide (limit ≤ j.cycle) }) s)

/-- The lodestar's totals at its stitch edge, and its reference count there (R194). -/
def lodeEdge (ref : W64) (l : Lode) : Lode :=
  { l with
    startRef := ref
    quanta := 0, stall := 0, reported := false, stretchedNow := false
    stretched := if l.stretchedNow then l.stretched + 1 else l.stretched }

/-- STITCH_START: a die's stitch timer reaches the stitch length.  During a freeze it cannot (R172). -/
def stitchStart (die : Nat) (s : State) : State :=
  if s.lode.frozen then s
  else
    let s1 := clustersEdge die (modNI die niEdge (modDie die (dieEdge s.lode.mode) s))
    let s2 := if die < 144 then (List.range 4).foldl (fun s k => srvEdge die k s) s1 else s1
    if die = anchorDie s then { s2 with lode := lodeEdge (dieOf s2 die).ref s2.lode } else s2

/-- Whether a set flit for a die whose landing stitch is the die's present one still waits in a retiming buffer (R170, R247). -/
def flitsOwed (s : State) (die : Nat) : Bool :=
  s.nis.any fun n => n.2.retime.any fun x =>
    rankOf s.grid.skip die == some x.2.hdr.drank.toNat &&
      landStitch s x.2 == (dieOf s die).count.toNat % 256

/-- Whether a die reports extension at a hold line (R170, R169): a cluster in a set section with more than 25
budgeted cycles to run, a set flit of this stitch that has not landed (key 4 of `left`), or, at the lodestar in the gap before a round's first
section, an admission that is not complete (key 5, R42, R175). -/
def mustReport (die : Nat) (s : State) (left : List (Nat × Nat)) : Bool :=
  flitsOwed s die || left.any fun p =>
    if p.1 < 4 then inSetSection s && decide (25 < p.2)
    else if p.1 = 5 then die == anchorDie s && s.rnd.active && !s.pat.inSect && s.pat.sect == 0 && decide (0 < p.2)
    else decide (0 < p.2)

/-- HOLD_LINE: the die samples its reports; each cluster that has too much to run counts the quantum it
causes (R195). -/
def holdLine (die : Nat) (left : List (Nat × Nat)) (s : State) : State :=
  if s.lode.frozen then s
  else
    let p := holdPhase s.lode.mode + 128 * s.lode.quanta
    let s1 := modDie die (fun x => { x with
      ref := x.ref + BitVec.ofNat 64 (p - x.phase), phase := max p x.phase
      reporting := mustReport die s left }) s
    if inSetSection s then
      left.foldl (fun s q => if q.1 < 4 ∧ 25 < q.2 then
        modClu die q.1 (fun c => { c with extCaused := c.extCaused + 1 }) s else s) s1
    else s1

/-- REPORT: the report of a live die is merged by OR at the lodestar. -/
def report (die : Nat) (s : State) : State :=
  if dieLive s die then { s with lode := { s.lode with reported := true } } else s

/-- EXTEND: a die has reported, so the present stitch grows by one quantum of 128 slot times on every die (R170). -/
def extend (s : State) : State :=
  if !s.lode.reported then s
  else
  let s1 := modDies (liveDies s) (fun x => { x with len := x.len + 128, quanta := x.quanta + 1, reporting := false }) s
  { s1 with lode := { s1.lode with
      quanta := s1.lode.quanta + 1, stall := s1.lode.stall + 128, reported := false
      stretchedNow := true, added := s1.lode.added + 128 } }

/-! ## Freeze and release -/

/-- The reference count 40 slot times after the lodestar's, modulo 2^48 (R172, R173). -/
def pointAfter (s : State) : BitVec 48 := BitVec.ofNat 48 (refNow s).toNat + 40

/-- FREQ: the first request makes the lodestar name a freeze point (R172); later ones join (R174). -/
def freq (die : Nat) (s : State) : State :=
  let l := s.lode
  let l1 := { l with
    holders := setIns die l.holders
    resumeAt := none
    freezeAt := if l.frozen || l.freezeAt.isSome then l.freezeAt else some (pointAfter s) }
  { s with lode := l1 }

/-- FREEZE: the frame that names the freeze point. -/
def freeze (point : BitVec 48) (s : State) : State :=
  { s with lode := { s.lode with freezeAt := if s.lode.frozen then s.lode.freezeAt else some point } }

/-- Slot times from a die's reference count to a point modulo 2^48. -/
def slotsTo (x : Die) (point : BitVec 48) : Nat := (point - BitVec.ofNat 48 x.ref.toNat).toNat

/-- FREEZE_POINT: every die stops its stitch phase, its frames and its clusters' budgets. -/
def freezePoint (s : State) : State :=
  match s.lode.freezeAt with
  | some p =>
    if s.lode.frozen then s
    else
      let s1 := modDies (liveDies s) (fun x =>
        { x with phase := x.phase + slotsTo x p, ref := x.ref + BitVec.ofNat 64 (slotsTo x p) }) s
      { s1 with lode := { s1.lode with frozen := true, stretchedNow := true } }
  | none => s

/-- RELEASE: after the last one the lodestar names a resume point (R173). -/
def release (die : Nat) (s : State) : State :=
  let hs := setDel die s.lode.holders
  let done := hs.isEmpty && (s.lode.frozen || s.lode.freezeAt.isSome)
  { s with
    lode := { s.lode with
      holders := hs
      resumeAt := if done then some (pointAfter s) else s.lode.resumeAt } }

/-- RESUME: the frame that names the resume point. -/
def resume (point : BitVec 48) (s : State) : State :=
  { s with lode := { s.lode with resumeAt := some point } }

/-- RESUME_POINT: every die restarts its phase, frames and budgets; the frozen time joins the totals. -/
def resumePoint (s : State) : State :=
  match s.lode.resumeAt with
  | some p =>
    if s.lode.frozen then
      let n := slotsTo (dieOf s (anchorDie s)) p
      let s1 := modDies (liveDies s) (fun x => { x with ref := x.ref + BitVec.ofNat 64 (slotsTo x p) }) s
      { s1 with lode := { s1.lode with
          frozen := false, freezeAt := none, resumeAt := none
          stall := s1.lode.stall + n, added := s1.lode.added + BitVec.ofNat 64 n } }
    else { s with lode := { s.lode with freezeAt := none, resumeAt := none } }
  | none => s

/-! ## Marks and timebase faults (R161 to R164) -/

/-- Count and record a timebase fault of a die: it loads its count and phase from the next mark.  TBC, TBP and TBU of a
compute site are charged to it (R508). -/
def timebaseFault (die : Nat) (code : Byte) (detail : W16) (s : State) : State :=
  let s0 := if die < 144 ∧ (code = 0x10 ∨ code = 0x11 ∨ code = 0x13) then chargeFault die s else s
  addFault die { code := code, detail := detail }
    (modDie die (fun x => { x with loadNext := true, tbCounts := cntInc x.tbCounts code.toNat }) s0)

/-- The phase error of a mark in a die's health counters: the largest, and a warning beyond 8 slot times (R161, R162). -/
def noteErr (e : Int) (x : Die) : Die :=
  { x with
    holdover := false
    phaseMax := max x.phaseMax e.natAbs
    warns := if 8 < e.natAbs then x.warns + 1 else x.warns }

/-- A die loads its count and phase from a mark, and its clusters their copies of the count (R158, R163). -/
def loadMark (die : Nat) (count : BitVec 48) (s : State) : State :=
  let s1 := modDie die (fun x => { x with count := count, phase := 0, slew := 0, loadNext := false }) s
  if die < 144 then (List.range 4).foldl (fun s k => modClu die k (fun c => { c with count := count }) s) s1 else s1

/-- MARK: the die compares counts, slews towards zero phase error and records the error (R161); a
difference raises TBC, an error beyond 32 slot times TBP, one beyond 8 a warning (R162).  After a
timebase fault the die first loads count and phase from the mark, so that neither differs (R163, log entry 133). -/
def mark (die : Nat) (count : BitVec 48) (e : Int) (s : State) : State :=
  if s.lode.frozen then s
  else
    let x := dieOf s die
    if x.loadNext then loadMark die count (modDie die (noteErr e) s)
    else
      let s1 := modDie die (fun x => { noteErr e x with slew := e }) s
      let s2 := if x.count ≠ count then timebaseFault die 0x10 (BitVec.ofInt 16 e) s1 else s1
      if 32 < e.natAbs then timebaseFault die 0x11 (BitVec.ofInt 16 e) s2 else s2

/-- Even parity of a sync frame (R265): bit `i` of PAR covers bits 19i + 22 to 19i + 4. -/
def framePar (f : BitVec 80) : Bool :=
  (List.range 4).all fun i =>
    ((List.range 19).foldl (fun p j => p != f.getLsbD (19 * i + 4 + j)) false) == f.getLsbD i

/-- SYNC_FRAME_RECEIVE: a frame that fails its parity raises TBM and is discarded (R265); a die that
misses the swap so does not swap (R192).  A good frame acts by the event of its type. -/
def syncFrame (die : Nat) (f : BitVec 80) (s : State) : State :=
  if framePar f then s
  else
    let s1 := niCount die 12 (timebaseFault die 0x12 0 s)
    modDie die (fun x => { x with swapGot := none }) s1

/-- TBU: a cluster's oscillator falls below the droop limit (R164). -/
def tbuFault (rank clu : Nat) (s : State) : State :=
  let d := physOf s.grid.skip rank
  timebaseFault d 0x13 0 (modClu d clu (fun c => { c with tbu := c.tbu + 1, droop := true }) s)

/-- The stall limit of a stitch, in slot times (R177): 1 ms. -/
def stallLimit : Nat := 2000000

/-- Whether the present stitch has reached the stall limit: no command measures the time of a freeze in force, so that the event itself
says it then (log entry 134). -/
def stalled (s : State) : Bool := s.lode.frozen || decide (stallLimit ≤ s.lode.stall)

/-- TBS: a stitch reaches the stall limit; the round is aborted and replayed once, and a second TBS in
the replay stops the pattern (R177). -/
def tbsFault (s : State) : State :=
  if !stalled s then s
  else
  let d := anchorDie s
  let s1 := addFault d { code := 0x14, stop := s.pat.tbsReplay }
    (modDie d (fun x => { x with tbCounts := cntInc x.tbCounts 0x14 }) s)
  if s.pat.tbsReplay then stopOnFault (cancelHold s1)
  else
    let s2 := abortRound 2 (cancelHold s1)
    { s2 with pat := { s2.pat with tbsReplay := true } }

/-! ## Timing links (R157) -/

/-- A die's primary timing link (R157), by port. -/
def primaryPort (d : Nat) : Nat :=
  if d < 144 then 1
  else if d < 216 then (if dieCourse d ≤ 5 then 0 else 2)
  else if ringPos d < 2 then 3 else 2

/-- The timing link in use. -/
def timingPort (s : State) (d : Nat) : Nat := ((dieOf s d).tport).getD (primaryPort d)

/-- Whether a link can carry time: it is in AXUST or RAW (R157). -/
def timingUsable (s : State) (d p : Nat) : Bool :=
  let st := (linkOf s d p).state
  st == .axust || st == .raw

/-- The timing path of a die to a root, as the dies it passes; `none` when it reaches no root within the
bound. -/
def timingPath (s : State) : Nat → Nat → Option (List Nat)
  | 0, _ => none
  | fuel + 1, d =>
    if isAnchor d then some [d]
    else
      match peer d (timingPort s d) with
      | some e =>
        if timingUsable s d (timingPort s d) && dieLive s e.1 then
          (timingPath s fuel e.1).map (d :: ·)
        else none
      | none => none

/-- The alternative timing link of a die: to a neighbour whose own path does not pass through the die, on
a shortest such path, the lowest port on a tie. -/
def altTiming (s : State) (d : Nat) : Option Nat :=
  let cand := (List.range 6).filterMap fun p =>
    match peer d p with
    | some e =>
      if timingUsable s d p && dieLive s e.1 then
        (match timingPath s 64 e.1 with
        | some path => if path.contains d then none else some (p, path.length)
        | none => none)
      else none
    | none => none
  (cand.foldl (fun (b : Option (Nat × Nat)) x =>
    match b with
    | none => some x
    | some y => if x.2 < y.2 then some x else b) none).map Prod.fst

/-- Whether a die's primary timing link is usable. -/
def primaryOk (s : State) (d : Nat) : Bool :=
  timingUsable s d (primaryPort d) && (match peer d (primaryPort d) with | some e => dieLive s e.1 | none => false)

/-- A die's timing link in the forest (R157): its primary link while that is usable, else an alternative; with none it holds over. -/
def retime (s : State) (d : Nat) : State :=
  if primaryOk s d then s
  else
    match altTiming s d with
    | some p => modDie d (fun x => { x with holdover := false, tport := some p }) s
    | none => modDie d (fun x => { x with holdover := true }) s

/-- The dies that follow a timing link: every live die but the anchors. -/
def timedDies (s : State) : List Nat := (liveDies s).filter fun d => !isAnchor d

/-- Herus computes the timing forest (R157): dies return to their primary links where these are usable, and the others take alternatives. -/
def reforest (s : State) : State :=
  let back := (timedDies s).filter fun d => primaryOk s d && ((dieOf s d).tport.isSome || (dieOf s d).holdover)
  (timedDies s).foldl retime (modDies back (fun x => { x with tport := none, holdover := false }) s)

/-- TIMING_LINK_LOST: the die holds over; while the link is retraining or waking it keeps the link, else
it takes a new timing link.  Whether one is left is the second part: a die with none is a die fallen silent (R487, R315). -/
def timingLinkLost (die : Nat) (retraining : Bool) (s : State) : State × Bool :=
  if retraining then (modDie die (fun x => { x with holdover := true }) s, true)
  else
    match altTiming s die with
    | some p => (modDie die (fun x => { x with holdover := false, tport := some p }) s, true)
    | none => (modDie die (fun x => { x with holdover := true }) s, false)

end Sys2Proof.Machine
end

