-- ==== Sys2Proof/Machine/Links.lean ====
section
/-! DEFINITION. Die-to-die links (chapter 08): Axust frames and link-level retry, the fallback ladder, RAW
state, requests, standby links and training. -/

namespace Sys2Proof.Machine

open Sys2Proof

/-! ## Sequence numbers (R282) -/

/-- Whether `a` lies below `b` in the window of 2,048 values modulo 4,096. -/
def seqBelow (a b : BitVec 12) : Bool := decide (a ≠ b) && decide ((b - a).toNat < 2048)

/-- Whether a value lies within the window below the sender's next SEQ. -/
def seqInWindow (v next : BitVec 12) : Bool := decide ((next - v).toNat ≤ 2048)

/-- Retire the frames that ACKSEQ covers; a value outside the window is ignored. -/
def ackFrames (ack : BitVec 12) (x : LinkDir) : LinkDir :=
  if seqInWindow ack x.nextSeq then
    { x with buf := x.buf.filter fun f => !seqBelow f.seq ack
             replays := x.replays.filter fun q => !seqBelow q ack }
  else x

/-! ## Frames (R277, R279, R288) -/

/-- One step of CRC-64 (ECMA-182) over a bit, the most significant first. -/
def crc64Step (c : BitVec 64) (b : Bool) : BitVec 64 :=
  if xor c.msb b then (c <<< 1) ^^^ 0x42F0E1EBA9EA3693 else c <<< 1

/-- The bits of a value, the most significant first. -/
def bitsDown {n : Nat} (v : BitVec n) : List Bool := ((List.range n).map v.getLsbD).reverse

/-- CRC-64 over bits, from all ones and inverted (R277). -/
def crc64 (l : List Bool) : BitVec 64 := ~~~(l.foldl crc64Step (BitVec.allOnes 64))

/-- The bits of bytes in the order in which the CRC takes them, which the manual does not state: byte by byte, the most significant bit first
(log entry 140). -/
def crcBytes (l : List Byte) : List Bool := l.flatMap bitsDown

/-- Frame bits 255 to 64 (R277). -/
def frameHead (f : AxFrame) : BitVec 192 :=
  f.hdr ++ f.seq ++ f.ackseq ++ f.nakseq ++ BitVec.ofBool f.nakv ++ BitVec.ofBool f.replay ++ BitVec.ofNat 3 f.chan ++ (0 : BitVec 23)

/-- The CRC of a frame. -/
def frameCrc (head : BitVec 192) (payload : List Byte) : BitVec 64 := crc64 (crcBytes payload ++ bitsDown head)

/-- The 256 bits of a frame. -/
def frameBits (f : AxFrame) : BitVec 256 := frameHead f ++ frameCrc (frameHead f) f.payload

/-- The fields of a frame. -/
def frameFields (b : BitVec 256) (payload : List Byte) : AxFrame :=
  { hdr := b.extractLsb' 128 128, seq := b.extractLsb' 116 12, ackseq := b.extractLsb' 104 12, nakseq := b.extractLsb' 92 12
    nakv := b.getLsbD 91, replay := b.getLsbD 90, chan := (b.extractLsb' 87 3).toNat, payload := payload }

/-- Whether the CRC of a frame holds. -/
def frameGood (b : BitVec 256) (payload : List Byte) : Bool := frameCrc (b.extractLsb' 64 192) payload == b.extractLsb' 0 64

/-- The first 280 bytes of a raw flit (R288). -/
def rawHead (h : SetHdr) (rseq : BitVec 12) (payload : List Byte) : List Byte :=
  fitBytes 256 payload ++ natLe 16 (setBits h).toNat ++ natLe 2 rseq.toNat ++ natLe 6 0

/-- The 288 bytes of a raw flit, its fields with the low byte first (R15). -/
def rawBytes (h : SetHdr) (rseq : BitVec 12) (payload : List Byte) : List Byte :=
  let l := rawHead h rseq payload
  l ++ natLe 8 (crc64 (crcBytes l)).toNat

/-- The bytes of a raw flit from its payload, its header and the 16 bytes after it: RSEQ, zeros and the CRC (R288). -/
def rawFlit (payload : List Byte) (header tail : BitVec 128) : List Byte := payload ++ natLe 16 header.toNat ++ natLe 16 tail.toNat

/-- Whether the CRC of a raw flit holds. -/
def rawGood (b : List Byte) : Bool := b.length == 288 && crc64 (crcBytes (b.take 280)) == BitVec.ofNat 64 (leAt b 280 8)

/-- RSEQ of a raw flit. -/
def rawSeq (b : List Byte) : BitVec 12 := BitVec.ofNat 12 (leAt b 272 2)

/-- The set header of a raw flit. -/
def rawHdr (b : List Byte) : BitVec 128 := BitVec.ofNat 128 (leAt b 256 16)

/-! ## Replays (R283, R284) -/

/-- A SEQ among the replays that wait, the oldest first. -/
def insReplay (next q : BitVec 12) : List (BitVec 12) → List (BitVec 12)
  | [] => [q]
  | y :: l => if q = y then y :: l else if (next - y).toNat < (next - q).toNat then q :: y :: l else y :: insReplay next q l

/-- Ask for a replay of a frame: it waits in the order of SEQ and counts as replayed. -/
def askReplay (q : BitVec 12) (x : LinkDir) : LinkDir :=
  { x with
    buf := x.buf.map fun f => if f.seq = q then { f with tries := f.tries + 1 } else f
    replays := if (frameOf x q).isSome then insReplay x.nextSeq q x.replays else x.replays }

/-- Whether a frame has been replayed 4 times without being acknowledged, so that its link is retrained (R284). -/
def replayLimit (s : State) (die port : Nat) (q : BitVec 12) : Bool :=
  match frameOf (txDir (linkOf s die port) die port) q with
  | none => false
  | some f => decide (4 ≤ f.tries)

/-! ## Receiving (R279, R283) -/

/-- Move the lowest SEQ not received past those received above it. -/
def rxAdvance : Nat → LinkDir → LinkDir
  | 0, x => x
  | n + 1, x =>
    if x.rxGot.contains x.rxNext then
      rxAdvance n { x with rxNext := x.rxNext + 1, rxGot := x.rxGot.erase x.rxNext }
    else x

/-- The SEQ values from the lowest not received up to one received that are missing. -/
def rxMissing (x : LinkDir) (q : BitVec 12) : List (BitVec 12) :=
  ((List.range (q - x.rxNext).toNat).map fun i => x.rxNext + BitVec.ofNat 12 i).filter
    fun v => !x.rxGot.contains v && !x.naks.contains v

/-- Whether a SEQ is a duplicate at the receiver. -/
def rxDuplicate (x : LinkDir) (q : BitVec 12) : Bool :=
  decide (2048 ≤ (q - x.rxNext).toNat) || x.rxGot.contains q

/-- Note a good SEQ at the receiver: missing ones are to be NAKed, in ascending order. -/
def rxNoteSeq (q : BitVec 12) (x : LinkDir) : LinkDir :=
  let miss := rxMissing x q
  rxAdvance 4096 { x with
    rxGot := q :: x.rxGot
    naks := (x.naks.filter (· != q)) ++ miss }

/-- A set flit that has crossed a link waits for its output, or at its destination for its landing. -/
def acceptSet (die : Nat) (hdr : BitVec 128) (payload : List Byte) (s : State) : State :=
  let h := setOfBits hdr
  let f : SetFlit := { hdr := h, entry := 0xFFFF, payload := payload }
  let port := (setOutput s die h).getD 7
  modNI die (fun n => { n with retime := n.retime ++ [(port, f)] }) s

/-- What a good frame brings: its ACKSEQ is applied, and its flit is forwarded once (R283). -/
def takeFrame (die port : Nat) (f : AxFrame) (s : State) : State :=
  let s1 := modTx die port (ackFrames f.ackseq) s
  if 5 ≤ f.chan then s1
  else if rxDuplicate (rxDir (linkOf s1 die port) die port) f.seq then s1
  else
    let s2 := modRx die port (rxNoteSeq f.seq) s1
    if f.chan = 0 then acceptSet die f.hdr f.payload s2
    else modNI die (fun n => { n with
      inq := n.inq ++ [(port, { hdr := routeOfBits f.hdr, chan := f.chan, payload := f.payload })] }) s2

/-- Whether a good frame names a SEQ that its receiver is to replay (R277, R282). -/
def nakNamed (s : State) (die port : Nat) (f : AxFrame) : Bool :=
  f.nakv && seqInWindow f.nakseq (txDir (linkOf s die port) die port).nextSeq

/-! ## The fallback ladder (R285 to R287) -/

/-- Working width of a module in AXUST: 64, 32 or none. -/
def axLanes (n : Nat) : Nat := if 64 ≤ n then 64 else if 32 ≤ n then 32 else 0

/-- The frame lanes that spares replace in one action: bundles that had lost none and have now lost one (R271). -/
def sparesUsed (old new : Nat × Nat) : Nat :=
  (decide (old.1 = 0) && decide (new.1 = 1)).toNat + (decide (old.2 = 0) && decide (new.2 = 1)).toNat

/-- The frame lanes lost since training: more with each action, since only a full training repairs them. -/
def lostMore (old new : Nat × Nat) : Nat × Nat := (max old.1 new.1, max old.2 new.2)

/-- The working 16-lane multiple of a link that enters RAW, or stays there narrower: of all working data lanes of its two modules (R286). -/
def rawLanes (env : LadderEnv) (l : Link) : Nat :=
  let t := min 64 env.lanes0 + min 64 env.lanes1
  (if l.state = .raw then min t (l.lanes0 + l.lanes1) else t) / 16 * 16

/-- Whether a link keeps its state at its width: PHYRETRAIN succeeds with every lane and bundle in use working (R286, R297). -/
def keepsWidth (env : LadderEnv) (l : Link) (b0 b1 : Bool) : Bool :=
  env.step1 && b0 == l.fb0 && b1 == l.fb1 &&
    (if l.state = .raw then decide (l.lanes0 + l.lanes1 ≤ min 64 env.lanes0 + min 64 env.lanes1)
     else decide (l.lanes0 ≤ env.lanes0) && decide (l.lanes1 ≤ env.lanes1))

/-- The link after the ladder finds it as `env` says: at its width in the state it was in, AXUST narrower, RAW, or FAILED
(R286).  `first` is the step it starts from, and `l` the link before the action; a link in RAW never widens to AXUST. -/
def ladder (ring : Bool) (first : Nat) (env : LadderEnv) (l : Link) : Link :=
  let f0 := lostMore l.frame0 env.frame0
  let f1 := lostMore l.frame1 env.frame1
  let b0 := bundleOk f0 && l.fb0
  let b1 := bundleOk f1 && l.fb1
  let l0 := { l with
    acting := false, reqLead := none, reqFollow := none, frame0 := f0, frame1 := f1
    cnt := cntInc (cntInc l.cnt 0 env.repairs) 1 (sparesUsed l.frame0 f0 + sparesUsed l.frame1 f1) }
  let back := fun (x : LinkDir) => { x with replays := x.buf.map (·.seq) }
  if first ≤ 1 && keepsWidth env l b0 b1 then
    (if l.state = .raw then { l0 with cnt := cntInc (cntInc l0.cnt 2) 5 }
     else { l0 with state := .axust, d0 := back l0.d0, d1 := back l0.d1, cnt := cntInc (cntInc l0.cnt 2) 4 })
  else
    let cnt2 := if first ≤ 1 then cntInc l0.cnt 2 else l0.cnt
    let a0 := axLanes (min env.lanes0 l.lanes0)
    let a1 := axLanes (min env.lanes1 l.lanes1)
    if l.state ≠ .raw ∧ 32 ≤ a0 + a1 ∧ (b0 || b1) then
      { l0 with
        state := .axust, lanes0 := a0, lanes1 := a1, fb0 := b0, fb1 := b1
        d0 := back l0.d0, d1 := back l0.d1, cnt := cntInc (cntInc cnt2 3) 4 }
    else
      let r := rawLanes env l
      if !ring && decide (16 ≤ r) then
        { l0 with
          state := .raw, lanes0 := min (min 64 env.lanes0) r, lanes1 := r - min (min 64 env.lanes0) r, fb0 := false, fb1 := false
          d0 := { l0.d0 with rseqTx := 0, rseqRx := 0, buf := [], replays := [] }
          d1 := { l0.d1 with rseqTx := 0, rseqRx := 0, buf := [], replays := [] }
          cnt := cntInc cnt2 5 }
      else
        { l0 with state := .failed, lanes0 := 0, lanes1 := 0, failwhy := 1, cnt := cntInc cnt2 6 }

/-- The set flits of a replay buffer that the receiver has not had wait again for their output when the link has entered RAW, in SEQ order
(R287); free flits are left to their sources (R253; log entry 141). -/
def unsent (die port : Nat) (x : LinkDir) (s : State) : State :=
  let l := x.buf.filter fun f => f.chan == 0 && !rxDuplicate x f.seq
  modNI die (fun n => { n with retime := n.retime ++ l.map fun f =>
    let h := setOfBits f.hdr
    (port, { hdr := { h with due := h.due - BitVec.ofNat 12 (crossBudget s die port) }, entry := 0xFFFF, payload := f.payload }) }) s

/-- Run the ladder on a link (R286). -/
def climb (die port first : Nat) (env : LadderEnv) (s : State) : State :=
  let l := linkOf s die port
  let s1 := modLink die port (ladder (isRingLink die port) first env) s
  if l.state ≠ .raw ∧ (linkOf s1 die port).state = .raw then
    let s2 := unsent die port (txDir l die port) s1
    match peer die port with
    | some e => unsent e.1 e.2 (txDir l e.1 e.2) s2
    | none => s2
  else s1

/-- Whether a die is in a set section: a site of the running pattern while one executes. -/
def endInSet (s : State) (d : Nat) : Bool := inSetSection s && decide (d < 144) && (rankOf s.grid.skip d).isSome

/-- The dies at a link's ends. -/
def linkEnds (die port : Nat) : List Nat := die :: (match peer die port with | some e => [e.1] | none => [])

/-- The ends that ask for a freeze on account of a retraining or waking link: those in a set section that hold none yet (R287). -/
def freezeEnds (s : State) (die port : Nat) : List Nat :=
  (linkEnds die port).filter fun d => endInSet s d && !s.lode.holders.contains d

/-- The freeze requests that the ends of a retraining or waking link in a set section raise (R287). -/
def linkFreeze (die port : Nat) (s : State) : State :=
  let l := (linkEnds die port).filter (endInSet s)
  if l.isEmpty then s
  else l.foldl (fun s d => freq d s) (modLink die port (fun l => { l with cnt := cntInc l.cnt 17 }) s)

/-- Their release when the link is back in AXUST or RAW: by the ends that asked on its account alone. -/
def linkRelease (asked : List Nat) (s : State) : State :=
  asked.foldl (fun s d => if s.lode.holders.contains d then release d s else s) s

/-! ## Standby links (R294 to R296) -/

/-- KEEPALIVE_LOST: a standby link misses three keep-alives and becomes FAILED. -/
def keepaliveLost (die port : Nat) (s : State) : State :=
  modLink die port (fun l =>
    if l.state = .standby then
      { l with state := .failed, failwhy := 3, cnt := cntInc l.cnt 16 3 }
    else l) s

/-- Whether landing delays lie within 1 slot time of a calibrated depth, the guard of 2 included (R182, R296). -/
def delaysOk (depth : BitVec 6) (l : List Nat) : Bool :=
  l.all fun n => decide (n + 2 ≤ depth.toNat + 1) && decide (depth.toNat ≤ n + 3)

/-- Wake a standby link: to AXUST at its saved width where the check of its lanes and depths passes, and by the ladder from step 1 where it
fails (R295). -/
def wakeBy (found : Option LadderEnv) (die port : Nat) (s : State) : State :=
  if (linkOf s die port).state ≠ .standby then s
  else
    let s1 := modLink die port (fun l => { l with state := .axust, cnt := cntInc l.cnt 11 }) s
    match found with
    | none => s1
    | some env => climb die port 1 env s1

/-- Wake a link in a repair, as the repair finds it. -/
def wakeLink (failed : List (Nat × LadderEnv)) (die port : Nat) (s : State) : State :=
  wakeBy ((failed.find? fun x => x.1 == linkKey die port).map Prod.snd) die port s

/-- Whether a standby check passes: its wake does, and each landing delay lies within 1 slot time of the calibrated depth (R296). -/
def checkPasses (l : Link) (found : StandbyFind) : Bool :=
  found.wake.isNone && delaysOk l.d0.depth found.delays0 && delaysOk l.d1.depth found.delays1

/-- A standby check's end: the link goes back to STANDBY and is marked by the outcome; one that the ladder has left in RAW or FAILED stays there. -/
def checkEnd (passed : Bool) (l : Link) : Link :=
  { l with state := if l.state = .axust then .standby else l.state, sbfail := !passed, cnt := cntInc l.cnt (if passed then 13 else 14) }

/-- STANDBY_CHECK: a standby link is woken and checked; one that fails is marked.  A repair wake that takes the link over leaves it in AXUST, and
the check is counted as abandoned (R296). -/
def standbyCheck (die port : Nat) (found : StandbyFind) (s : State) : State :=
  let l := linkOf s die port
  if l.state ≠ .standby then s
  else
    let asked := freezeEnds s die port
    let s1 := wakeBy found.wake die port (linkFreeze die port s)
    let s2 := if found.slow then modLink die port (fun l => { l with cnt := cntInc l.cnt 12 }) s1 else s1
    linkRelease asked (modLink die port (fun x =>
      if found.taken then { x with cnt := cntInc x.cnt 15 } else checkEnd (checkPasses l found) x) s2)

/-- The class limit of a crossing in slot times (R183); `b` asks for class B. -/
def depthLimit (b : Bool) (d p : Nat) : Nat :=
  (if isRingLink d p || isWaleBypass d p || isRingBypass d p then 16 else 12) + (if b then 4 else 0)

/-- The depth that a calibration sets: the largest delay it observes plus a guard of 2 slot times (R182). -/
def calDepth (delay : Nat) : Nat := delay + 2

/-- The depth after a calibration that observes `delay`: saved settings keep their depth where every delay lies within 1 slot time of it
(R185). -/
def newDepth (saved : Bool) (delay : Nat) (old : BitVec 6) : BitVec 6 :=
  if saved && delaysOk old [delay] then old else BitVec.ofNat 6 (calDepth delay)

/-- What an end sends in the identity check (R276). -/
def identOf (s : State) (d p : Nat) : LinkIdent := { die := d, port := p, serial := Config.serial, version := s.boot.fwver }

/-- Whether both ends of a link receive what the layout and their own values give (R276). -/
def identOk (s : State) (d p : Nat) (env : LadderEnv) : Bool :=
  match env.ident, peer d p with
  | some x, some e =>
    let a := identOf s e.1 e.2
    let b := identOf s d p
    if leads d p then x.1 == a && x.2 == b else x.2 == a && x.1 == b
  | _, _ => true

/-- A link that completes training (R275) and its calibration (R182), fails its identity check (R276), or
has a crossing beyond the class B limit `lim` (R184). -/
def trainLink (lim : Nat) (ident : Bool) (env : LadderEnv) (l : Link) : Link :=
  let bad := fun (why : Nat) => { l with state := .failed, failwhy := why, lanes0 := 0, lanes1 := 0, acting := false }
  if !ident then bad 2
  else if lim < calDepth (max env.delay0 env.delay1) then bad 1
  else
    let a0 := axLanes env.lanes0
    let a1 := axLanes env.lanes1
    let b0 := bundleOk env.frame0
    let b1 := bundleOk env.frame1
    let fresh := fun (n : Nat) (x : LinkDir) =>
      ({ depth := newDepth env.saved n x.depth, load := x.load, cnt := x.cnt } : LinkDir)
    if 32 ≤ a0 + a1 && (b0 || b1) then
      { l with
        state := .axust, lanes0 := a0, lanes1 := a1, fb0 := b0, fb1 := b1, frame0 := env.frame0, frame1 := env.frame1
        saved := env.saved, failwhy := 0, sbfail := false, acting := false
        cnt := cntInc (cntInc l.cnt 0 env.repairs) 1 (sparesUsed (0, 0) env.frame0 + sparesUsed (0, 0) env.frame1)
        d0 := fresh env.delay0 l.d0, d1 := fresh env.delay1 l.d1 }
    else bad 1

/-- What training from a link's saved settings finds where every check passes: its lanes, bundles and depths; a full training where the settings give
no AXUST width (R275). -/
def savedFind (l : Link) : LadderEnv :=
  let e : LadderEnv := { delay0 := l.d0.depth.toNat - 2, delay1 := l.d1.depth.toNat - 2 }
  if 32 ≤ axLanes l.lanes0 + axLanes l.lanes1 ∧ (l.fb0 || l.fb1) then
    { e with
      saved := true, lanes0 := l.lanes0, lanes1 := l.lanes1, frame0 := if l.fb0 then l.frame0 else (2, 2)
      frame1 := if l.fb1 then l.frame1 else (2, 2) }
  else e

/-- Note the depths of a trained link: a crossing beyond class A makes the panel report class B, and a running pattern
graded for class A stops at the next round boundary (R184). -/
def noteDepths (d p : Nat) (s : State) : State :=
  let l := linkOf s d p
  let a := if leads d p then (d, p) else (peer d p).getD (d, p)
  let b := (peer a.1 a.2).getD a
  let bad := [(a.1 * 8 + a.2, l.d0.depth.toNat), (b.1 * 8 + b.2, l.d1.depth.toNat)]
  match bad.find? fun x => decide (depthLimit false d p < x.2) with
  | none => s
  | some x =>
    if l.state ≠ .axust ∧ l.state ≠ .raw ∧ l.state ≠ .standby then s
    else
      { s with
        boot := { s.boot with classB := true }
        pat := if s.pat.running.isSome && !gradeB s then { s.pat with lgrAtEnd := some x } else s.pat }

end Sys2Proof.Machine
end

