-- ==== Sys2Proof/Machine/Repair.lean ====
section
/-! DEFINITION. Darning (chapter 14): the darn map, retirement of sites, loss of a course, the repair
sequence, set loads and failed links (R290, R291, R483 to R505). -/

namespace Sys2Proof.Machine

open Sys2Proof

/-! ## The darn map (R483 to R485) -/

/-- Change the grid. -/
def modGrid (g : Grid → Grid) (s : State) : State := { s with grid := g s.grid }

/-- Whether a wale has a free spare (R485). -/
def freeSpare (s : State) (w : Nat) : Bool :=
  skipOf s.grid.skip w == 11 && !s.grid.retired.contains (siteDie 11 w) && !courseLost s 11

/-- Whether a wale has no repair left (R485). -/
def noRepair (s : State) (w : Nat) : Bool := !freeSpare s w

/-- Set a skip register and note the time of the change. -/
def setSkip (w c : Nat) (s : State) : State :=
  modGrid (fun g => { g with skip := listMod (fun _ => c) g.skip w, changed := timeWord s }) s

/-- Put a site on the retirement list, in the state and in flash (R468). -/
def markRetired (d : Nat) (s : State) : State :=
  let s1 := modGrid (fun g => { g with retired := setIns d g.retired }) s
  { s1 with flash := { s1.flash with retired := setIns d s1.flash.retired } }

/-- Every link of a die becomes DISABLED (R493). -/
def disableLinks (d : Nat) (s : State) : State :=
  (List.range 6).foldl (fun s p =>
    if (peer d p).isSome then modLink d p (fun l => { l with state := .disabled, failwhy := 4 }) s else s) s

/-! ## Set loads (R290) -/

/-- The set flits that a stream core hands over in a set section, as budgeted cycle of the section and set-slot entry, from a
descriptor on, with the loops it is within and the cycle of the last issue (R119, R120, R126, R152). -/
def ssnWalk (budget stop : Nat) (store : List (BitVec 144)) : Nat → Nat → List LoopFrame → Option Nat → List (Nat × Nat)
  | 0, _, _, _ => []
  | n + 1, u, loops, last =>
    match store.drop u with
    | [] => []
    | e :: _ =>
      let w := (e.extractLsb' 0 16).toNat
      let d := bitsOf w 8 0
      let a := match last with
        | none => d
        | some p => if bitOf w 15 then (p / budget + 1) * budget + d else p + d
      let next := advance u loops
      if stop ≤ a then []
      else
        match decodeUop (e.extractLsb' 16 128) with
        | none => []
        | some (.knot _) => []
        | some (.ctl .loop f) =>
          if f.imm = 0 then
            (let skip := advance (next.1 - 1 + f.body.toNat) next.2
             ssnWalk budget stop store n skip.1 skip.2 (some a))
          else
            ssnWalk budget stop store n next.1
              ({ first := next.1, len := f.body.toNat, left := f.imm.toNat - 1 } :: next.2) (some a)
        | some (.fm .ssn f) =>
          ((List.range (f.lenm1.toNat + 1)).map fun i => (a + i, f.slot.toNat + i)) ++
            ssnWalk budget stop store n next.1 next.2 (some a)
        | some _ => ssnWalk budget stop store n next.1 next.2 (some a)

/-- The set flits of a site block in a set section: stitch of the handover in the section, and entry. -/
def sectFlits (b : List Byte) (x : SiteBlock) (i : Nat) : List (Nat × Nat) :=
  let stop := bitsOf (imgSection b i) 91 72 * imgBudget b
  (List.range 32).flatMap fun j =>
    (ssnWalk (imgBudget b) stop (blockStore b x j) stop (blockEntry b x i j) [] none).map fun p => (p.1 / imgBudget b, p.2)

/-- The logical steps of a route from a rank, each with the slot at which it begins, counted from the edge of the departure
stitch. -/
def stepSlots (classB : Bool) (t a : Nat) : List Nat → List ((Nat × Nat) × Nat)
  | [] => []
  | c :: l => ((a, c), t) :: stepSlots classB (t + stepBudget classB a c) c l

/-- The ranks of a logical route after its source: the dies of the route under the default darn map, less the stacks (R242). -/
def logicalRoute (order : Bool) (src dst : Nat) : List Nat := (setRoute [] order src dst).filter fun d => decide (d < 132)

/-- How many set flits take each logical step in each stitch of each set section, by a number that names all three. -/
def stepCounts (b : List Byte) : Tab Nat :=
  ((imgBlocks b).zipIdx.flatMap fun x =>
    ((List.range (imgNsect b)).filter (imgIsSet b)).flatMap fun i =>
      (sectFlits b x.1 i).flatMap fun p =>
        let e := setSlotEntry b x.2 p.2
        (stepSlots (bitOf (imgGrade b) 4) (bitsOf e 8 0) x.2 (logicalRoute (bitOf e 32) x.2 (bitsOf e 47 40))).map fun q =>
          ((i * 2 ^ 22 + p.1 + (bitOf e 10).toNat + q.2 / 512) * 132 + q.1.1) * 132 + q.1.2).foldl
    (fun t k => tabMod 0 t k (· + 1)) []

/-- The set census of an image (R290): for each logical step, as `132 * source + target`, the largest number of set flits that
take it in one stitch (log entry 48). -/
def setCensus (b : List Byte) : Tab Nat := (stepCounts b).foldl (fun t p => tabMod 0 t (p.1 % 17424) (max p.2)) []

/-- Crossings of a route as sending die and port. -/
def crossings : Nat → List Nat → List Nat
  | _, [] => []
  | a, b :: l => (match portTo a b with | some p => [a * 8 + p] | none => []) ++ crossings b l

/-- Set load of each crossing under the present darn map: the census of the logical steps that it carries (R243, R290). -/
def setLoads (s : State) : Tab Nat :=
  let k := s.grid.skip
  (setCensus (runImg s)).foldl (fun t p =>
    (crossings (physOf k (p.1 / 132)) (setRoute k false (p.1 / 132) (p.1 % 132))).foldl (fun t x => tabMod 0 t x (· + p.2)) t) []

/-- Recompute over-committed links and impaired sites (R290). -/
def recomputeLoads (s : State) : State :=
  if s.pat.running.isNone then modGrid (fun g => { g with impaired := [] }) s
  else
    let t := setLoads s
    let s1 := allLinks.foldl (fun s e =>
      let l := linkOf s e.1 e.2
      let a := tabGet 0 t (e.1 * 8 + e.2)
      let b := match peer e.1 e.2 with | some x => tabGet 0 t (x.1 * 8 + x.2) | none => 0
      if isRingLink e.1 e.2 then s
      else modLink e.1 e.2 (fun l' => { l' with
        overc := (l.state == .axust || l.state == .raw) && decide (setCapacity l < max a b)
        d0 := { l'.d0 with load := a }, d1 := { l'.d1 with load := b } }) s) s
    let bad := (allLinks.filter fun e => (linkOf s1 e.1 e.2).overc).flatMap fun e =>
      e.1 :: (match peer e.1 e.2 with | some x => [x.1] | none => [])
    modGrid (fun g => { g with impaired := rising (bad.filterMap fun d => rankOf g.skip d) }) s1

/-! ## Retirement that links bring about (R291) -/

/-- The health score of a part. -/
def scoreOf (s : State) (k : Nat) : Nat := tabGet 255 s.hlt.scores k

/-- The compute ends of a link in the order of choice: the lower score first, the follower on a tie. -/
def chargeOrder (s : State) (d p : Nat) : List Nat :=
  match peer d p with
  | none => []
  | some e =>
    let lead := if leads d p then d else e.1
    let foll := if leads d p then e.1 else d
    let l := if scoreOf s lead < scoreOf s foll then [lead, foll] else [foll, lead]
    l.filter fun x => decide (x < 144)

/-- The site charged with a link: the first choice whose wale has a free spare, or the first. -/
def chargedSite (s : State) (d p : Nat) : Option Nat :=
  let l := chargeOrder s d p
  match l.find? fun x => freeSpare s (x % 12) with
  | some x => some x
  | none => l.head?

/-- Ask for a planned repair of a site (R488, R509). -/
def plan (d cause : Nat) (s : State) : State :=
  if s.hlt.planned.any fun x => x.1 == d then s
  else { s with hlt := { s.hlt with planned := s.hlt.planned ++ [(d, cause)] } }

/-- After a change of link state or of the darn map: the timing forest and the set loads are recomputed, and under policy 0 one site is retired for
each over-committed link (R157, R290, R291). -/
def afterLinkChange (s : State) : State :=
  let s1 := recomputeLoads (reforest s)
  if s1.hlt.impaired ≠ 0 ∨ s1.pat.running.isNone then s1
  else allLinks.foldl (fun s e =>
    if (linkOf s e.1 e.2).overc then
      match (chargeOrder s e.1 e.2).find? fun x => freeSpare s (x % 12) with
      | some x => plan x 7 s
      | none => s
    else s) s1

/-! ## Moving logical sites (R79, R493, R494) -/

/-- Load every shifted site on its new die from the resident image and move its die summary. -/
def moveSites (oldSkip : List Nat) (s : State) : State :=
  let img := runImg s
  (List.range 132).foldl (fun t r =>
    let a := physOf oldSkip r
    let b := physOf s.grid.skip r
    if a = b then t
    else
      let t1 := modDie b (fun x => { x with summary := (dieOf s a).summary }) t
      match (imgBlocks img).drop r with
      | x :: _ =>
        if s.pat.running.isSome then (List.range 4).foldl (fun t k => modClu b k (fun c => loadClu s img r x k (cluFresh c)) t) t1 else t1
      | [] => t1) s

/-- Logical sites whose physical site differs between two maps. -/
def movedSites (a b : List Nat) : Nat := ((List.range 132).filter fun r => physOf a r != physOf b r).length

/-- The header switches of a compute die's clusters close, in 8 stages (R27, R493, R520). -/
def closeHeaders (d : Nat) (s : State) : State :=
  (List.range 4).foldl (fun s k => modClu d k (fun c => { c with hdr := 8 }) s) s

/-- The header switches of a compute die's clusters open: the clusters lose their power (R493, R498, R522). -/
def openHeaders (d : Nat) (s : State) : State := (List.range 4).foldl (fun s k => modClu d k unpowered s) s

/-- A spare takes the lodestar's time and the sets of the die it replaces when it is powered. -/
def powerSpare (from_ d : Nat) (s : State) : State :=
  let a := dieOf s (anchorDie s)
  let o := dieOf s from_
  closeHeaders d <| modDie d (fun x => { x with
    ref := a.ref, phase := a.phase, len := a.len, count := a.count, epoch := a.epoch
    active := o.active, shadow := o.shadow, arm := .idle }) s

/-- Wake the links that the new map of a wale needs (R295, R503): those of its last site and the wale
bypass link across the skip.  The flag says whether a needed crossing could not be had: one that set routes need, or a link of the last site that
ends FAILED and is charged to it, so that the wale holds two unusable sites (R291, R504). -/
def wakeWale (w c : Nat) (env : RepairEnv) (s : State) : State × Bool :=
  let s1 := (List.range 4).foldl (fun s p => wakeLink env.wakeFailed (siteDie 11 w) p s) s
  let spareBad := (List.range 4).any fun p => (linkOf s (siteDie 11 w) p).state == .standby && (linkOf s1 (siteDie 11 w) p).state == .failed
  if spareBad then (s1, true)
  else if 1 ≤ c ∧ c ≤ 10 then
    let d := siteDie (c - 1) w
    let s2 := wakeLink env.wakeFailed d 5 s1
    let st := (linkOf s2 d 5).state
    (s2, st != .axust && st != .raw && s.pat.running.isSome)
  else (s1, false)

/-! ## Retiring sites (R487 to R493, R505) -/

/-- A failed site: die, cause coded as DETAIL of SRT, cluster. -/
structure Fail where
  die : Nat
  cause : Nat
  clu : Nat := 0
  deriving DecidableEq, Repr

/-- Whether the panel now powers compute dies: neither bound off nor past step 2 of a bind-off. -/
def fieldUp (s : State) : Bool := !s.boot.bound && !(s.boot.binding.isSome && s.pat.running.isNone)

/-- Retire one failed site: records, the map, the links; out of service when its wale holds a second
unusable site (R501, R504). -/
def retireOne (env : RepairEnv) (s : State) (f : Fail) : State :=
  let c := f.die / 12
  let w := f.die % 12
  if s.grid.retired.contains f.die || courseLost s c || s.boot.pstate == 7 then s
  else
    let free := freeSpare s w
    let isSkip := skipOf s.grid.skip w == c
    let after := if free && !isSkip then c else skipOf s.grid.skip w
    let s1 := addFault f.die {
      code := 0x50, detail := BitVec.ofNat 16 f.cause, addr := BitVec.ofNat 32 after
      clu := if f.cause = 1 ∨ f.cause = 2 then BitVec.ofNat 2 f.clu else 0 } s
    let s2 := openHeaders f.die (disableLinks f.die (markRetired f.die s1))
    if isSkip then s2
    else if free then
      let s3 := setSkip w c s2
      if !fieldUp s then s3
      else if !env.spareOk then
        let sp := siteDie 11 w
        goOut f.die { code := 0x53, detail := BitVec.ofNat 16 w }
          (addFault sp { code := 0x50, detail := 9, addr := BitVec.ofNat 32 c } (markRetired sp s3))
      else
        let r := wakeWale w c env (powerSpare f.die (siteDie 11 w) s3)
        if r.2 then goOut f.die { code := 0x53, detail := BitVec.ofNat 16 w } r.1 else r.1
    else goOut f.die { code := 0x53, detail := BitVec.ofNat 16 w } s2

/-- What a completed repair reports (R505): the record 0x52 for the first failed site or the course, event
0x09 and the count of repairs. -/
def reportRepair (d : Nat) (course : Option Nat) (oldSkip : List Nat) (env : RepairEnv) (s : State) : State :=
  let n := movedSites oldSkip s.grid.skip
  let r : FaultRec := { code := 0x52, detail := BitVec.ofNat 16 n, addr := BitVec.ofNat 32 env.us }
  let s1 := match course with
    | none => addFault d r s
    | some c =>
      logPush { r with
        round := BitVec.ofNat 32 s.rnd.no.toNat, epoch := epochNow s, stitch := stitchNow s
        lrank := 0xFF, pcourse := BitVec.ofNat 4 c, pcol := 0xF } s
  let data := match course with
    | none => d % 12 * 256 + d / 12
    | some c => 0xFF * 256 + c
  let s2 := { s1 with hlt := { s1.hlt with repairs := min 255 (s1.hlt.repairs + 1) } }
  eventPf 9 (BitVec.ofNat 32 data) s2

/-- The body of a repair between abort and resumption: `act` changes maps and links; shifted sites are
loaded, engine flags are clear, the set loads are recomputed (R290, R291), and the repair is reported (R491, R494). -/
def repairBody (d : Nat) (course : Option Nat) (env : RepairEnv) (act : State → State) (s : State) : State :=
  let old := s.grid.skip
  let s1 := act (drainFabric s)
  if s1.boot.pstate = 7 then s1
  else
    let s2 := if fieldUp s then moveSites old s1 else s1
    let s3 := afterLinkChange (fieldFreshIf s2)
    reportRepair d course old env { s3 with flash := { s3.flash with savedSkip := s3.grid.skip } }
where
  /-- The field after a repair while a pattern runs (R83, R115). -/
  fieldFreshIf (s : State) : State := if s.pat.running.isSome then fieldFresh s else s

/-- Disarm every shadow set; a pending swap ends refused, every die with status 6 (R502). -/
def disarmAll (s : State) : State :=
  match s.swp with
  | some w => if isWindow w.kind then s else refuseSwap ((liveDies s).map fun d => (d, 6)) s
  | none => s

/-- An unplanned repair (R491): while a pattern runs the round is aborted, and replayed afterwards unless it
has been aborted four times (R490). -/
def repairNow (d : Nat) (course : Option Nat) (env : RepairEnv) (act : State → State) (s : State) : State :=
  if s.pat.running.isSome then
    let s1 := repairBody d course env act (disarmAll (abortField s))
    if s1.pat.running.isNone then s1
    else
      let s2 := { s1 with pwr := { s1.pwr with pause := 0, forced := none } }
      if !s2.rnd.active then s2
      else if 3 ≤ s2.pat.aborts then stopOnFault s2
      else replayRound { s2 with pat := { s2.pat with aborts := s2.pat.aborts + 1 } }
  else repairBody d course env act s

/-- Retire failed sites in one repair.  A site already retired, in a lost course, or skipped with nothing
to move needs none. -/
def retireSites (fs : List Fail) (env : RepairEnv) (s : State) : State :=
  let fs' := fs.filter fun f => !s.grid.retired.contains f.die && !courseLost s (f.die / 12)
  match fs' with
  | [] => s
  | f :: _ =>
    if fs'.all fun f => skipOf s.grid.skip (f.die % 12) == f.die / 12 then fs'.foldl (retireOne env) s
    else repairNow f.die none env (fun s => fs'.foldl (retireOne env) s) s

/-- A planned repair (R496): the round just admitted is aborted in its start gap and replayed; nothing
computed is lost, and the abort does not count towards R490. -/
def retirePlanned (d cause : Nat) (env : RepairEnv) (s : State) : State :=
  let w := d % 12
  if s.grid.retired.contains d || !freeSpare s w || skipOf s.grid.skip w == d / 12 then s
  else
    let act := fun s => retireOne env s { die := d, cause := cause }
    if s.pat.running.isSome then
      let s1 := repairBody d none env act (disarmAll (abortField s))
      if s1.pat.running.isSome && s1.rnd.active then
        (let s2 := replayRound s1
         { s2 with pat := { s2.pat with replay := s.pat.replay } })
      else s1
    else repairBody d none env act s

/-! ## Loss of a course (R498 to R500) -/

/-- DETAIL of CRL. -/
def courseCauseCode : CourseCause → Nat
  | .pwrGood => 1
  | .vin => 2
  | .vbase => 3

/-- The links of a die without power are DOWN (R274). -/
def linksDown (d : Nat) (s : State) : State :=
  (List.range 6).foldl (fun s p =>
    if (peer d p).isSome && (linkOf s d p).state != .disabled then modLink d p (fun l => { l with state := .down }) s else s) s

/-- What the loss of a course does to maps, stacks and links; `vinOnly` leaves the stacks in service. -/
def loseCourse (c : Nat) (cause : CourseCause) (vinOnly : Bool) (env : RepairEnv) (s : State) : State :=
  let bad := (List.range 12).any fun w => skipOf s.grid.skip w != 11 && skipOf s.grid.skip w != c
  let s1 := logPush {
    code := 0x51, detail := BitVec.ofNat 16 (courseCauseCode cause), round := BitVec.ofNat 32 s.rnd.no.toNat
    epoch := epochNow s, stitch := stitchNow s, lrank := 0xFF, pcourse := BitVec.ofNat 4 c, pcol := 0xF } s
  let s2 := modGrid (fun g => { g with lostCourses := setIns c g.lostCourses }) s1
  let s3 := (List.range 12).foldl (fun s w => openHeaders (siteDie c w) (disableLinks (siteDie c w) s)) s2
  let s4 := if vinOnly then s3 else
    (List.range 6).foldl (fun s m => linksDown (stackDie c m) <|
      let s' := if stackLost s c m then saveStackMap (modStack c m (fun x => { x with state := .dead }) s) else markLost c m .baseDie s
      settleTorn m ((env.tornRows.filter fun x => x.1 == m).map Prod.snd) s') s3
  let out := fun (s : State) => goOut (siteDie c 0) { code := 0x53, detail := 0xFF } s
  if bad || !s4.pmem.failed.isEmpty then out s4
  else
    let r := (List.range 12).foldl (fun (a : State × Bool) w =>
      if skipOf a.1.grid.skip w = 11 ∧ c ≠ 11 then
        (let s' := setSkip w c a.1
         if fieldUp s then
           (let b := wakeWale w c env (powerSpare (siteDie c w) (siteDie 11 w) s')
            (b.1, a.2 || b.2))
         else (s', a.2))
      else a) (s4, false)
    let s5 := if c = 0 ∨ c = 11 then
      (List.range 6).foldl (fun s m => wakeLink env.wakeFailed (stackDie (if c = 0 then 1 else 10) m) 4 s) r.1
      else r.1
    if r.2 then out s5 else s5

/-- Count of courses lost (R547 item 5). -/
def countCourse (c item : Nat) (s : State) : State :=
  modPwr (fun p => { p with cnt := cntInc p.cnt (16 * c + item) }) s

/-- COURSE_LOSS: the course's sites and stacks go, and a repair closes every wale round it. -/
def courseLoss (c : Nat) (cause : CourseCause) (vinOnly : Bool) (env : RepairEnv) (s : State) : State :=
  if courseLost s c then s
  else repairNow (siteDie c 0) (some c) env (loseCourse c cause vinOnly env) (countCourse c 5 s)

/-! ## Failed links (R291) -/

/-- A link has ended FAILED (R291): the round is aborted, the link is DISABLED, and the charged site is
retired; a link charged to no site takes the panel out of service when a set route needs it. -/
def linkFailed (d p : Nat) (env : RepairEnv) (s : State) : State :=
  let used := match peer d p with
    | some e => decide <| 0 < tabGet 0 (setLoads s) (d * 8 + p) + tabGet 0 (setLoads s) (e.1 * 8 + e.2)
    | none => false
  match chargedSite s d p with
  | some x =>
    let s1 := modLink d p (fun l => { l with state := .disabled }) (chargeFault x s)
    retireSites [{ die := x, cause := 4 }] env s1
  | none =>
    if s.pat.running.isSome then
      let s1 := abortReplay s
      if used then goOutOfService d s1 else afterLinkChange s1
    else s

end Sys2Proof.Machine
end

