-- ==== Sys2Proof/Machine/Rings.lean ====
section
/-! DEFINITION. Rings and requests up to admission (R347 to R349, R364, R368, R379 to R384, R390 to R392):
shapers, descriptor fetch, and the requests that need no row. -/

namespace Sys2Proof.Machine

open Sys2Proof

/-! ## Shapers (R391 to R393) -/

/-- One token in the units of a balance. -/
def tokenUnit : Nat := 16777216

/-- Whether a shaper is unlimited. -/
def unlimited (x : Shaper) : Bool := x.rate == 0xFFFFFFFF

/-- Bring a limited shaper up to a reference count: RATE times the elapsed time, exactly, capped at DEPTH. -/
def accrue (ref : W64) (x : Shaper) : Shaper :=
  if unlimited x then { x with at_ := ref }
  else
    let num := x.rate * (ref - x.at_).toNat * tokenUnit + x.rem
    let bal := x.bal + (num / 2000000000 : Nat)
    let cap : Int := x.depth * tokenUnit
    if cap ≤ bal then { x with bal := cap, rem := 0, at_ := ref }
    else { x with bal := bal, rem := num % 2000000000, at_ := ref }

/-- A new RATE and DEPTH from a reference count on (R393): the balance is first brought up at the old rate; a
change to or from unlimited sets it to DEPTH; a new DEPTH caps a credit and leaves a debt. -/
def setShaper (rate depth : Nat) (ref : W64) (x : Shaper) : Shaper :=
  let y := { accrue ref x with rate := rate, depth := depth }
  let cap : Int := depth * tokenUnit
  if (rate == 0xFFFFFFFF) != unlimited x then { y with bal := cap, rem := 0 }
  else if cap < y.bal then { y with bal := cap, rem := 0 }
  else y

/-- RATE clamped to its range (R391). -/
def clampRate (r : Nat) : Nat := if r = 0xFFFFFFFF then r else min r 1000000000
/-- DEPTH clamped to its range. -/
def clampDepth (d : Nat) : Nat := min 1048576 (max 1 d)

/-- Set a tenant's prompt (0) or generation (1) shaper. -/
def applyShaper (t sh rate depth : Nat) (s : State) : State :=
  modTen t (fun x =>
    if sh = 0 then { x with prompt := setShaper rate depth (refNow s) x.prompt }
    else { x with gener := setShaper rate depth (refNow s) x.gener }) s

/-- Accrual of every tenant at a boundary. -/
def accrueAll (s : State) : State :=
  let r := refNow s
  (allTenants s).foldl (fun s t =>
    let x := tenOf s t
    if unlimited x.prompt && unlimited x.gener then s
    else modTen t (fun x => { x with prompt := accrue r x.prompt, gener := accrue r x.gener }) s) s

/-- Charge a shaper; an unlimited one is never charged. -/
def charge (n : Nat) (x : Shaper) : Shaper := if unlimited x then x else { x with bal := x.bal - (n * tokenUnit : Nat) }

/-- Whether a shaper lets a request in. -/
def shaperOpen (x : Shaper) : Bool := unlimited x || decide (0 < x.bal)

/-! ## Completion entries (R382) -/

/-- Free and unreserved completion entries of a ring. -/
def cqRoom (s : State) (t i : Nat) : Nat :=
  let q := ringOf s t i
  2 ^ q.k - (q.cqTail - q.cqHead) - ((s.rnd.reqs.filter fun r => r.tenant == t && r.pair == i).map (·.resv)).sum

/-! ## Fetching (R383, R384, R349) -/

/-- Operation codes (R380). -/
def opOpen : Nat := 1
/-- APPEND. -/
def opAppend : Nat := 2
/-- STEP. -/
def opStep : Nat := 3
/-- DRAFT. -/
def opDraft : Nat := 4
/-- CANCEL. -/
def opCancel : Nat := 5
/-- CLOSE. -/
def opClose : Nat := 6
/-- PARK. -/
def opPark : Nat := 7
/-- UNPARK. -/
def opUnpark : Nat := 8

/-- Index of a request that names no session. -/
def noIndex : Nat := 0x100000

/-- Whether a descriptor is malformed (R380). -/
def badDesc (op : Nat) (d : Desc) : Bool :=
  op == 0 || decide (8 < op) ||
    ((op == 2 || op == 4) && (if d.inline then decide (8 < d.count.toNat) else d.arg.toNat % 4 != 0))

/-- COUNT after clamping (R348, R380); a DRAFT is clamped to the pattern's limits at its turn. -/
def clampCount (op : Nat) (d : Desc) : Nat :=
  let n := d.count.toNat
  if op = 2 then (let m := min 65536 (max 1 n); if d.inline then min 8 m else m)
  else if op = 3 then min 65535 (max 1 n)
  else if op = 4 then (let m := max 1 n; if d.inline then min 8 m else m)
  else n

/-- A list of `n` tokens; those that are missing are 0, as the unused words of a descriptor are. -/
def fitToks (n : Nat) (l : List W32) : List W32 := (l ++ List.replicate (n - l.length) 0).take n

/-- A request as it is fetched. -/
def mkReq (s : State) (t i op : Nat) (d : Desc) : Req :=
  { id := s.rnd.nextId, tenant := t, pair := i, op := op, d := d
    index := if op = 1 then noIndex else (sessionNamed s t d.handle).getD noIndex
    toks := if op = 2 ∨ op = 4 then (if d.inline then some (fitToks (clampCount op d) d.toks) else none) else some []
    left := clampCount op d }

/-- A hit (R368): a MARKED session's age-out is cancelled, a PARKED one's unpark starts. -/
def hit (op i : Nat) (s : State) : State :=
  if i = noIndex then s
  else
    match (sessOf s i).state with
    | .marked => if op = 7 then s else cancelMark i s
    | .parked => if op = 6 ∨ op = 7 then s else (startUnpark i s).getD s
    | _ => s

/-- Fetched requests of a session that count against its four. -/
def fetchedOf (s : State) (i : Nat) : Nat :=
  (s.rnd.reqs.filter fun r => r.index == i && r.op != 5 && r.op != 1).length

/-- The target of a CANCEL: the oldest uncompleted request of the session with the USERTAG of ARG, or the
oldest (R380). -/
def cancelTarget (s : State) (r : Req) : Option Req :=
  s.rnd.reqs.find? fun x => x.index == r.index && x.op != 5 && x.op != 1 && x.intern.isNone &&
    (r.d.arg == 0 || x.d.usertag == r.d.arg)

/-- Act on a CANCEL (R364). -/
def actCancel (r : Req) (s : State) : State :=
  let fin := fun (st : Nat) (s : State) =>
    putRecord r.tenant r.pair r.d.noint { usertag := r.d.usertag, handle := r.d.handle, status := st
                                          len := if st = 1 then 0 else (sessOf s r.index).len } s
  if r.index = noIndex then fin stStale s
  else
    match cancelTarget s r with
    | none => fin stOk s
    | some x =>
      let s1 := if x.started then modReq x.id (fun y => { y with cancelled := true }) s
                else finishReq x stCancelled 0 s
      fin stOk s1

/-- Take one fetched descriptor. -/
def takeDesc (t i : Nat) (p : Nat × Desc) (s : State) : State :=
  let r := mkReq s t i p.1 p.2
  let s1 := modRing t i (fun q => { q with
    posted := tabDel q.posted q.sqHead, sqHead := (q.sqHead + 1) % 2 ^ q.k }) s
  let s2 := fnCount64 t 0x10120 1 (fnCount t (0x10200 + 16 * i) 1
    (modRnd (fun x => { x with nextId := x.nextId + 1 }) s1))
  if p.1 = 5 ∧ 0 < cqRoom s2 t i then actCancel r s2
  else hit p.1 r.index (modRnd (fun x => { x with reqs := x.reqs ++ [r] }) s2)

/-- Whether fetching pauses at a descriptor: its session already holds 4 fetched requests. -/
def pausesAt (s : State) (t : Nat) (p : Nat × Desc) : Bool :=
  let j := (sessionNamed s t p.2.handle).getD noIndex
  p.1 != 1 && p.1 != 5 && j != noIndex && decide (4 ≤ fetchedOf s j)

/-- The tail of a ring as the snapshot of the present stitch has it (R41, R351): a snapshot stands at the start of
its stitch, so a doorbell that arrives within the stitch joins the next one. -/
def snapTail (q : RingPair) (now : BitVec 48) : Nat := if q.tailAt == some now then q.tailWas else q.sqTail

/-- A new SQ_TAIL that reaches the round controller in stitch `now`. -/
def moveTail (now : BitVec 48) (tail : Nat) (q : RingPair) : RingPair :=
  { q with sqTail := tail, tailWas := snapTail q now, tailAt := some now }

/-- Fetch up to `n` descriptors of a ring towards its snapshot tail; a pause is counted (R383, R576). -/
def fetchRing (t i : Nat) : Nat → State → State
  | 0, s => s
  | n + 1, s =>
    let q := ringOf s t i
    if q.sqHead = snapTail q (stitchNow s) ∨ 16384 ≤ s.rnd.reqs.length then s
    else
      match q.posted.find? fun x => x.1 == q.sqHead with
      | none => s
      | some (_, p) =>
        if pausesAt s t p then fnCount t (0x1020C + 16 * i) 1 s
        else fetchRing t i n (takeDesc t i p s)

/-- Whether the panel fetches from a ring (R377, R379, R384, R394). -/
def ringLive (s : State) (t i : Nat) : Bool :=
  let q := ringOf s t i
  q.en && !q.err && (fnOf s t).bme && !(tenOf s t).resetting && fnExists s t

/-- Descriptor fetch of a boundary: 64 at most from each ring. -/
def fetchAll (s : State) : State :=
  (allTenants s).foldl (fun s t =>
    (List.range 8).foldl (fun s i => if ringLive s t i then fetchRing t i 64 s else s) s) s

/-! ## Requests that need no row (R347, R353) -/

/-- What becomes of a request at its turn: it completes, it waits, or its rows are to be admitted. -/
inductive Turn where
  | finish (status : Nat) (s : State)
  | wait (s : State)
  | rows

/-- OPEN (R334, R339, R390). -/
def openSession (r : Req) (s : State) : Turn :=
  if (tenOf s r.tenant).quota ≤ (tenantSessions s r.tenant).length then .finish stQuota s
  else
    match takeIndex s with
    | none => .finish stNoSpace s
    | some (i, s1) =>
      let s2 := putSess i { gen := (sessOf s i).gen, state := .active, tenant := r.tenant, seed := r.d.arg } s1
      .finish stOk (modReq r.id (fun x => { x with index := i })
        (tailEntry i 0 3 0 0 0 (natLe 8 r.d.arg.toNat) s2))

/-- The tokens of a request, cut to what it applies. -/
def reqToks (r : Req) : List W32 := (r.toks.getD []).take r.left

/-- APPEND of one token to a session of LEN 0 (R347). -/
def appendFirst (r : Req) (s : State) : Turn :=
  match growTo r.index 1 s with
  | none => .wait s
  | some s1 =>
    let t := reqToks r
    let s2 := modSess r.index (fun x => { x with len := 1, npage := 1, idle := 0 }) (writeHist r.index 0 t s1)
    .finish stOk (tailEntry r.index 0 1 1 (crc32Bytes (tokBytes t)) 0 [] s2)

/-- The drafts of a DRAFT that the running pattern takes: min(DRAFTMAX, BATCHMAX - 1) at most (R348). -/
def draftCap (s : State) (r : Req) : Nat :=
  min r.left (min (leAt (runImg s) 0x1C 1) (leAt (runImg s) 0x1A 2 - 1))

/-- Drafts that fit below the sequence limit (R353). -/
def draftFit (s : State) (r : Req) : Nat := min (draftCap s r) (licSeqMax s.boot.lic - (sessOf s r.index).len - 1)

/-- A request that computes, on a session that is ready for it: checks first, then rows (R347, R348,
R353). -/
def rowTurn (r : Req) (s : State) : Turn :=
  let x := sessOf s r.index
  let lim := licSeqMax s.boot.lic
  if r.started then .rows
  else if s.pat.running.isNone then .wait s
  else if r.op = 2 then
    (if r.toks.isNone then .wait s
     else if (reqToks r).any fun t => decide ((layNow s).vocab ≤ t.toNat) then .finish stBad s
     else if lim < x.len + r.left then .finish stLimit s
     else if x.len = 0 ∧ r.left = 1 then appendFirst r s
     else .rows)
  else if r.op = 3 then
    (if x.len = 0 then .finish stBad s
     else if lim ≤ x.len then .finish stLimit s
     else .rows)
  else
    (if r.toks.isNone then .wait s
     else if x.len = 0 then .finish stBad s
     else if ((r.toks.getD []).take (draftCap s r)).any fun t => decide ((layNow s).vocab ≤ t.toNat) then .finish stBad s
     else if draftCap s r = 0 then (if lim ≤ x.len then .finish stLimit s else .rows)
     else if draftFit s r = 0 then .finish stLimit s
     else .rows)

/-- The turn of a request whose session has no earlier one. -/
def turnOf (r : Req) (s : State) : Turn :=
  if r.intern.isSome then rowTurn r s
  else if badDesc r.op r.d then .finish stBad s
  else if r.op = 1 then openSession r s
  else if (sessionNamed s r.tenant r.d.handle).isNone ∨ r.index = noIndex then .finish stStale s
  else if r.op = 5 then .finish stOk (actCancelOnly s)
  else
    match (sessOf s r.index).state with
    | .free => .finish stStale s
    | .failed => if r.op = 6 then .finish stOk (freeSession r.index s) else .finish stFailed s
    | .unparking =>
      if r.op = 7 then .finish stOk s else .wait s
    | .parked =>
      if r.op = 6 then .finish stOk (freeSession r.index s)
      else if r.op = 7 then .finish stOk s
      else .wait ((startUnpark r.index s).getD s)
    | .marked =>
      if r.op = 6 then .finish stOk (freeSession r.index s)
      else if r.op = 7 ∨ r.op = 8 then .finish stOk s
      else rowTurn r (cancelMark r.index s)
    | .active =>
      if r.op = 6 then .finish stOk (freeSession r.index s)
      else if r.op = 7 then
        (if (sessOf s r.index).npage = 0 then .finish stOk s
         else match startMark r.index false s with
           | some s1 => .finish stOk s1
           | none => .finish stNoSpace s)
      else if r.op = 8 then .finish stOk s
      else rowTurn r s
where
  /-- A CANCEL that had to wait for a completion entry acts when it is carried out. -/
  actCancelOnly (s : State) : State :=
    match cancelTarget s r with
    | none => s
    | some x => if x.started then modReq x.id (fun y => { y with cancelled := true }) s else finishReq x stCancelled 0 s

/-- Whether an earlier request of the same session is still uncompleted (R349). -/
def hasEarlier (s : State) (r : Req) : Bool :=
  r.op != 1 && r.op != 5 && r.index != noIndex &&
    (s.rnd.reqs.any fun x => x.index == r.index && x.op != 1 && x.op != 5 && decide (x.id < r.id))

/-- Complete a request that needed no row. -/
def finishNow (id status : Nat) (s : State) : State :=
  match reqOf s id with
  | none => s
  | some r =>
    let r1 := { r with
      d := { r.d with handle := if r.op = 1 ∧ status = stOk then handleOf s r.index else r.d.handle }
      applied := if r.op = 2 ∧ status = stOk then r.left else if r.op = 2 ∨ r.op = 3 ∨ r.op = 4 then r.applied else 0
      clamped := (r.op = 2 ∨ r.op = 3 ∨ r.op = 4) && status == stOk && r.left != r.d.count.toNat }
    let r2 := if status = stStale ∨ (r.op = 1 ∧ status ≠ stOk) then { r1 with index := noIndex } else r1
    finishReq r2 status 0 s

/-- Whether a request that waits does so for pages (R352): its session is still PARKED, or the first page
of its session is to be had. -/
def lacksPages (s : State) (r : Req) : Bool :=
  let x := sessOf s r.index
  x.state == .parked ||
    (x.state == .active && r.op == 2 && r.toks.isSome && s.pat.running.isSome && x.len == 0 && r.left == 1)

/-- Carry out one request's turn; its record needs a free completion entry (R382). -/
def carryOne (id : Nat) (s : State) : State :=
  match reqOf s id with
  | none => s
  | some r =>
    if r.inRound || r.started || hasEarlier s r || (tenOf s r.tenant).resetting then s
    else if r.intern.isNone && cqRoom s r.tenant r.pair = 0 then s
    else
      match turnOf r s with
      | .finish st s1 => finishNow id st s1
      | .wait s1 => modReq id (fun x => { x with waitPages := lacksPages s1 r }) s1
      | .rows => s

/-- Carry out, in the order of fetch, every request that needs no row. -/
def carryOut (s : State) : State := (s.rnd.reqs.map (·.id)).foldl (fun s id => carryOne id s) s

/-- Requests that a CANCEL ends at a boundary before admission (R364). -/
def endCancelled (s : State) : State :=
  (s.rnd.reqs.filter fun r => r.cancelled && !r.inRound).foldl (fun s r =>
    finishReq { r with resv := 0 } stCancelled 0 s) s

/-! ## Doorbells (R378, R379, R382) -/

/-- Whether a new tail is accepted. -/
def tailOk (q : RingPair) (t' : Nat) : Bool :=
  let n := 2 ^ q.k
  decide ((q.sqTail + n - q.sqHead) % n ≤ (t' % n + n - q.sqHead) % n)

/-- Stop a ring with a reason, raising vector 2 (R379, R384). -/
def stopRing (t i why : Nat) (s : State) : State :=
  raiseFaultFor [t] (setCause t 0x400 (modRing t i (fun q => { q with err := true, why := why }) s))

/-- Return completion entries: the index is taken modulo the ring, never beyond what was written. -/
def returnCq (h : Nat) (q : RingPair) : RingPair :=
  let n := 2 ^ q.k
  let d := (h % n + n - q.cqHead % n) % n
  -- a head equal to the old one after a full ring returns nothing
  { q with cqHead := min q.cqTail (q.cqHead + d) }

/-- A write to the doorbells of a ring pair of a tenant.  Counted and ignored when the pair is disabled or
its tenant is under reset. -/
def doorbell (t i : Nat) (tail head : Option W16) (s : State) : State :=
  let q := ringOf s t i
  if !q.en || (tenOf s t).resetting then fnCount t 0x10010 1 s
  else
    let s1 := match head with
      | some h => modRing t i (returnCq h.toNat) s
      | none => s
    match tail with
    | none => s1
    | some x =>
      if tailOk (ringOf s1 t i) x.toNat then modRing t i (fun q => moveTail (stitchNow s) (x.toNat % 2 ^ q.k) q) s1
      else stopRing t i 2 s1

end Sys2Proof.Machine
end

