-- ==== Sys2Proof/Machine/Swaps.lean ====
section
/-! DEFINITION. Configuration-set swaps (R190 to R193, R222, R436) and timers (R189). -/

namespace Sys2Proof.Machine

open Sys2Proof

/-! ## Answers to arming -/

/-- Whether every live die has armed for the pending swap. -/
def allArmed (s : State) : Bool := (liveDies s).all fun d => (dieOf s d).arm == .armed

/-- Stitches from the lodestar's present one to a target, none when the target is past (R188). -/
def toTarget (s : State) (t : BitVec 48) : Nat := (stitchAhead t (stitchNow s)).getD 0

/-- Slot times in which every die must answer a MODE_SET or a change of a window (R193): 1 ms. -/
def armTime : Nat := 2000000

/-- Whether the time in which the dies answer is over: stitch T - 64 has come (R190), or 1 ms has passed since take-up (R193). -/
def armOver (s : State) (w : Swap) : Bool :=
  match w.kind, w.target with
  | .sets, some t => decide (toTarget s t ≤ 64)
  | _, _ => decide (armTime ≤ (refNow s - w.since).toNat)

/-- ARM_ANSWER: a die answers armed or not ready; one that is not ready ends the swap at once (R190).  An answer after the time for it is
none. -/
def armAnswer (die : Nat) (ready : Bool) (s : State) : State :=
  match s.swp with
  | none => s
  | some w =>
    if !dieLive s die || (dieOf s die).arm != .idle || w.sent || armOver s w then s
    else if ready then
      { modDie die (fun x => { x with arm := .armed }) s with swp := some { w with armed := setIns die w.armed } }
    else refuseSwap [(die, 2)] s

/-- ARM_TIMEOUT: a die has given no answer in time: the swap is refused and every die disarmed. -/
def armTimeout (s : State) : State :=
  match s.swp with
  | none => s
  | some w =>
    if w.sent || allArmed s || !armOver s w then s
    else refuseSwap (((liveDies s).filter fun d => (dieOf s d).arm != .armed).map fun d => (d, 1)) s

/-! ## Commit, nack, withhold, swap -/

/-- The swap frame reaches every live die; a die that has not armed sends a nack (R190). -/
def sendSwap (target : BitVec 48) (s : State) : State :=
  match s.swp with
  | none => s
  | some w =>
    let bad := (liveDies s).filter fun d => (dieOf s d).arm != .armed
    let s1 := modDies (liveDies s) (fun x => { x with swapGot := some target }) s
    { s1 with swp := some { w with sent := true, target := some target }
              lode := { s1.lode with nacks := bad.foldl (fun l d => setIns d l) s1.lode.nacks } }

/-- SWAP: the frame that commits a swap and names its target, at stitch T - 8; only a swap that waits for this target and
whose dies have all armed is committed. -/
def swapFrame (target : BitVec 48) (s : State) : State :=
  match s.swp with
  | some w => if w.target == some target && !w.sent && allArmed s && toTarget s target == 8 then sendSwap target s else s
  | none => s

/-- NACK: a die that is not ready, while the lodestar can still withhold the swap: before stitch T - 2, or before a knot's fire has
committed a MODE_SET (R190, R193). -/
def nack (die : Nat) (s : State) : State :=
  match s.swp with
  | none => s
  | some w =>
    let open_ := if w.sent then decide (2 < toTarget s (w.target.getD 0)) else (match w.kind with | .mode _ => true | _ => false)
    if dieLive s die && open_ then { s with lode := { s.lode with nacks := setIns die s.lode.nacks } } else s

/-- WITHHOLD: at stitch T - 2 a lodestar that has received a nack withholds the swap, so that no die swaps (R190). -/
def withhold (target : BitVec 48) (s : State) : State :=
  match s.swp with
  | none => s
  | some w =>
    if w.sent && w.target == some target && !s.lode.nacks.isEmpty && toTarget s target == 2 then
      { modDies (liveDies s) (fun x => { x with withheld := true }) s with swp := some { w with withheld := true } }
    else s

/-- Exchange a die's sets: the former active set becomes the shadow set, until Herus copies the new one over it (R190, R436). -/
def exchange (t : BitVec 48) (x : Die) : Die :=
  { x with active := x.shadow, shadow := x.active, arm := .idle, swapGot := none, withheld := false, stale := true
           lastSwap := x.epoch ++ t }

/-- Herus copies the active set of every die that has swapped into its shadow set (R436); the sets of dies that are to be returned
stay as they are. -/
def copySets (s : State) : State :=
  if s.lode.returning.isEmpty then
    { s with dies := tabMap {} (fun x => if x.stale then { x with shadow := x.active, stale := false } else x) s.dies }
  else s

/-- Put a mode into force at the lodestar: dies that are in its present stitch already have that stitch's new length (R166, R193). -/
def putMode (m : Mode) (s : State) : State :=
  if s.lode.mode = m then s
  else
    let s1 := modDies ((liveDies s).filter fun d => (dieOf s d).count == stitchNow s)
      (fun x => { x with len := x.len + modeSlots m - modeSlots s.lode.mode }) s
    { s1 with lode := { s1.lode with mode := m } }

/-- Take the items of the active sets into use: the mode at the lodestar, the clusters' voltage ceilings, and
the shapers that the swap changed, at the swap stitch (R434). -/
def useSets (old : CfgSet) (s : State) : State :=
  let now := (dieOf s (anchorDie s)).active
  let s1 := putMode now.mode s
  let s2 := (liveDies s1).foldl (fun s d =>
    if d < 144 then
      (dieOf s d).active.vceil.foldl (fun s p => modClu d p.1 (fun c => { c with vceil := p.2 }) s) s
    else s) s1
  (now.shapers.filter fun p => !old.shapers.contains p).foldl (fun s p =>
    applyShaper (p.1 / 2) (p.1 % 2) p.2.1 p.2.2 s) s2

/-- The swap happens on every die. -/
def doSwap (s : State) : State :=
  match s.swp with
  | none => s
  | some w =>
    let t := w.target.getD (stitchNow s)
    let s1 := useSets (dieOf s (anchorDie s)).active (modDies (liveDies s) (exchange t) s)
    finishLongs isSwapOp (swapRsp rsOk []) { s1 with swp := none, lode := { s1.lode with nacks := [], swapOp := swapHolder w } }

/-- Return the dies that swapped at a target that others missed to their former sets, by a swap in the present stitch (R192). -/
def returnSwapped (s : State) : State :=
  if s.lode.returning.isEmpty then s
  else
    let old := (dieOf s (anchorDie s)).active
    let s1 := useSets old (modDies s.lode.returning (exchange (stitchNow s)) s)
    { s1 with lode := { s1.lode with returning := [] } }

/-- The target stitch where some dies missed the swap: the others swap, the command is refused, and Herus returns them in the recovery that
the TBM brings about, or at once where no round runs (R192, log entry 136). -/
def partSwap (t : BitVec 48) (missed : List Nat) (s : State) : State :=
  let got := (liveDies s).filter fun d => !missed.contains d
  let s1 := useSets (dieOf s (anchorDie s)).active (modDies got (exchange t) s)
  let s2 := refuseSwap (missed.map fun d => (d, 4)) { s1 with lode := { s1.lode with returning := got, swapOp := (s.swp.map swapHolder).getD s1.lode.swapOp } }
  if s2.rnd.active then s2 else returnSwapped s2

/-- The start of the target stitch (R190, R192): with a nack or a withhold no die swaps; where a die missed the swap, the others do and are
returned. -/
def swapAtTarget (s : State) : State :=
  match s.swp with
  | none => s
  | some w =>
    if !w.sent || w.target != some (stitchNow s) then s
    else if w.withheld || !s.lode.nacks.isEmpty then refuseSwap (s.lode.nacks.map fun d => (d, 3)) s
    else
      let missed := (liveDies s).filter fun d => (dieOf s d).swapGot.isNone
      if missed.isEmpty then doSwap s else partSwap (w.target.getD 0) missed s

/-! ## Windows of tenants (R222) -/

/-- Give the running pattern the tenants' windows, in its image and in every die. -/
def applyWindows (s : State) : State :=
  match s.pat.running with
  | none => s
  | some b =>
    let b' := rewindowAll s b
    writeBlocks b' (reloadWindows b' { s with pat := { s.pat with running := some b' } })

/-- A change of a tenant's window reaches the pattern at a round boundary, once every die has armed; one whose values do not fit the running
pattern's fields is refused there. -/
def windowSwap (s : State) : State :=
  match s.swp with
  | some w =>
    (match w.kind with
    | .window t =>
      if allArmed s then
        (let new := (longFns s fun o => match o with | .window _ _ => true | _ => false).findSome? fun f =>
          match (fnOf s f).mb.long with
          | some (_, .window _ cfg) => some cfg
          | _ => none
         let s1 := match new with
          | some cfg => modTen t (fun x => { x with
              win := { stripe := cfg.wstripe.toNat, off := cfg.woff.toNat, len := cfg.wlen.toNat } }) s
          | none => s
         if !windowsFit s1 (runImg s1) then refuseSwap [] s
         else
         let s2 := modDies (liveDies s1) (fun x => { x with arm := .idle }) (applyWindows s1)
         finishLongs isSwapOp (swapRsp rsOk []) { s2 with swp := none })
      else s
    | _ => s)
  | none => s

/-! ## Modes (R193) -/

/-- A knot's fire commits an armed MODE_SET, to be taken at its offset. -/
def modeCommit (at_ : BitVec 48) (s : State) : State :=
  match s.swp with
  | some w =>
    (match w.kind with
    | .mode _ =>
      if w.sent || !allArmed s then s
      else if !s.lode.nacks.isEmpty then refuseSwap (s.lode.nacks.map fun d => (d, 3)) s
      else sendSwap at_ s
    | _ => s)
  | none => s

/-- When the pattern stops, an armed MODE_SET is committed for the stitch 512 stitches on (R193, R436). -/
def modeAfterStop (s : State) : State :=
  match s.swp with
  | some w =>
    (match w.kind with
    | .mode _ => if w.sent || w.target.isSome then s else { s with swp := some { w with target := some (stitchNow s + 512) } }
    | _ => s)
  | none => s

/-- Lean on every live die, without a swap (R181): mode and set point of lean take effect. -/
def forceLean (s : State) : State :=
  putMode .lean (modDies (liveDies s) (fun x => { x with
    active := { x.active with mode := .lean }, shadow := { x.shadow with mode := .lean } }) s)

/-- A pending lean entry takes effect, with event 0x04 unless the panel is in lean already (R181): at a knot (0) or at a
forced point (1). -/
def leanNow (how : W32) (s : State) : State :=
  if s.pwr.leanDue then
    let s1 := modPwr (fun p => { p with leanDue := false, forced := none }) s
    if s.lode.mode = .lean then s1 else eventPf 4 how (forceLean s1)
  else s

/-- The stitch start at which a lean entry has been named. -/
def leanPoint (die : Nat) (s : State) : State :=
  if die = anchorDie s ∧ s.pwr.forced = some (stitchNow s) then leanNow 1 s else s

/-! ## Timers (R189, R429) -/

/-- TIMER_FIRE: at the start of its target stitch, as the lodestar counts, a timer of a function fires and its event is signalled;
`late` says that the target had passed when the timer was armed, which fires it at once. -/
def timerFire (fn timer : Nat) (late : Bool) (s : State) : State :=
  match tabGet none (fnOf s fn).timers timer with
  | none => s
  | some t =>
    if late || t == stitchNow s then
      event fn 1 late (BitVec.ofNat 32 timer) (modFn fn (fun x => { x with timers := tabPut none x.timers timer none }) s)
    else s

end Sys2Proof.Machine
end

