-- ==== Sys2Proof/Machine/Rounds.lean ====
section
/-! DEFINITION. Rounds (R41 to R43, R330 to R372): admission, the round descriptor, the commit, ageing, pacing
(R528, R540) and the boundary between rounds. -/

namespace Sys2Proof.Machine

open Sys2Proof

/-! ## Offers: what a request would take (R350, R352, R382, R392) -/

/-- What a request would take of a round: kind, rows, d, APPEND tokens added, completion entries, pages. -/
structure Offer where
  kind : Nat
  rows : Nat
  d : Nat := 0
  add : Nat := 0
  entries : Nat
  pages : Nat
  deriving DecidableEq, Repr

/-- Rows that a round in preparation still has. -/
def roomLeft (s : State) : Nat := imgBatch (runImg s) - (s.rnd.parts.map (·.rows)).sum

/-- The pages that hold a number of tokens. -/
def pagesFor (n : Nat) : Nat := ceilDiv n 256

/-- The offer of a request with `room` rows left; `none` when it has no place. -/
def offerOf (s : State) (r : Req) (room : Nat) : Option Offer :=
  let n := (sessOf s r.index).len
  if r.op = 2 then
    let rows := min (if n = 0 then r.left - 1 else r.left) (min (layNow s).appendMax room)
    let add := rows + if n = 0 then 1 else 0
    if rows = 0 then none
    else some { kind := 1, rows := rows, add := add, entries := if r.started then 0 else 1, pages := pagesFor (n + add) }
  else if r.op = 3 then
    (if room = 0 then none else some { kind := 0, rows := 1, entries := 1, pages := pagesFor (n + 1) })
  else
    let d := draftFit s r
    if room < d + 1 then none
    else some { kind := 2, rows := d + 1, d := d, entries := d + 1, pages := pagesFor (n + d + 1) }

/-- The shaper that a request is charged to. -/
def shaperOf (s : State) (r : Req) : Shaper := if r.op = 2 then (tenOf s r.tenant).prompt else (tenOf s r.tenant).gener

/-- Whether the round fence lets a request's rows in (R560). -/
def fenceLets (s : State) (r : Req) : Bool :=
  !s.rnd.fence || r.intern.isSome || s.rnd.fenceSess.contains r.index

/-- Whether a request's rows may be admitted at this boundary, apart from room, completion entries and
pages. -/
def eligible (s : State) (r : Req) : Bool :=
  !r.inRound && !r.cancelled && (r.op == 2 || r.op == 3 || r.op == 4) && !hasEarlier s r &&
    !(tenOf s r.tenant).resetting && fenceLets s r && shaperOpen (shaperOf s r) &&
    (match turnOf r s with | .rows => true | _ => false)

/-- Whether an offer's completion entries fit (R382). -/
def entriesFit (s : State) (r : Req) (o : Offer) : Bool :=
  r.intern.isSome || decide (o.entries ≤ cqRoom s r.tenant r.pair)

/-! ## Admission (R350, R352, R385) -/

/-- The tokens that an admitted request brings: those that an APPEND adds, or the drafts. -/
def offerToks (r : Req) (o : Offer) : List W32 :=
  let l := r.toks.getD []
  if o.kind = 1 then (l.drop (if r.started then r.applied - r.left else 0)).take o.add else l.take o.d

/-- The first position that a part's rows consume. -/
def firstPos (n : Nat) : Nat := n - 1

/-- Charge an admitted request's rows and count them (R392, R576). -/
def chargeRows (r : Req) (n : Nat) (s : State) : State :=
  if r.op = 2 then
    fnCount64 r.tenant 0x10100 n (modTen r.tenant (fun x => { x with prompt := charge n x.prompt }) s)
  else
    fnCount64 r.tenant 0x10108 n (modTen r.tenant (fun x => { x with gener := charge n x.gener }) s)

/-- Admit a request with its offer: its tokens go to the history tentatively, its rows join the round. -/
def takeOffer (r : Req) (o : Offer) (s : State) : State :=
  let n := (sessOf s r.index).len
  let toks := offerToks r o
  let s1 := writeHist r.index n toks s
  let part : Part := {
    req := r.id, index := r.index, kind := o.kind, pos := firstPos n, rows := o.rows, d := o.d
    toks := if o.kind = 1 then toks else [] }
  let applied := if r.started then r.applied else if o.kind = 2 then o.d else r.left
  let s2 := modReq r.id (fun x => { x with
    started := true, inRound := true, waitPages := false, late := false, applied := applied
    clamped := applied != x.d.count.toNat, resv := x.resv + (if r.intern.isSome then 0 else o.entries) }) s1
  chargeRows r o.rows (modRnd (fun x => { x with parts := x.parts ++ [part] }) s2)

/-- Try to admit one request; the flag says whether it joined the round. -/
def admitOne (id : Nat) (s : State) : State × Bool :=
  match reqOf s id with
  | none => (s, false)
  | some r =>
    if !eligible s r || decide (8192 ≤ s.rnd.parts.length) then (s, false)
    else
      match offerOf s r (roomLeft s) with
      | none => (if r.op = 4 then modReq id (fun x => { x with late := true }) s else s, false)
      | some o =>
        if !entriesFit s r o then (s, false)
        else
          match growTo r.index o.pages (cancelMark r.index s) with
          | none => (modReq id (fun x => { x with waitPages := true }) s, false)
          | some s1 => (takeOffer r o s1, true)

/-- Continuing requests, oldest first. -/
def admitContinuing (s : State) : State :=
  ((s.rnd.reqs.filter fun r => r.started || r.late).map (·.id)).foldl (fun s id => (admitOne id s).1) s

/-- The new requests of a tenant in the order in which its turn offers them: the rings in turn after the
one that supplied the last, each with its oldest first (R385). -/
def turnOrder (s : State) (t : Nat) : List Req :=
  (List.range 8).flatMap fun i =>
    s.rnd.reqs.filter fun r => r.tenant == t && r.pair == ((tenOf s t).lastRing + 1 + i) % 8 &&
      !r.started && !r.late && r.intern.isNone

/-- Take one request of a tenant: the first of a list that can be admitted. -/
def takeTurn (t : Nat) : List Req → State → State × Bool
  | [], s => (s, false)
  | r :: l, s =>
    let x := admitOne r.id s
    if x.2 then (modTen t (fun y => { y with lastRing := r.pair }) x.1, true) else takeTurn t l x.1

/-- The tenants from `t` on, in cyclic order. -/
def tenantsFrom (s : State) (t : Nat) : List Nat :=
  (allTenants s).filter (fun x => decide (t ≤ x)) ++ (allTenants s).filter (fun x => decide (x < t))

/-- One turn of the tenants: the first that has a request taken begins the turn. -/
def oneTurn (s : State) : State × Bool :=
  (tenantsFrom s (s.rnd.turn + 1)).foldl (fun a t =>
    let x := takeTurn t (turnOrder a.1 t) a.1
    if x.2 && !a.2 then (modRnd (fun r => { r with turn := t }) x.1, true) else (x.1, a.2 || x.2)) (s, false)

/-- Turns until one takes nothing. -/
def allTurns : Nat → State → State
  | 0, s => s
  | n + 1, s =>
    let x := oneTurn s
    if x.2 then allTurns n x.1 else x.1

/-- Admission of a boundary into an empty round. -/
def admitAll (s : State) : State :=
  let s1 := admitContinuing (modRnd (fun r => { r with parts := [] }) s)
  allTurns (s1.rnd.reqs.length + 1) s1

/-! ## Pressure (R352, R371) -/

/-- Pages that a waiting request lacks. -/
def pagesShort (s : State) (r : Req) : Nat :=
  let x := sessOf s r.index
  if x.state == .parked then x.npage
  else match offerOf s r (roomLeft s) with
    | some o => o.pages - x.pages.length
    | none => 1

/-- Pages that MARKED sessions hold. -/
def markedPages (s : State) : Nat := ((s.sess.filter fun p => p.2.state == .marked).map fun p => p.2.pages.length).sum

/-- Whether a session has no fetched request. -/
def noRequest (s : State) (i : Nat) : Bool := (reqsOf s i).isEmpty

/-- The session that pressure marks next: the largest IDLE, the lowest index on a tie. -/
def pressureNext (s : State) : Option Nat :=
  ((s.sess.filter fun p => mayMark s p.2 && noRequest s p.1).foldl (fun (b : Option (Nat × W32)) p =>
    match b with
    | none => some (p.1, p.2.idle)
    | some x => if x.2 < p.2.idle then some (p.1, p.2.idle) else b) none).map Prod.fst

/-- Mark under pressure until `need` pages are covered or park space runs out. -/
def pressMarks (need : Nat) : Nat → State → State
  | 0, s => s
  | n + 1, s =>
    if need ≤ markedPages s then s
    else
      match pressureNext s with
      | none => s
      | some i =>
        match startMark i false s with
        | some s1 => pressMarks need n s1
        | none => s

/-- Pressure ageing while requests wait for pages. -/
def pressure (s : State) : State :=
  let w := s.rnd.reqs.filter (·.waitPages)
  if w.isEmpty then s else pressMarks ((w.map (pagesShort s)).sum - poolFree s) s.sess.length s

/-! ## Ageing (R366, R370) -/

/-- Saturating increment. -/
def incSat (w : W32) : W32 := if w = 0xFFFFFFFF then w else w + 1

/-- IDLE at a knot that commits: 1 more for every ACTIVE session that was neither in the round nor has a
fetched request; the period of a failed mark runs down. -/
def ageSessions (inRound : List Nat) (s : State) : State :=
  s.sess.foldl (fun s p =>
    let due := p.2.state == .active && !inRound.contains p.1 && noRequest s p.1
    if due || p.2.noMark != 0 then
      modSess p.1 (fun x => { x with
        idle := if due then incSat x.idle else x.idle, noMark := if x.noMark = 0 then 0 else x.noMark - 1 }) s
    else s) s

/-- Marks that thresholds call for. -/
def thresholdMarks (s : State) : State :=
  s.sess.foldl (fun s p =>
    let age := (tenOf s p.2.tenant).age
    if mayMark s p.2 && age != 0 && decide (age ≤ p.2.idle) && noRequest s p.1 then (startMark p.1 false s).getD s
    else s) s

/-! ## The round descriptor (R355 to R358) -/

/-- RMAX of an image. -/
def rmaxOf (b : List Byte) : Nat := ceilDiv (imgBatch b) 256 * 256

/-- The rows of a round: each with its part and its place in it. -/
def roundRows (l : List Part) : List (Part × Nat) := l.flatMap fun p => (List.range p.rows).map fun j => (p, j)

/-- The row word (R357). -/
def rowWord (p : Part) (j : Nat) : Nat :=
  2 ^ 31 + p.kind * 2 ^ 29 + (if p.kind = 2 then j * 2 ^ 25 + p.d * 2 ^ 21 else 0) +
    (if j + 1 = p.rows then 2 ^ 20 else 0) + p.index

/-- The SAMP entry of a row: k0, k1, pos, step. -/
def sampEntry (s : State) (p : Part) (j : Nat) : List Byte :=
  let x := sessOf s p.index
  natLe 8 x.seed.toNat ++ natLe 4 (p.pos + j + 1) ++ natLe 4 (x.step.toNat + if p.kind = 2 then j else 0)

/-- An array of RMAX entries of `n` bytes, zero beyond its rows. -/
def rowArray (rmax n : Nat) (l : List (List Byte)) : List Byte := fitBytes (rmax * n) l.flatten

/-- The bytes of the descriptor. -/
def descBytes (s : State) : List Byte :=
  let rmax := rmaxOf (runImg s)
  let rows := roundRows s.rnd.parts
  let l := layNow s
  fitBytes 256 (natLe 4 0x31444E52 ++ natLe 2 rows.length ++ natLe 2 s.rnd.parts.length ++ natLe 8 s.rnd.no.toNat ++
      natLe 8 s.rnd.kstitch.toNat ++ natLe 2 rmax ++ natLe 6 0 ++ natLe 8 l.dirb ++ natLe 8 l.blkb ++
      natLe 8 l.poolb ++ natLe 8 l.histb) ++
    rowArray rmax 4 (rows.map fun r => natLe 4 (rowWord r.1 r.2)) ++
    rowArray rmax 16 (rows.map fun r => sampEntry s r.1 r.2) ++
    rowArray rmax 4 (rows.map fun r => natLe 4 (histTok s r.1.index (r.1.pos + r.2)).toNat) ++
    rowArray rmax 4 (rows.map fun r => natLe 4 (r.1.pos + r.2 + 1)) ++
    List.replicate (rmax * 8) 0

/-- The field at a round-start knot (R118). -/
def fieldStart (s : State) : State :=
  (siteDies s).foldl (fun s d =>
    (List.range 4).foldl (fun s k => modClu d k cluRoundStart s)
      (modDie d (fun x => { x with pfRun := 0, arrived := none }) s)) s

/-- Begin the round that has been admitted: its number, its descriptor, its first stitch, the field. -/
def beginRound (k : BitVec 48) (s : State) : State :=
  if s.rnd.parts.isEmpty then modRnd (fun r => { r with active := false }) s
  else
    let b := runImg s
    let s1 := modRnd (fun r => { r with active := true, no := r.no + 1, kstitch := k, freshOpen := false }) s
    let s2 := pmWrite (descAddr s1 s1.rnd.no) (descBytes s1) s1
    fieldStart { s2 with
      lode := { s2.lode with arrivals := [] }
      pat := { s2.pat with
        sect := 0, first := k + BitVec.ofNat 48 (knotOffset b (imgNsect b - 1)), inSect := false, replay := false
        pfRound := false, aborts := 0, tbsReplay := false, memReplay := [], runFrom := s2.flog.next.toNat } }

/-! ## The commit (R361, R234, R364) -/

/-- OUT of a row of the round in progress. -/
def outOf (s : State) (row : Nat) : W32 :=
  memWord s.pmem.data (descAddr s s.rnd.no + 256 + 28 * rmaxOf (runImg s) + 4 * row)

/-- ACC of a row of the round in progress. -/
def accOf (s : State) (row : Nat) : Nat :=
  (memWord s.pmem.data (descAddr s s.rnd.no + 256 + 32 * rmaxOf (runImg s) + 4 * row)).toNat

/-- The tokens that a part emits whose first row is `row`. -/
def emittedBy (s : State) (p : Part) (row : Nat) : List W32 :=
  if p.kind = 0 then [outOf s row]
  else if p.kind = 1 then []
  else (List.range (min (accOf s row) p.d + 1)).map fun j => outOf s (row + j)

/-- The parts with the tokens they emit, in row order. -/
def emissions (s : State) : Nat → List Part → List (Part × List W32)
  | _, [] => []
  | row, p :: l => (p, emittedBy s p row) :: emissions s (row + p.rows) l

/-- Commit one session: history, entry, tail log, tentative pages. -/
def commitPart (x : Part × List W32) (s : State) : State :=
  let p := x.1
  if !p.live then s
  else
    let y := sessOf s p.index
    let n := y.len + p.toks.length + x.2.length
    let s1 := writeHist p.index (y.len + p.toks.length) x.2 s
    let s2 := modSess p.index (fun y => { y with
      len := n, step := y.step + BitVec.ofNat 32 x.2.length, npage := pagesFor n, idle := 0, lastRound := s.rnd.no }) s1
    trimPages p.index (pagesFor n) (tailCommit p.index s.rnd.no p.kind p.toks x.2 s2)

/-- The status of a request at its last record of this commit, and whether it is final. -/
def lastStatus (s : State) (r : Req) (p : Part) (emitted : List W32) : Nat × Bool :=
  let stop := r.op == 3 && r.d.stopv && emitted == [r.d.stoptok]
  let full := (r.op == 3 || (r.op == 4 && p.d == 0)) && decide (licSeqMax s.boot.lic ≤ (sessOf s p.index).len)
  let left := if r.op = 3 then r.left - 1 else if r.op = 2 then r.left - p.toks.length else 0
  (if r.cancelled then stCancelled else if full then stLimit else stOk,
   r.cancelled || stop || full || left == 0)

/-- The records of the tokens that a part emitted, the last one with its status. -/
def tokenRecords (r : Req) (fin : Nat × Bool) (before : Nat) : List W32 → State → State
  | [], s => s
  | t :: l, s =>
    let last := l.isEmpty
    let x : Rec := {
      usertag := r.d.usertag, handle := r.d.handle, token := t, len := before + 1
      status := if last then fin.1 else stOk, final := last && fin.2, clamped := r.clamped, applied := r.applied
      round := s.rnd.no }
    tokenRecords r fin (before + 1) l (putRecord r.tenant r.pair r.d.noint x s)

/-- The records of one part, and its request afterwards. -/
def recordPart (x : Part × List W32) (s : State) : State :=
  let p := x.1
  match reqOf s p.req with
  | none => s
  | some r =>
    let fin := lastStatus s r p x.2
    if p.kind = 1 then
      (if fin.2 then finishReq { r with inRound := false } fin.1 s.rnd.no s
       else modReq r.id (fun y => { y with inRound := false, left := y.left - p.toks.length }) s)
    else
      let s1 := modReq r.id (fun y => { y with inRound := false, left := y.left - 1, resv := 0 }) s
      let s2 := tokenRecords r fin ((sessOf s p.index).len - x.2.length) x.2 s1
      if fin.2 then dropReq r.id s2 else s2

/-- Tenants with a row in the round. -/
def roundTenants (s : State) : List Nat := rising (s.rnd.parts.map fun p => (sessOf s p.index).tenant)

/-- Flags commit (R78, R79): the round records join the die summaries, then the panel summary. -/
def commitFlags (s : State) : State :=
  let s1 := (siteDies s).foldl (fun s d =>
    let rec8 := (List.range 4).foldl (fun (a : BitVec 8) k =>
      a ||| flagPair (cluOf s d k).mrec (cluOf s d k).vrec) 0
    (List.range 4).foldl (fun s k => modClu d k (fun c => { c with mrec := 0, vrec := 0 }) s)
      (modDie d (fun x => { x with summary := x.summary ||| rec8 }) s)) s
  let all := (siteDies s1).foldl (fun (a : BitVec 8) d => a ||| (dieOf s1 d).summary) 0
  modRnd (fun r => { r with panelFlags := r.panelFlags ||| all, flagRound := BitVec.ofNat 32 r.no.toNat }) s1

/-- The pattern faults of a round that commits, each counted against its site: all are of the one run that raised any, since a second such
run stops the pattern (R225, R226). -/
def chargeReplayed (s : State) : State :=
  if !s.pat.pfRound then s
  else
    let bad := (s.flog.recs.filter fun r =>
      isPatRec r && r.dkind == 0 && r.round == BitVec.ofNat 32 s.rnd.no.toNat).map fun r => siteDie r.pcourse.toNat r.pcol.toNat
    bad.foldl (fun s d =>
      let s1 := chargeFault d s
      { s1 with hlt := { s1.hlt with pfCount := tabMod 0 s1.hlt.pfCount d (· + 1) } }) s

/-- Commit the round in progress. -/
def commitRound (s : State) : State :=
  let l := emissions s 0 s.rnd.parts
  let inR := s.rnd.parts.map (·.index)
  let ts := roundTenants s
  let s1 := l.foldl (fun s x => commitPart x s) s
  let s2 := ts.foldl (fun s t => fnCount64 t 0x10118 1 s) s1
  let s3 := l.foldl (fun s x => recordPart x s) s2
  let s4 := chargeReplayed (commitFlags (ageSessions inR s3))
  modRnd (fun r => { r with active := false, parts := [], last := r.no }) s4

/-! ## Clearing flags (R81) -/

/-- Clear masked bits in every die summary, in the panel summary and in every engine's flags. -/
def clearFlags (mask : Byte) (s : State) : State :=
  let keep := fun (f : Flags) (m : BitVec 4) => f &&& ~~~m
  let s1 := { s with dies := tabMap {} (fun x => { x with summary := x.summary &&& ~~~mask }) s.dies }
  let s2 := (siteDies s1).foldl (fun s d => (List.range 4).foldl (fun s k =>
    modClu d k (fun c => { c with
      mflags := keep c.mflags (mask.extractLsb' 0 4), vflags := keep c.vflags (mask.extractLsb' 4 4) }) s) s) s1
  modRnd (fun r => { r with panelFlags := r.panelFlags &&& ~~~mask }) s2

/-- The response of FLAGS_CLEAR: the panel summary before the clear and the round of the knot, 0 when
there was none. -/
def flagsRsp (before : Byte) (round : W64) : Rsp :=
  { result := fieldsAt [(0, natLe 1 before.toNat), (8, natLe 8 round.toNat)] }

/-- The FLAGS_CLEARs that wait take effect, one after another. -/
def finishClears (round : W64) (s : State) : State :=
  (longFns s fun o => match o with | .flagsClear _ => true | _ => false).foldl (fun s f =>
    match (fnOf s f).mb.long with
    | some (q, .flagsClear m) => respond 0x56 q (flagsRsp s.rnd.panelFlags round) (clearFlags m s)
    | _ => s) s

/-! ## Pacing (R528, R540) -/

/-- The duty that one limit, less its guard of 1 %, allows. -/
def dutyFit (limit mean idle : Nat) : Nat :=
  if 100 * mean ≤ 99 * limit then 32
  else if 99 * limit ≤ 100 * idle then 1
  else min 32 (max 1 (32 * (99 * limit - 100 * idle) / (100 * (mean - idle))))

/-- The cap in force (R526). -/
def effectiveCap (s : State) : Nat := min s.pwr.hostCap s.thm.cap

/-- Set the duty and the pause at a round-ending knot. -/
def setPace (env : BoundaryEnv) (s : State) : State :=
  let p := s.pwr
  let dt := if env.hotAtFloor then max 1 (p.dtherm - 1) else if env.allCool then min 32 (p.dtherm + 1) else p.dtherm
  let fit := if p.paceNeeded then
      min (dutyFit (effectiveCap s) env.draws.panel p.idle.panel)
        (min (dutyFit s.thm.pc env.draws.compute p.idle.compute) (dutyFit s.thm.pm env.draws.memory p.idle.memory))
    else 32
  let d := min fit (min (p.duty + 2) dt)
  modPwr (fun p => { p with
    duty := d, dtherm := dt, paceNeeded := p.paceNeeded && d != 32
    pause := if d = 32 then 0 else ceilDiv (env.tRoundNs * (32 - d)) (d * 256) }) s

/-! ## The boundary -/

/-- The park ports that a licence leaves in reset (R9, R589). -/
def parkHeld (l : Option Licence) : List Nat := (List.range 6).filter fun i => !(licFeatures l).getLsbD (4 + i)

/-- The park ports under a licence: those it does not take in are held in reset and DOWN; one that it newly takes in leaves reset and stays DOWN
until the next cast-on enumerates it (R9, R400; log entry 146). -/
def parkUnder (l : Option Licence) (s : State) : State :=
  { s with
    pins := { s.pins with parkPerst := parkHeld l }
    park := (parkHeld l).foldl (fun t i => tabPut {} t i {}) s.park }

/-- A licence that waits takes effect (R9, R12, R334). -/
def takeLicence (s : State) : State :=
  match s.boot.licNext with
  | none => s
  | some l =>
    eventPf 0xA (licFeatures (some l))
      (relimit (licSessions s.boot.lic) (licSessions (some l))
        (parkUnder (some l) (modBoot (fun b => { b with lic := some l, licNext := none, nolic := false }) s)))

/-- Whether a fetched request lacks nothing but completion entries (R576). -/
def heldByCq (s : State) (r : Req) : Bool :=
  !r.inRound && r.intern.isNone && !hasEarlier s r && !(tenOf s r.tenant).resetting &&
  (if (r.op == 2 || r.op == 3 || r.op == 4) && (match turnOf r s with | .rows => true | _ => false) then
    eligible s r && (match offerOf s r (roomLeft s) with | some o => !entriesFit s r o | none => false)
   else !r.started && (match turnOf r s with | .finish _ _ => true | _ => false) && cqRoom s r.tenant r.pair == 0)

/-- Count the rings held back by their completion rings. -/
def countHeld (s : State) : State :=
  (rising ((s.rnd.reqs.filter (heldByCq s)).map fun r => r.tenant * 8 + r.pair)).foldl (fun s k =>
    fnCount (k / 8) (0x10208 + 16 * (k % 8)) 1 s) s

/-- Whether rows may be admitted: a pattern runs and is not stopping, nothing keeps new rounds back, and
no pause runs that this round must wait for (R528, R529, R561). -/
def mayAdmit (s : State) : Bool :=
  s.pat.running.isSome && !s.pat.stopAtEnd && s.boot.binding.isNone &&
    (s.pwr.pause == 0 || s.rnd.fence || s.rnd.freshOpen)

/-! ## Commands that wait for a boundary -/

/-- A ring pair that restarts empty (R388). -/
def restartRing (q : RingPair) : RingPair :=
  { q with sqTail := 0, tailWas := 0, tailAt := none, sqHead := 0, cqHead := 0, cqTail := 0, err := false, why := 0, posted := [], hostNext := 0, held := [] }

/-- A shaper back at DEPTH. -/
def fullShaper (ref : W64) (x : Shaper) : Shaper := { x with bal := (x.depth * tokenUnit : Nat), rem := 0, at_ := ref }

/-- Steps 4 to 6 of the reset of a tenant (R394): its sessions are freed, its requests dropped, its rings
restart, its shapers fill, and every command that waits for the reset completes. -/
def finishReset (t : Nat) (s : State) : State :=
  let l := tenantSessions s t
  let imports := (s.rnd.reqs.filter fun r => r.tenant == t && r.intern.isSome).map (·.index)
  let s0 := imports.foldl (fun s i => finishImport i false s) s
  let s1 := (l.filter fun i => !imports.contains i).foldl (fun s i => freeSession i s) s0
  let s2 := modRnd (fun r => { r with reqs := r.reqs.filter fun x => x.tenant != t }) s1
  let s3 := modTen t (fun x => { x with
    resetting := false, rings := tabMap {} (fun q => if q.en then restartRing q else { q with held := [] }) x.rings
    prompt := fullShaper (refNow s) x.prompt, gener := fullShaper (refNow s) x.gener }) s2
  finishLongs (fun o => match o with | .tenantReset t' _ => t' == t | _ => false)
    (fun _ s => { result := fieldsAt [(0, natLe 4 l.length), (4, natLe 2 (tenOf s t).epoch.toNat)] }) s3

/-- Tenants under reset whose knot has come. -/
def finishResets (s : State) : State :=
  ((s.ten.filter fun p => p.2.resetting).map Prod.fst).foldl (fun s t => finishReset t s) s

/-- The round fence is closed on a panel with no round in progress (R560): the commands that waited
complete. -/
def finishFence (s : State) : State :=
  finishLongs (fun o => o == .fence)
    (fun _ s => { result := fieldsAt [(0, natLe 1 s.rnd.fence.toNat), (8, natLe 8 s.rnd.last.toNat)] }) s

/-- What a boundary does before admission: the licence, tenant resets, requests that end or need no row,
marks and moves, windows. -/
def boundaryWork (committed : Bool) (s : State) : State :=
  let s1 := carryOut (fetchAll (freeGoing (accrueAll (endCancelled (finishFence (finishResets (takeLicence s)))))))
  let s2 := if committed then thresholdMarks s1 else s1
  windowSwap (commitMoves s2)

/-- A round boundary at stitch K: snapshot, requests without rows, marks and moves, admission, the round's
start, and vector 1 (R41, R350, R368, R386). -/
def boundary (k : BitVec 48) (committed : Bool) (s : State) : State :=
  let s1 := boundaryWork committed s
  let s2 := if mayAdmit s1 then admitAll s1 else modRnd (fun r => { r with parts := [] }) s1
  flushCq (beginRound k (countHeld (pressure s2)))

/-- Whether a planned repair is still called for: one for an over-committed link only while a link of the site is (R291). -/
def stillPlanned (s : State) (x : Nat × Nat) : Bool :=
  x.2 != 7 || allLinks.any fun e => (linkOf s e.1 e.2).overc && (linkEnds e.1 e.2).contains x.1

/-- The first planned repair that waits begins, at a knot that commits (R496); the others wait for later
knots (R509). -/
def plannedRepair (env : RepairEnv) (s : State) : State :=
  match s.hlt.planned.filter (stillPlanned s) with
  | [] => { s with hlt := { s.hlt with planned := [] } }
  | x :: l => retirePlanned x.1 x.2 env { s with hlt := { s.hlt with planned := l } }

/-- LGR for a recalibrated crossing stops the pattern at the boundary (R184, R229). -/
def lgrStop (x : Nat × Nat) (s : State) : State :=
  let d := x.1 / 8
  stopNotice (stopPattern (markStop (addFault d {
    code := 0x06, detail := 1, addr := BitVec.ofNat 32 x.2, link := BitVec.ofNat 4 (linkCode d (x.1 % 8)) } s)))

/-- The round-ending knot of a round in progress: the commit, then the boundary, unless the pattern stops
there. -/
def endRound (k : BitVec 48) (env : BoundaryEnv) (s : State) : State :=
  let s1 := setPace env (finishClears s.rnd.no (commitRound s))
  let s2 := { s1 with pat := { s1.pat with inSect := false, sect := 0 } }
  if s2.pat.stopAtEnd then flushCq (stopAtBoundary s2)
  else
    match s2.pat.lgrAtEnd with
    | some x => flushCq (lgrStop x s2)
    | none =>
      plannedRepair env.repair (modeCommit (k + BitVec.ofNat 48 (knotOffset (runImg s2) (imgNsect (runImg s2) - 1)))
        (boundary k true s2))

/-- The boundary of a snapshot while no round runs (R351). -/
def idleBoundary (s : State) : State :=
  if s.rnd.active then s
  else
    let s1 := { s with pat := { s.pat with inSect := false, sect := 0 } }
    if s1.pat.running.isSome && s1.pat.stopAtEnd then stopAtBoundary s1
    else
      match s1.pat.lgrAtEnd with
      | some x => if s1.pat.running.isSome then flushCq (lgrStop x s1) else s1
      | none =>
        let s2 := boundary (stitchNow s) false s1
        if s2.rnd.active then modeCommit s2.pat.first s2 else s2

/-- A snapshot while no round runs (R351): a pause counts down by a stitch, and the boundary follows. -/
def idleSnapshot (s : State) : State :=
  if s.rnd.active then s else idleBoundary (modPwr (fun p => { p with pause := p.pause - 1 }) s)

end Sys2Proof.Machine
end

