-- ==== Sys2Proof/Machine/BindOff.lean ====
section
/-! DEFINITION. Bind-off (R478 to R482) and the duties of a panel whose pattern has stopped or whose round has
ended: the long commands that complete then (R81, R222, R223, R394, R496, R560). -/

namespace Sys2Proof.Machine

open Sys2Proof

/-! ## The compute field without power -/

/-- Whether a link belongs to a compute die or is a bypass link. -/
def fieldLink (e : Nat × Nat) : Bool :=
  decide (e.1 < 144) || isRingBypass e.1 e.2 ||
    (match peer e.1 e.2 with | some x => decide (x.1 < 144) || isRingBypass x.1 x.2 | none => false)

/-- Power the compute field down (step 5 of R479): the fabric is drained, its links go DOWN. -/
def fieldDown (s : State) : State :=
  let s1 := allLinks.foldl (fun s e =>
    if fieldLink e && (linkOf s e.1 e.2).state != .disabled then
      modLink e.1 e.2 (fun l => { l with state := .down }) s else s) (drainFabric s)
  { s1 with clus := tabMap {} unpowered s1.clus }

/-! ## Bind-off -/

/-- Begin a bind-off (steps 1 and 2 of R479).  A second one joins the first. -/
def beginBind (round sess : Nat) (s : State) : State :=
  if s.boot.binding.isSome || s.boot.bound then s
  else
    let s1 := modBoot (fun b => { b with
      pstate := 5, phase := 10, binding := some (round, sess), bindMarked := false, bindFailed := 0 }) s
    let s2 := { s1 with park := tabMap {} (fun p => { p with
      tried := 0, parked := 0, replaced := 0, failed := 0, bytes := 0 }) s1.park }
    if round = 1 then stopPattern s2
    else if s2.pat.running.isNone then s2
    else if s2.rnd.active then { s2 with pat := { s2.pat with stopAtEnd := true } }
    else stopAtBoundary s2

/-- Sessions in a state. -/
def inState (x : SessState) (s : State) : List Nat := (s.sess.filter fun p => p.2.state == x).map Prod.fst

/-- Whether a bind-off that parks sessions still waits for copies or unparks (steps 3 and 4). -/
def bindWaits (s : State) : Bool := !(inState .marked s).isEmpty || !(inState .unparking s).isEmpty

/-- Mark every ACTIVE session that holds a page (step 4). -/
def bindMarks (s : State) : State :=
  (inState .active s).foldl (fun s i => if (sessOf s i).npage = 0 then s else (startMark i true s).getD s)
    (modBoot (fun b => { b with bindMarked := true }) s)

/-- Code of a park port's state (R445). -/
def parkCode : ParkState → Nat
  | .inService => 0
  | .down => 1
  | .empty => 2

/-- The entry of a park port in the response of BIND_OFF. -/
def portEntry (s : State) (p : Nat) : List Byte :=
  let q := portOf s p
  natLe 1 (parkCode q.state) ++ natLe 3 0 ++ natLe 4 q.tried ++ natLe 4 q.parked ++ natLe 4 q.replaced ++
    natLe 4 q.failed ++ natLe 4 0 ++ natLe 8 q.bytes

/-- The response of a bind-off that has ended. -/
def bindRsp (sess : Nat) (s : State) : Rsp :=
  let parked := ((List.range 6).map fun p => (portOf s p).parked).sum
  let left := (inState .active s).length
  { status := if sess = 1 ∨ (left = 0 ∧ s.boot.bindFailed = 0) then rsOk else rsPartial
    result := fieldsAt [(0, natLe 4 parked), (4, natLe 4 s.boot.bindFailed), (8, natLe 4 left),
      (0x10, (List.range 6).flatMap (portEntry s))] }

/-- The mean of the accepted measurements of a zone, or what flash held before. -/
def meanOr (l : List Rat) (old : Option Rat) : Option Rat := if l.isEmpty then old else some (l.sum / l.length)

/-- Write the health area of flash: the thermal counts of every die (R546) and the resistances in use (R537). -/
def healthWrite (s : State) : State :=
  { s with thm := { s.thm with
      stored := s.thm.cycles, storedC := meanOr s.thm.rc s.thm.storedC, storedM := meanOr s.thm.rm s.thm.storedM } }

/-- Steps 5 and 6: the panel is bound off, and every BIND_OFF that waits receives the response. -/
def bindEnd (sess : Nat) (s : State) : State :=
  let r := bindRsp sess s
  let s1 := modBoot (fun b => { b with
    pstate := 6, phase := 11, binding := none, bound := true, boundGood := b.good }) (healthWrite (fieldDown s))
  finishLongs (fun o => o == .bindOff) (fun _ _ => r) s1

/-- Carry a bind-off on as far as it can go. -/
def bindGoOn (s : State) : State :=
  match s.boot.binding with
  | none => s
  | some (_, sess) =>
    if s.boot.pstate = 7 then
      finishLongs (fun o => o == .bindOff) (fun _ _ => rspState) (modBoot (fun b => { b with binding := none }) s)
    else if s.pat.running.isSome then s
    else if sess = 1 then bindEnd sess ((inState .marked s).foldl (fun s i => cancelMark i s) s)
    else if bindWaits s then s
    else
      let s1 := if s.boot.bindMarked then s else bindMarks s
      if bindWaits s1 then s1 else bindEnd sess s1

/-! ## Duties -/

/-- The commands that wait for the pattern's stop (R81, R193, R222, R223). -/
def whenStopped (s : State) : State :=
  let s1 := finishLongs (fun o => o == .stop)
    (fun _ s => { result := fieldsAt [(0, natLe 8 s.rnd.last.toNat), (8, natLe 4 s.pat.aborted)] }) s
  windowSwap (modeAfterStop (finishClears 0 s1))

/-- Planned repairs on a panel without a pattern run at once, one after another (R496). -/
def plannedNow (s : State) : State := s.hlt.planned.foldl (fun s _ => plannedRepair {} s) s

/-- The commands that wait for a planned repair of a site complete when it is retired (R440, R496); one whose
site can no longer be retired is refused. -/
def finishRetires (s : State) : State :=
  finishLongs (fun o => match o with | .retire d => !s.hlt.planned.any fun x => x.1 == d | _ => false)
    (fun o s => match o with
      | .retire d =>
        if s.grid.retired.contains d then
          { result := fieldsAt [(0, natLe 1 (skipOf s.grid.skip (d % 12))), (1, natLe 1 (11 - skipOf s.grid.skip (d % 12))),
              (8, timeBytes s)] }
        else rspRefused 0xB (d % 12)
      | _ => rspState) s

/-- The units that cache lines of the session structures and have a job rank: the park engines of the live I/O dies (R239, R372). -/
def cachingUnits (s : State) : List W16 :=
  (parkDies.zipIdx.filter fun x => dieLive s x.1).map fun x => BitVec.ofNat 16 (0xD8 + x.2)

/-- A flit of invalidation messages to a unit, on the coherence channel (R280). -/
def invalFlit (free : Nat) (drank : W16) (msg : BitVec 12) (o : Nat) : FreeFlit :=
  { hdr := { addr := 0, off := BitVec.ofNat 17 o, msg := msg, srank := 0xD0, sclass := 3, drank := drank, dclass := 2, tag := 0
             hops := 0, cm := false, ece := false, kind := 0, tepoch := 0 }
    chan := 2, payload := (List.range 256).map fun i => Config.invalByte free (256 * o + i) }

/-- The round controller sends an invalidation for every line it has changed, four to a flit, to every unit that caches lines (R280, R372; log entry
51). -/
def sendInvals (s : State) : State :=
  let r := s.rnd
  if r.lines.isEmpty && r.gonePages.isEmpty && r.goneBlocks.isEmpty then s
  else
    let a := anchorDie s
    let us := cachingUnits s
    let fl := us.flatMap fun u => (List.range (max 1 (ceilDiv r.lines.length 4))).map (invalFlit s.free u r.invalMsg)
    let s1 := modNI a (fun n => { n with inj := n.inj ++ fl }) { s with free := s.free + 1 }
    modRnd (fun r => { r with
      lines := [], gonePages := [], goneBlocks := [], invalMsg := r.invalMsg + 1
      invals := r.invals.filter (invalWaits s) ++
        us.map fun u => { die := a, drank := u, msg := r.invalMsg, pages := r.gonePages, blocks := r.goneBlocks } }) s1

/-- What remains to be done after an event that may have stopped the pattern or ended a round; nothing while no anchor
runs. -/
def duties (s : State) : State :=
  if s.boot.heldRst || s.boot.dead || s.boot.supplyLost then s
  else
  let s := if s.pat.inSect then s else returnSwapped s
  let s1 := if s.pat.running.isNone then plannedNow (whenStopped s) else s
  let s2 := if s1.rnd.active then s1 else finishFence (finishResets s1)
  sendInvals (bindGoOn (finishRetires s2))

end Sys2Proof.Machine
end

