-- ==== Sys2Proof/Machine/Registers.lean ====
section
/-! DEFINITION. The registers of BAR0 as a host reads them (R378, R407 to R410, R474, R564 to R581). -/

namespace Sys2Proof.Machine

open Sys2Proof

/-! ## States of the panel -/

/-- PSTATE (R432). -/
def pstateOf (s : State) : Nat :=
  if s.boot.pstate = 1 then
    (if s.pat.running.isNone then 1 else if s.pat.stopAtEnd then 3 else 2)
  else s.boot.pstate

/-- Whether an anchor is active: Herus, the lodestar and the round controller run on it. -/
def anchorUp (s : State) : Bool := !s.boot.heldRst && !s.boot.dead && !s.boot.supplyLost

/-- Whether Herus runs and serves the mailboxes (R462): an anchor is active and CO0 has ended. -/
def herusUp (s : State) : Bool :=
  anchorUp s && s.boot.phase != 0 && !(s.boot.phase == 9 && s.boot.failPh == 0)

/-- Whether the round controller is at work: cast-on has reached ready and the panel has not tripped. -/
def roundsUp (s : State) : Bool := herusUp s && s.boot.pstate != 0 && !s.boot.trip

/-- FAULT_N asserted (R475, R591). -/
def faultN (s : State) : Bool :=
  s.boot.heldRst || s.boot.failed || s.boot.phase == 12 || s.boot.dead || s.boot.trip || s.boot.supplyLost

/-- Whether a die is powered (R480): compute dies are not in the bound-off state or in a lost course. -/
def diePowered (s : State) (d : Nat) : Bool :=
  !s.grid.silent.contains d &&
  (if d < 144 then !s.boot.bound && !courseLost s (d / 12) && !s.boot.vinGone.contains (d / 12) && !s.boot.trip
   else if d < 216 then (stackOf s (dieCourse d) (dieCol d)).state != .dead && !s.boot.trip
   else true)

/-- Whether a die itself is powered: a compute die with all four clusters powered (R520), which neither a gated spare nor a
retired site has. -/
def siteOn (s : State) (d : Nat) : Bool :=
  diePowered s d && (decide (144 ≤ d) || ((rankOf s.grid.skip d).isSome && !s.grid.retired.contains d))

/-- Temperature of a die in degrees. -/
def dieTemp (s : State) (d : Nat) : Nat :=
  if 144 ≤ d ∧ d < 216 then (stackOf s (dieCourse d) (dieCol d)).temp else tabGet 0 s.thm.temps d

/-- The hottest powered die of a list, with its temperature; the lowest index on a tie. -/
def hottest (s : State) (l : List Nat) : Nat × Nat :=
  (l.filter (siteOn s)).foldl (fun b d => if b.2 < dieTemp s d then (d, dieTemp s d) else b)
    ((l.filter (siteOn s)).headD 0, 0)

/-- The hottest compute die. -/
def hotCompute (s : State) : Nat × Nat := hottest s (List.range 144)
/-- The hottest stack. -/
def hotStack (s : State) : Nat × Nat := hottest s ((List.range 72).map (· + 144))

/-- Compute dies throttled now (R539). -/
def throttledDies (s : State) : List Nat :=
  (s.pwr.throttle.filter fun p => decide (p.2 < modeSp s.lode.mode (dieOf s p.1).active)).map Prod.fst

/-- A shaper's balance without its fractional bits (R576). -/
def balanceWord (x : Shaper) : W32 :=
  if unlimited x then 0x7FFFFFFF
  else BitVec.ofInt 32 (max (-2147483648) (min 2147483647 (x.bal / 16777216)))

/-! ## Words of each region -/

/-- A word from fields: value and lowest bit. -/
def wordFields (l : List (Nat × Nat)) : W32 := BitVec.ofNat 32 ((l.map fun p => p.1 * 2 ^ p.2).sum)

/-- A number of 0 or 1. -/
def b2n (b : Bool) : Nat := if b then 1 else 0

/-- The tenant of a function (R374): PF1 has none. -/
def hasTenant (f : Nat) : Bool := decide (f < 64)

/-- Identity region (R573). -/
def identWord (s : State) (f off : Nat) : W32 :=
  if off = 0x00 then 0x31445243
  else if off = 0x04 then wordFields [((if f = 0 then 0x0144 else if f = 64 then 0x0146 else 0x0145), 16), (0x1F3B, 0)]
  else if off = 0x08 then wordFields [(3, 16), (licVariant s.boot.lic, 8), (f, 0)]
  else if off = 0x0C then Config.hwRev
  else if off = 0x10 then s.boot.fwver
  else if off = 0x14 then licFeatures s.boot.lic
  else if off = 0x18 then BitVec.ofNat 32 (licSessions s.boot.lic)
  else if off = 0x1C then wordFields [((if hasTenant f then 8 else 0), 24), (8, 16), (0x1F, 8), (4, 0)]
  else if 0x20 ≤ off ∧ off < 0x30 then BitVec.ofNat 32 (leAt (fitBytes 16 Config.serial) (off - 0x20) 4)
  else if off = 0x30 then wordFields [(b2n s.boot.co3Done, 1), (b2n (s.boot.co3Done && s.boot.classB), 0)]
  else 0

/-- The class of a mailbox command (R416): 0 for P0 to 3 for P3. -/
def classOf (op : Nat) : Nat :=
  if op = 0x23 ∨ op = 0x61 ∨ op = 0x80 ∨ op = 0x81 ∨ op = 0x82 then 0
  else if op = 0x33 ∨ op = 0x40 ∨ op = 0x42 then 1
  else if op = 0x10 ∨ op = 0x21 ∨ op = 0x22 ∨ op = 0x24 ∨ op = 0x25 ∨ op = 0x30 ∨ op = 0x31 ∨ op = 0x52 ∨ op = 0x53 ∨
    op = 0x56 ∨ op = 0x60 ∨ op = 0x62 ∨ op = 0x73 ∨ op = 0x91 ∨ op = 0xA1 ∨ op = 0xB0 ∨ op = 0xF1 then 2
  else if op = 0x01 ∨ op = 0x02 ∨ op = 0x03 ∨ op = 0x11 ∨ op = 0x20 ∨ op = 0x32 ∨ op = 0x41 ∨ op = 0x43 ∨ op = 0x50 ∨
    op = 0x51 ∨ op = 0x54 ∨ op = 0x55 ∨ op = 0x70 ∨ op = 0x71 ∨ op = 0x72 ∨ op = 0x90 ∨ op = 0xA0 ∨ op = 0xB1 ∨
    op = 0xF0 then 3
  else Config.unknownClass op % 4

/-- Place of a function in the order of its class (R417): the functions in turn after the one served last. -/
def turnPlace (s : State) (c f : Nat) : Nat := (f + 64 - tabGet 64 s.served c) % 65

/-- The functions whose requests wait for take-up. -/
def waitingFns (s : State) : List Nat :=
  (List.range 65).filter fun f => (fnOf s f).mb.own && !(fnOf s f).mb.taken

/-- Whether a waiting request of `g` is taken up before that of `f`. -/
def aheadOf (s : State) (g f : Nat) : Bool :=
  let a := (fnOf s g).mb.cls
  let b := (fnOf s f).mb.cls
  decide (a < b) || (a == b && decide (turnPlace s a g < turnPlace s a f))

/-- Mailbox region (R407, R410). -/
def mbWord (s : State) (f off : Nat) : W32 :=
  let m := (fnOf s f).mb
  let o := off - 0x1000
  if o < 0x100 then tabGet 0 m.req (o / 4)
  else if o < 0x200 then tabGet 0 m.rsp ((o - 0x100) / 4)
  else if o = 0x200 then m.tag
  else if o = 0x208 then
    (if m.own then
      wordFields [(1, 31), (b2n m.taken, 30), (m.cls, 28),
        ((if m.taken then 0 else ((waitingFns s).filter fun g => aheadOf s g f).length), 0)]
     else 0)
  else if o = 0x20C then m.rsptag
  else if o = 0x210 then BitVec.ofNat 32 m.head
  else if o = 0x214 then BitVec.ofNat 32 m.tail
  else if o = 0x218 then m.lost
  else if 0x400 ≤ o ∧ o < 0x600 then BitVec.ofNat 32 (leAt (fitBytes 16 (tabGet [] m.events ((o - 0x400) / 16))) (o % 16) 4)
  else 0

/-- Ring doorbell region (R378). -/
def ringWord (s : State) (f off : Nat) : W32 :=
  let i := (off - 0x2000) / 16
  if !hasTenant f || decide (8 ≤ i) then 0
  else
    let q := ringOf s f i
    match (off - 0x2000) % 16 with
    | 0 => BitVec.ofNat 32 (q.sqTail % 2 ^ 16)
    | 4 => BitVec.ofNat 32 (q.cqHead % 2 ^ q.k % 2 ^ 16)
    | 8 => BitVec.ofNat 32 (q.sqHead % 2 ^ 16)
    | _ => wordFields [(b2n q.en, 31), (b2n q.err, 30), (q.why, 24),
        (min 0xFFFF (s.rnd.reqs.filter fun r => r.tenant == f && r.pair == i && r.intern.isNone).length, 0)]

/-- Whether READY of FN_STATUS is set: CO7 is complete and the panel is not out of service. -/
def readyBit (s : State) : Bool := s.boot.pstate != 0 && s.boot.pstate != 7 && !s.boot.heldRst

/-- Function-status region (R574). -/
def fnWord (s : State) (f off : Nat) : W32 :=
  let bits := fun (p : RingPair → Bool) =>
    if hasTenant f then (((List.range 8).filter fun i => p (ringOf s f i)).map fun i => 2 ^ i).sum else 0
  let t := hasTenant f
  if off = 0x3000 then
    wordFields [(b2n (fnOf s f).bme, 31), (b2n (readyBit s), 30), (b2n (t && (tenOf s f).resetting), 29),
      (bits (·.en), 16), ((if t then (tenOf s f).epoch.toNat else 0), 0)]
  else if off = 0x3004 then BitVec.ofNat 32 (bits (·.err))
  else if off = 0x3008 then (fnOf s f).cause
  else 0

/-- Counter region (R576). -/
def cntWord (s : State) (f off : Nat) : W32 :=
  let x := tenOf s f
  if f = 64 ∧ 0x10014 ≤ off then 0
  else if off = 0x10140 then BitVec.ofNat 32 (tenantSessions s f).length
  else if off = 0x10144 then BitVec.ofNat 32 x.quota
  else if off = 0x10148 then balanceWord x.prompt
  else if off = 0x1014C then balanceWord x.gener
  else tabGet 0 (fnOf s f).cnt ((off - 0x10000) / 4)

/-- PS_STATE (R578). -/
def psState (s : State) : W32 :=
  wordFields [(pstateOf s, 28), (modeCode s.lode.mode, 26), (b2n s.grid.anchorS, 25), (b2n s.pwr.warn, 24),
    (b2n s.rnd.fence, 23), (b2n !(throttledDies s).isEmpty, 22), (b2n s.thm.alert, 21), (b2n s.boot.trip, 20),
    (b2n (faultN s), 19), ((licFeatures s.boot.lic).toNat % 1024, 0)]

/-- Code of RKIND (R474). -/
def resetCode : ResetKind → Nat
  | .cold => 0
  | .warm => 1
  | .fabric => 2

/-- BOOT_STATUS (R474). -/
def bootStatus (s : State) : W32 :=
  let b := s.boot
  let lost := fun (lo hi : Nat) => ((b.lostc.filter fun c => decide (lo ≤ c) && decide (c < hi)).map fun c => 2 ^ (c - lo)).sum
  wordFields [(b.phase, 28), (resetCode b.kind, 26), (b2n b.fast, 25), (b2n b.zeroed, 24), (b2n s.grid.anchorS, 23),
    (b2n b.nolic, 22), (b2n b.fwfall, 21), (b2n b.nostby, 20), (lost 0 8, 12), (lost 8 12, 8)]

/-- PS_FAULT_LAST (R578). -/
def faultLast (s : State) : W32 :=
  match s.flog.recs.getLast? with
  | none => 0
  | some r => wordFields [(r.code.toNat, 24), (r.dkind.toNat, 22), (r.pcourse.toNat, 18), (r.pcol.toNat, 14),
      (b2n r.stop, 13), (b2n r.replay, 12), (r.lrank.toNat, 4)]

/-- Stacks of a stripe that are not IN_SERVICE. -/
def notInService (s : State) (m : Nat) : Nat := ((List.range 12).filter fun c => (stackOf s c m).state != .inService).length

/-- PS_MEMORY (R578). -/
def psMemory (s : State) : W32 :=
  wordFields ((s.pmem.failed.map fun m => (1, 24 + m)) ++ (List.range 6).map fun m => (notInService s m, 4 * m))

/-- Wales with no repair left, as bits. -/
def noRepairBits (s : State) : Nat := (((List.range 12).filter fun w => noRepair s w).map fun w => 2 ^ w).sum

/-- The panel-status block (R578). -/
def panelWord (s : State) (off : Nat) : W32 :=
  let t := timeWord s
  let skip := fun (n : Nat) => wordFields ((List.range 4).map fun k => (skipOf s.grid.skip (4 * n + k), 8 * k))
  match off - 0x100000 with
  | 0x00 => psState s
  | 0x04 => bootStatus s
  | 0x08 => wordFields [(min 0xFFFF s.boot.attempt, 16), (min 0xFFFF s.boot.wait, 0)]
  | 0x0C => wordFields [(s.boot.failDie.toNat, 24), (s.boot.failPh, 20), (s.boot.failWhy.toNat, 0)]
  | 0x10 => t.extractLsb' 0 32
  | 0x14 => t.extractLsb' 32 32
  | 0x18 => s.rnd.last.extractLsb' 0 32
  | 0x1C => s.rnd.last.extractLsb' 32 32
  | 0x20 => s.rnd.panelFlags.zeroExtend 32
  | 0x24 => s.rnd.flagRound
  | 0x28 => s.flog.next.extractLsb' 0 32
  | 0x2C => faultLast s
  | 0x30 => wordFields [(min 0xFFFF s.pwr.draws.panel, 16), ((if s.boot.pstate = 0 then 0 else effectiveCap s), 0)]
  | 0x34 => wordFields [((hotCompute s).2, 24), ((hotStack s).2, 16), ((throttledDies s).length, 8), (s.pwr.duty, 0)]
  | 0x38 => psMemory s
  | 0x3C => wordFields [(b2n (s.boot.pstate == 7), 30), (noRepairBits s, 16),
      ((s.grid.retired.filter fun d => decide (d < 144)).length, 8), (s.hlt.repairs, 0)]
  | 0x40 => skip 0
  | 0x44 => skip 1
  | 0x48 => skip 2
  | 0x50 => wordFields [(b2n s.pat.staged.isSome, 31), (b2n s.pat.committed.isSome, 30), (b2n s.pat.running.isSome, 29),
      (b2n s.intake.open_, 28), ((if s.pat.running.isSome then imgGrade (runImg s) % 4096 else 0), 0)]
  | 0x54 => BitVec.ofNat 32 (openSessions s).length
  | 0x58 => if s.pat.running.isSome then BitVec.ofNat 32 (poolFree s) else 0
  | _ => 0

/-- The 32-bit register at a BAR0 offset of a function (R564, R565); what holds no register reads 0. -/
def regWord (s : State) (f off : Nat) : W32 :=
  if off < 0x1000 then identWord s f off
  else if off < 0x2000 then mbWord s f off
  else if off < 0x3000 then ringWord s f off
  else if off < 0x4000 then fnWord s f off
  else if off < 0x4040 then tabGet 0 (fnOf s f).msix ((off - 0x4000) / 4)
  else if off = 0x5000 then (fnOf s f).pba.zeroExtend 32
  else if 0x10000 ≤ off ∧ off < 0x11000 then cntWord s f off
  else if 0x100000 ≤ off ∧ off < 0x101000 then (if f = 0 ∨ f = 64 then panelWord s off else 0)
  else 0

/-! ## Reads (R566, R568 to R570) -/

/-- Whether the LO register of a pair stands at an offset. -/
def isLo (off : Nat) : Bool :=
  off == 0x100010 || off == 0x100018 || (decide (0x10100 ≤ off) && decide (off < 0x10130) && off % 8 == 0)

/-- One 32-bit read: its word, and the latch afterwards.  `byte0` tells whether byte 0 is read. -/
def readWord (f off : Nat) (byte0 : Bool) (s : State) : W32 × State :=
  if isLo off then
    (regWord s f off,
     modFn f (fun x => { x with
       latch := tabPut none x.latch off (if byte0 then some (regWord s f (off + 4)) else none) }) s)
  else if 4 ≤ off ∧ isLo (off - 4) then
    (((tabGet none (fnOf s f).latch (off - 4)).getD (regWord s f off)),
     modFn f (fun x => { x with latch := tabPut none x.latch (off - 4) none }) s)
  else (regWord s f off, s)

/-- Successive 32-bit reads of `n` words from the word at `w`: the bytes of all, and the state. -/
def readWords (f off : Nat) : Nat → Nat → State → List Byte × State
  | 0, _, s => ([], s)
  | n + 1, w, s =>
    let r := readWord f (4 * w) (decide (off ≤ 4 * w)) s
    let t := readWords f off n (w + 1) r.2
    (natLe 4 r.1.toNat ++ t.1, t.2)

/-- Whether a host port is up: powered, out of reset, not stopped by a trip of a ring die (R543), and its
PERST_N deasserted (R461, R590). -/
def portUp (s : State) (p : Nat) : Bool := 
  !s.boot.heldRst && !s.boot.supplyLost && !(s.boot.trip && s.boot.dead) && !s.pins.hostPerst.contains p

/-- The host port of a function (R374). -/
def portOfFn (f : Nat) : Nat := if f = 64 then 1 else 0

/-- Whether an access from a host reaches a function. -/
def fnReached (s : State) (f : Nat) : Bool := portUp s (portOfFn f) && fnExists s f

/-- An access of a host to a function: none reaches a port that is down, and a function that does not exist
answers as an unsupported request. -/
def access (f off : Nat) (act : State → State) (s : State) : State :=
  if !portUp s (portOfFn f) then s else if fnExists s f then act s else emit (.ur f off) s

/-- A misaligned access that crosses a register (R569). -/
def unsupported (f off : Nat) (s : State) : State := emit (.ur f off) (accErr f 0x1000C s)

/-- A read of `len` bytes. -/
def hostRead (f off len : Nat) (s : State) : State :=
  if crosses off len then unsupported f off s
  else
    let w := off / 4
    let r := readWords f off ((off + len - 1) / 4 + 1 - w) w s
    emit (.readData f off ((r.1.drop (off % 4)).take len)) r.2

end Sys2Proof.Machine
end

