-- ==== Sys2Proof/Machine/MbCore.lean ====
section
/-! DEFINITION. The Herus mailbox (R407 to R428): the request area, the checks of R421, and the operations that
the commands share. -/

namespace Sys2Proof.Machine

open Sys2Proof

/-! ## The commands of R416 -/

/-- Who may issue a command. -/
inductive Who where
  | all | pf | own
  deriving DecidableEq, Repr

/-- Opcodes that only PF0 and PF1 may issue. -/
def pfOps : List Nat :=
  [0x10, 0x20, 0x21, 0x22, 0x23, 0x24, 0x25, 0x30, 0x31, 0x32, 0x33, 0x40, 0x41, 0x42, 0x43, 0x50, 0x51, 0x52, 0x53, 0x54,
   0x55, 0x56, 0x62, 0x73, 0x80, 0x81, 0x82, 0xA0, 0xA1, 0xB0, 0xB1, 0xF0, 0xF1]

/-- Opcodes that every function may issue. -/
def allOps : List Nat := [0x01, 0x02, 0x03, 0x11, 0x90, 0x91]

/-- Opcodes that a VF may issue for its own tenant and sessions. -/
def ownOps : List Nat := [0x60, 0x61, 0x70, 0x71, 0x72]

/-- The functions that may issue an opcode; `none` for an unknown one. -/
def whoMay (op : Nat) : Option Who :=
  if pfOps.contains op then some .pf else if allOps.contains op then some .all else if ownOps.contains op then some .own else none

/-- Whether a function is PF0 or PF1. -/
def isPf (f : Nat) : Bool := f == 0 || f == 64

/-- Opcodes accepted without a valid licence (R11, R416). -/
def freeOps : List Nat :=
  [0x01, 0x02, 0x03, 0x10, 0x11, 0x50, 0x51, 0x52, 0x53, 0x54, 0x55, 0x56, 0x80, 0x81, 0x82, 0x90, 0x91, 0xF0, 0xF1]

/-- Opcodes served during cast-on (R462). -/
def castOps : List Nat := [0x01, 0x02, 0x03, 0x11, 0x54, 0x90, 0x41, 0x43, 0xF0, 0xF1, 0x81]

/-- Opcodes that a reset or a bind-off in progress leaves free (R427). -/
def resetFree : List Nat := [0x01, 0x02, 0x90, 0x41, 0x43]

/-- Opcodes answered after a thermal trip (R543). -/
def tripOps : List Nat := [0x01, 0x02, 0x43, 0x54]

/-- Opcodes accepted out of service while no stripe has failed, besides those of R11 (R504). -/
def oosOps : List Nat := [0x70, 0x72, 0xB1, 0x51, 0x61]

/-! ## Parameters -/

/-- A little-endian parameter. -/
def par (p : List Byte) (o n : Nat) : Nat := leAt p o n

/-- Whether a VF names only its own tenant, and TENANT_CONFIGURE only its ring pairs (R416, R443). -/
def ownParams (f op : Nat) (p : List Byte) : Bool :=
  isPf f || !(op == 0x60 || op == 0x61 || op == 0x71) ||
    (par p 0 1 == f && !(op == 0x60 && par p 2 2 % 8 != 0))

/-- REFUSED with REASON CODE. -/
def badCode (arg : Nat) : Rsp := rspRefused 2 arg

/-- OK with fields. -/
def okRsp (l : List (Nat × List Byte)) : Rsp := { result := fieldsAt l }

/-- A value clamped to a range. -/
def clampTo (lo hi v : Nat) : Nat := min hi (max lo v)

/-! ## The checks (R421) -/

/-- The live dies that a SCOPE names: one die, or a broadcast (R261). -/
def scopeDies (s : State) (scope : Nat) : List Nat :=
  if scope = 0xFFFF then liveDies s
  else if scope = 0xFFFE then (liveDies s).filter fun d => decide (d < 144)
  else if scope = 0xFFFD then (liveDies s).filter fun d => decide (144 ≤ d) && decide (d < 216)
  else (liveDies s).filter fun d => d == scope

/-- Whether a RESET_WARM has been answered and not begun, or a bind-off runs (R427). -/
def resetBusy (s : State) : Bool := s.boot.warmDue || s.boot.binding.isSome

/-- Check 4: load, resets, and conflicts between mailboxes (R323, R419, R427, R462, R480, R504, R543). -/
def conflict (q : MbReq) (op : Nat) (p : List Byte) (s : State) : Option Rsp :=
  if s.boot.trip then (if tripOps.contains op then none else some rspState)
  else if s.boot.pstate = 0 then (if castOps.contains op then none else some (rspBusy 0x12 0 q.env.remain))
  else if classOf op = 3 ∧ 2000 < q.env.wait then some (rspBusy 0x10 0 (q.env.wait - 2000))
  else if classOf op = 2 ∧ 10000 < q.env.wait then some (rspBusy 0x10 0 (q.env.wait - 10000))
  else if resetBusy s && !resetFree.contains op && !(op == 0x82 && !s.boot.warmDue) then some (rspBusy 0x12 0 q.env.remain)
  else if s.boot.pstate = 7 then
    (if freeOps.contains op || (s.pmem.failed.isEmpty && oosOps.contains op) then none else some rspState)
  else if (op == 0x60 || op == 0x62 || op == 0x71) && decide (par p 0 1 < 64) && (tenOf s (par p 0 1)).resetting then
    some { rspBusy 4 0x61 q.env.remain with arg := 0x61 }
  else if op = 0x33 ∧ s.pwr.warn ∧ par p 0 1 ≤ 1 then some rspState
  else if op = 0x22 ∧ s.pmem.rebuild.isSome then some (rspBusy 4 0xB0 q.env.remain)
  else if op = 0x30 ∧ s.dies.any (fun x => x.2.stale) then some (rspBusy 4 s.lode.swapOp q.env.remain)
  else if op = 0x30 ∧ (scopeDies s (par p 0 2)).any fun d => (dieOf s d).arm == .armed then some (rspRefused 6)
  else
    match s.swp with
    | some w => if op = 0x31 ∨ op = 0x33 then some (rspRefused 4 (swapHolder w)) else none
    | none => none

/-- Checks 1 to 4 of R421: the first that fails decides. -/
def checkReq (q : MbReq) (op : Nat) (p : List Byte) (s : State) : Option Rsp :=
  match whoMay op with
  | none => some { status := rsUnknown }
  | some w =>
    if (w == .pf && !isPf q.fn) || !ownParams q.fn op p then some (rspRefused 1)
    else if s.boot.pstate != 0 && !s.boot.trip && s.boot.lic.isNone && !freeOps.contains op then some { status := rsUnlicensed }
    else if op = 0x33 ∧ par p 0 1 = 1 ∧ s.boot.pstate ≠ 0 ∧ !(licFeatures s.boot.lic).getLsbD 1 then some { status := rsUnlicensed }
    else conflict q op p s

/-! ## Bulk input (R426) -/

/-- The bulk input of an in command of at most `most` bytes, or the refusal. -/
def bulkIn (q : MbReq) (most : Nat) : Rsp ⊕ List Byte :=
  if !q.bulkv || q.baddr.toNat % 64 != 0 then .inl (rspRefused 8 0)
  else if most < q.blen.toNat then .inl (rspRefused 8 3)
  else if !q.env.readOk then .inl (rspRefused 8 1)
  else .inr (fitBytes q.blen.toNat q.env.bulk)

/-! ## The request area (R408) -/

/-- The bytes of a request area. -/
def reqBytes (op : Nat) (q : MbReq) (p : List (Nat × List Byte)) : List Byte :=
  natLe 2 op ++ natLe 1 (b2n q.noint + 2 * b2n q.bulkv) ++ natLe 1 0 ++ natLe 4 q.blen.toNat ++ natLe 8 q.baddr.toNat ++
    natLe 16 0 ++ fieldsAt p

/-- The bytes that a table of words holds. -/
def areaBytes (t : Tab W32) : List Byte := (List.range 64).flatMap fun i => natLe 4 (tabGet 0 t i).toNat

/-- The request that stands in a function's request area. -/
def areaReq (f : Nat) (env : MbEnv) (m : Mailbox) : MbReq :=
  let b := areaBytes m.req
  { fn := f, tag := m.tag, noint := bitOf (leAt b 2 1) 0, bulkv := bitOf (leAt b 2 1) 1
    blen := BitVec.ofNat 32 (leAt b 4 4), baddr := BitVec.ofNat 64 (leAt b 8 8), env := env }

/-- The doorbell: OWN becomes 1 and the request waits (R411). -/
def submit (f : Nat) (s : State) : State :=
  modMb f (fun m => { m with own := true, taken := false, cls := classOf (leAt (areaBytes m.req) 0 2) }) s

/-! ## Fault records as bytes (R228) -/

/-- The 32 bytes of a fault record. -/
def faultBytes (r : FaultRec) : List Byte :=
  let w : BitVec 256 :=
    r.round ++ r.epoch ++ r.stitch ++ r.entry ++ r.slot ++ r.link ++ r.uop ++ r.sect ++ r.sc ++ r.clu ++ r.dkind ++
      r.lrank ++ r.pcourse ++ r.pcol ++ r.detail ++ r.addr ++ (0 : BitVec 16) ++ BitVec.ofBool r.replay ++
      BitVec.ofBool r.stop ++ BitVec.ofBool r.later ++ (0 : BitVec 5) ++ r.code
  natLe 32 w.toNat

end Sys2Proof.Machine
end

