-- ==== Sys2Proof/Machine/MbInfo.lean ====
section
/-! DEFINITION. Mailbox commands that read the panel, and those of licence, time, flags and policy (R431, R432,
R438, R439, R441, R442, R446, R447). -/

namespace Sys2Proof.Machine

open Sys2Proof

/-- What an immediate command does: its response, and the state in which that is written. -/
abbrev Imm := MbReq → List Byte → State → Rsp × State

/-- Carry out an immediate command (R418). -/
def answer (op : Nat) (f : Imm) (q : MbReq) (p : List Byte) (s : State) : State :=
  respond op q (f q p s).1 (f q p s).2

/-- A command that only reads. -/
def reads (f : MbReq → List Byte → State → Rsp) : Imm := fun q p s => (f q p s, s)

/-- The first refusal of a list of field checks, or else the command itself. -/
def checked (l : List (Bool × Rsp)) (s : State) (act : Rsp × State) : Rsp × State :=
  match l.find? (·.1) with
  | some x => (x.2, s)
  | none => act

/-- Applied values of a quantity: CLAMPED is set when they differ from those requested (R423). -/
def applied (same : Bool) (l : List (Nat × List Byte)) : Rsp := { okRsp l with clamped := !same }

/-! ## Identity and licence (R431, R432) -/

/-- IDENTIFY. -/
def identifyRsp (q : MbReq) (_ : List Byte) (s : State) : Rsp :=
  okRsp [(0, "CRD-P144".toList.map fun c => BitVec.ofNat 8 c.toNat), (0x10, fitBytes 16 Config.serial),
    (0x20, natLe 1 (licVariant s.boot.lic)), (0x21, natLe 1 (b2n (s.boot.co3Done && s.boot.classB))),
    (0x22, natLe 2 3), (0x24, natLe 4 s.boot.fwver.toNat), (0x28, natLe 4 Config.hwRev.toNat), (0x2C, natLe 1 q.fn),
    (0x2D, natLe 1 (b2n s.grid.anchorS))]

/-- TOOLREL of an image. -/
def imgToolrel (b : List Byte) : Nat := leAt b 0x14 4
/-- SRCID of an image. -/
def imgSrcid (b : List Byte) : List Byte := fitBytes 48 (b.drop 0x20)

/-- The fields of STATUS_READ that only PF0 and PF1 see. -/
def statusPf (s : State) : List (Nat × List Byte) :=
  let l := layNow s
  let run := s.pat.running.isSome
  [(2, natLe 1 (b2n s.pat.staged.isSome + 2 * b2n s.pat.committed.isSome + 4 * b2n run)), (4, natLe 4 l.alloc),
   (0x18, natLe 4 l.npool), (0x1C, natLe 4 l.nblk),
   (0x20, natLe 8 l.dirb ++ natLe 8 l.blkb ++ natLe 8 l.histb ++ natLe 8 l.poolb)] ++
  (if s.rnd.layout.isNone then [] else
    [(0x40, natLe 2 l.appendMax ++ natLe 2 l.tailLen ++ natLe 4 l.vocab ++ l.pslice.flatMap (natLe 4))]) ++
  (if run then [(0x60, natLe 4 (imgGrade (runImg s)) ++ natLe 4 (imgToolrel (runImg s)) ++ imgSrcid (runImg s))] else [])

/-- STATUS_READ. -/
def statusRsp (q : MbReq) (_ : List Byte) (s : State) : Rsp :=
  okRsp ([(0, natLe 1 (pstateOf s)), (1, natLe 1 (modeCode s.lode.mode)), (8, natLe 8 s.rnd.last.toNat), (0x10, timeBytes s)] ++
    (if isPf q.fn then statusPf s else []) ++
    (if hasTenant q.fn then
      [(0x98, natLe 4 (tenantSessions s q.fn).length), (0x9C, natLe 4 (tenOf s q.fn).quota),
       (0xA0, natLe 2 (tenOf s q.fn).epoch.toNat)] else []))

/-- The opcodes that a function may issue. -/
def mayIssue (f : Nat) : List Nat := allOps ++ ownOps ++ (if isPf f then pfOps else [])

/-- INTERFACE_CAPS. -/
def capsRsp (q : MbReq) (_ : List Byte) (s : State) : Rsp :=
  okRsp [(0, natLe 2 3), (4, (dieList ((mayIssue q.fn).map fun n => (n, 0))).1),
    (0x24, natLe 4 (licFeatures s.boot.lic).toNat), (0x28, natLe 1 8), (0x29, natLe 1 31), (0x2A, natLe 1 8),
    (0x2C, natLe 4 (licSessions s.boot.lic))]

/-- LICENCE_READ. -/
def licenceRsp (_ : MbReq) (_ : List Byte) (s : State) : Rsp :=
  let l := s.boot.lic
  okRsp [(0, natLe 1 (b2n l.isSome)), (1, natLe 1 (licVariant l)), (4, natLe 4 (licFeatures l).toNat),
    (8, natLe 4 (licSessions l)), (0xC, natLe 4 (licSeqMax l)), (0x10, natLe 8 ((l.map Licence.licid).getD 0).toNat),
    (0x18, natLe 8 ((l.map Licence.issued).getD 0).toNat)]

/-- Whether a licence would withdraw a feature in use (R12). -/
def licInUse (s : State) (l : Licence) : Bool :=
  (s.pat.running.isSome && !gradeLicensed (some l) (imgGrade (runImg s))) ||
  (s.lode.mode == .brisk && !l.variantX) ||
  (s.sess.any fun x => x.2.state != .free && decide (licSessions (some l) ≤ x.1)) ||
  ((List.range 6).any fun i => (portOf s i).state != .down && !(licFeatures (some l)).getLsbD (4 + i))

/-- Whether a licence is bound to this panel and verifies (R10). -/
def licGood (l : Licence) : Bool := l.sigOk && fitBytes 16 l.serial == fitBytes 16 Config.serial

/-- LICENCE_INSTALL (R10, R12): it takes effect at the next round boundary, or at once with no pattern. -/
def licenceInstallImm : Imm := fun q _ s =>
  let l := q.env.lic
  match bulkIn q 4096 with
  | .inl r => (r, s)
  | .inr _ =>
    checked [(q.blen == 0 || !licGood l, rspRefused 0xA), (licInUse s l, rspRefused 5)] s
      (let s1 := modBoot (fun b => { b with licNext := some l }) { s with flash := { s.flash with lic := some l } }
       (okRsp [(0, natLe 4 (licFeatures (some l)).toNat), (8, natLe 8 (if s.pat.running.isNone then 0 else (s.rnd.no + 1).toNat))],
        if s.pat.running.isNone then takeLicence s1 else s1))

/-! ## Time and timers (R446, R189) -/

/-- TIME_READ: zeros before the lodestar starts in CO3. -/
def timeRsp (_ : MbReq) (_ : List Byte) (s : State) : Rsp :=
  if !s.boot.co3Done then okRsp []
  else
    okRsp [(0, timeBytes s), (8, natLe 8 s.lode.startRef.toNat),
      (0x10, natLe 8 s.lode.stretched.toNat), (0x18, natLe 8 s.lode.added.toNat)]

/-- Change one timer of a function. -/
def setTimer (f t : Nat) (v : Option (BitVec 48)) (s : State) : State :=
  modFn f (fun x => { x with timers := tabPut none x.timers t v }) s

/-- TIMER_ARM: a target in the past fires at once, its event flagged late. -/
def timerArmImm : Imm := fun q p s =>
  let t := par p 0 1
  let target := BitVec.ofNat 48 (par p 8 8)
  let late := par p 1 1 == 0 && (stitchAhead target (stitchNow s)).isNone
  checked [(decide (7 < t), rspNotFound 0), (decide (1 < par p 1 1), badCode 1)] s
    (okRsp [(0, natLe 1 (b2n late)), (8, timeBytes s)],
     if par p 1 1 = 1 then setTimer q.fn t none s
     else if late then event q.fn 1 true (BitVec.ofNat 32 t) (setTimer q.fn t none s)
     else setTimer q.fn t (some target) s)

/-! ## Fault log and flags (R441, R442) -/

/-- FAULT_LOG_READ. -/
def faultLogRsp (q : MbReq) (p : List Byte) (s : State) : Rsp :=
  let next := s.flog.next.toNat
  let oldest := next - s.flog.recs.length
  let first := clampTo oldest next (par p 0 8)
  let most := clampTo 1 4096 (par p 8 4)
  let l := (s.flog.recs.drop (first - oldest)).take most
  let written := if q.bulkv then min l.length (q.blen.toNat / 32) else 0
  { applied (first == par p 0 8 && most == par p 8 4)
      [(0, natLe 8 oldest), (8, natLe 8 next), (0x10, natLe 4 written), (0x14, natLe 4 oldest)] with
    bulk := some (l.flatMap faultBytes) }

/-- FLAGS_READ. -/
def flagsReadRsp (_ : MbReq) (_ : List Byte) (s : State) : Rsp :=
  okRsp [(0, natLe 1 s.rnd.panelFlags.toNat), (4, natLe 4 s.rnd.flagRound.toNat),
    (8, (siteDies s).map fun d => (dieOf s d).summary),
    (0x8C, (List.range 66).map fun i => BitVec.ofNat 8
      (physOf s.grid.skip (2 * i) / 12 + 16 * (physOf s.grid.skip (2 * i + 1) / 12)))]

/-- FLAGS_CLEAR: it waits for the round-ending knot of a pattern that runs (R81). -/
def flagsClearCmd (q : MbReq) (p : List Byte) (s : State) : State :=
  let m : Byte := BitVec.ofNat 8 (par p 0 1)
  if s.pat.running.isSome then hold q (.flagsClear m) s
  else respond 0x56 q (flagsRsp s.rnd.panelFlags 0) (clearFlags m s)

/-! ## Darn map and policy (R439, R508) -/

/-- A bit map in bytes. -/
def bitMap (n : Nat) (f : Nat → Bool) : List Byte :=
  (List.range n).map fun i => BitVec.ofNat 8 (((List.range 8).map fun j => if f (8 * i + j) then 2 ^ j else 0).sum)

/-- Whether a link that a wale's next repair needs is standby-failed (R296). -/
def repairLinkBad (s : State) (w : Nat) : Bool :=
  ((List.range 4).any fun p => (peer (siteDie 11 w) p).isSome && (linkOf s (siteDie 11 w) p).sbfail) ||
  ((List.range 10).any fun c => (linkOf s (siteDie c w) 5).sbfail)

/-- DARN_READ. -/
def darnRsp (_ : MbReq) (_ : List Byte) (s : State) : Rsp :=
  okRsp [(0, (List.range 12).map fun w => BitVec.ofNat 8 (skipOf s.grid.skip w)),
    (0xC, (List.range 12).map fun w => BitVec.ofNat 8
      (b2n (skipOf s.grid.skip w != 11) + 2 * b2n (repairLinkBad s w) + 4 * b2n (noRepair s w))),
    (0x18, bitMap 24 fun d => decide (d < 144) && s.grid.retired.contains d),
    (0x30, bitMap 24 fun r => s.pat.running.isSome && s.grid.impaired.contains r), (0x48, natLe 1 (b2n (s.boot.pstate == 7))),
    (0x50, natLe 8 s.grid.changed.toNat)]

/-- REPAIR_POLICY_SET. -/
def repairPolicyImm : Imm := fun _ p s =>
  let r := clampTo 1 255 (par p 2 1)
  checked [(decide (1 < par p 0 1), badCode 0)] s
    (applied (r == par p 2 1) [(0, natLe 1 (par p 0 1)), (1, natLe 1 (par p 1 1)), (2, natLe 1 r)],
     { s with hlt := { s.hlt with impaired := par p 0 1, scoreMin := par p 1 1, repeats := r } })

/-! ## Memory (R328, R447, R321) -/

/-- Code of a stack's state (R301). -/
def stackCode : StackState → Nat
  | .inService => 0
  | .out => 1
  | .dead => 2
  | .rebuilding => 3

/-- Whether a stack serves as proxy for some row of its stripe (R317, R318). -/
def isProxy (s : State) (c m : Nat) : Bool :=
  !stackLost s c m && (List.range 12).any fun r =>
    serveCourse s m c r true == c && ((List.range 12).any fun x => stackLost s x m && serveCourse s m x r false == c)

/-- The stack status word.  SCRUB reads 0: a scrub visit is one step, so none is in progress between two commands (log
entry 26). -/
def stackWord (s : State) (c m : Nat) : Nat :=
  let x := stackOf s c m
  stackCode x.state * 2 ^ 28 + min x.temp 255 * 2 ^ 20 + x.refresh * 2 ^ 18 +
    b2n (isProxy s c m) * 2 ^ 16 + x.outwhy * 2 ^ 12 + c * 2 ^ 4 + m

/-- The poisoned sectors of a stripe. -/
def poisonCount (s : State) (m : Nat) : Nat :=
  ((s.pmem.poison.filter fun x => x.1 / stripeUnits == m).map fun x =>
    ((List.range 4).filter fun k => x.2.getLsbD k).length).sum

/-- The stripe status word. -/
def stripeWord (s : State) (m : Nat) : Nat :=
  lostIn s m * 2 ^ 28 + b2n (s.pmem.failed.contains m) * 2 ^ 27 +
    b2n ((s.pmem.rebuild.map Prod.snd) == some m) * 2 ^ 26 + min 0xFFFFFF (poisonCount s m)

/-- The row that a rebuild has reached (R321, R328): how fast it goes is a free value. -/
def rebuildReached (s : State) : Nat := min (numRows - 1) (s.pmem.rebuildRow + Config.rebuiltRows (refNow s).toNat)

/-- MEMORY_STATUS. -/
def memoryStatusRsp (_ : MbReq) (_ : List Byte) (s : State) : Rsp :=
  { okRsp [(0, (List.range 6).flatMap fun m => natLe 4 (stripeWord s m)), (0x18, natLe 2 s.pmem.period),
      (0x1C, natLe 4 (if s.pmem.rebuild.isSome then rebuildReached s else 0xFFFFFFFF)),
      (0x20, (List.range 6).flatMap fun m => natLe 4 (tabGet 0 s.pmem.scrubLast m))] with
    bulk := some ((List.range 72).flatMap fun i => natLe 4 (stackWord s (i / 6) (i % 6))) }

/-- MEMORY_SCRUB_SET: the period, and the rebuild of a stack that is OUT and whose DRAM trains, with no pattern running (R323), in a
stripe that has not failed (log entry 25). -/
def scrubSetImm : Imm := fun q p s =>
  let per := min 720 (par p 0 2)
  let rb := par p 2 1
  let c := par p 3 1
  let m := par p 4 1
  checked [(decide (1 < rb), badCode 2), (rb == 1 && decide (11 < c), rspNotFound 3), (rb == 1 && decide (5 < m), rspNotFound 4),
      (rb == 1 && ((stackOf s c m).state != .out || s.pmem.failed.contains m || s.pat.running.isSome || !q.env.trains), rspState),
      (rb == 1 && s.pmem.rebuild.isSome, rspRefused 4 0xB0)] s
    (let s1 := { s with pmem := { s.pmem with period := per } }
     (applied (per == par p 0 2) [(0, natLe 2 per), (2, natLe 1 rb), (3, natLe 1 c), (4, natLe 1 m)],
      if rb = 1 then
        (let s2 := saveStackMap (modStack c m (fun x => { x with state := .rebuilding }) s1)
         { s2 with pmem := { s2.pmem with rebuild := some (c, m), rebuildRow := 0 } })
      else s1))

/-! ## Firmware (R447, R459) -/

/-- The image in the boot slot. -/
def bootSlot (f : Flash) : Option Firmware := if f.bootB then f.slotB else f.slotA

/-- FIRMWARE_STAGE: the inactive slot takes an image whose signature verifies, and none otherwise. -/
def firmwareStageImm : Imm := fun q _ s =>
  let put := fun (x : Option Firmware) (s : State) =>
    { s with flash := if s.flash.bootB then { s.flash with slotA := x, staged := x } else { s.flash with slotB := x, staged := x } }
  match bulkIn q (min (32 * 2 ^ 20) Config.slotSize) with
  | .inl r => (r, s)
  | .inr _ =>
    if q.env.fw.sigOk then (okRsp [(0, natLe 4 q.env.fw.version.toNat)], put (some q.env.fw) s)
    else ({ status := rsBadImage }, put none s)

/-- FIRMWARE_ACTIVATE: the staged slot becomes the boot slot; WHEN 1 asks for a warm reset after the
response. -/
def firmwareActivateImm : Imm := fun _ p s =>
  match s.flash.staged with
  | none => checked [(decide (1 < par p 0 1), badCode 0)] s (rspNotFound 0, s)
  | some fw =>
    checked [(decide (1 < par p 0 1), badCode 0)] s
      (okRsp [(0, natLe 4 s.boot.fwver.toNat), (4, natLe 4 fw.version.toNat)],
       (let s1 := { s with flash := { s.flash with bootB := !s.flash.bootB, staged := none } }
        if par p 0 1 = 1 then modBoot (fun b => { b with warmDue := true }) s1 else s1))

end Sys2Proof.Machine
end

