-- ==== Sys2Proof/Machine/Cooling.lean ====
section
/-! DEFINITION. The cold plate and the cap in force (R526, R531, R536 to R538, R542). -/

namespace Sys2Proof.Machine

open Sys2Proof

/-- Change the cooling state. -/
def modThm (g : Thermal → Thermal) (s : State) : State := { s with thm := g s.thm }

/-! ## Resistances in use (R537) -/

/-- The resistance in use: the mean of the accepted measurements, else the stored value, else the requirement
of R535. -/
def resistance (l : List Rat) (stored : Option Rat) (req : Rat) : Rat :=
  if l.isEmpty then stored.getD req else l.sum / l.length

/-- R_C in K/W. -/
def resC (s : State) : Rat := resistance s.thm.rc s.thm.storedC (58 / 10000)
/-- R_M in K/W. -/
def resM (s : State) : Rat := resistance s.thm.rm s.thm.storedM (15 / 1000)

/-- A resistance in whole mK/W. -/
def milliK (r : Rat) : Nat := (r * 1000).floor.toNat

/-- A zone's allowance: the watts that take it from its inlet (in hundredths of a degree) to a limit. -/
def allowanceOf (limit : Int) (inlet : Int) (r : Rat) (free : Nat) : Nat :=
  if 0 < r then (((limit * 100 - inlet : Int) : Rat) / 100 / r).floor.toNat else Config.allowance free

/-- PC, PM and THERMCAP (R538). -/
def setCaps (s : State) : State :=
  let pc := allowanceOf 90 s.thm.tcmp (resC s) s.free
  let pm := allowanceOf 85 s.thm.tmem (resM s) (s.free + 1)
  let s1 := modThm (fun t => { t with pc := pc, pm := pm, cap := min 11500 (pc + pm) }) s
  if 0 < resC s ∧ 0 < resM s then s1 else { s1 with free := s1.free + 2 }

/-- Reference counts in a second. -/
def refSecond : Nat := 2000000000

/-- Event 0x06 when the cap in force differs by 100 W or more from the one last reported, at most once per
second of the reference count (R531). -/
def reportCap (s : State) : State :=
  let e := effectiveCap s
  let far := decide (100 ≤ e - s.pwr.lastEff) || decide (100 ≤ s.pwr.lastEff - e)
  let soon := match s.pwr.effAt with
    | some t => decide ((refNow s - t).toNat < refSecond)
    | none => false
  if far && !soon then
    eventPf 6 (BitVec.ofNat 32 e) (modPwr (fun p => { p with lastEff := e, effAt := some (refNow s) }) s)
  else s

/-- The host cap (R437, R526). -/
def setHostCap (cap : Nat) (s : State) : State := reportCap (modPwr (fun p => { p with hostCap := clampTo 2500 11500 cap }) s)

/-- A reported inlet temperature in hundredths of a degree, clamped (R536). -/
def clampInlet (t : W16) : Int := max 500 (min 5500 t.toInt)

/-- An accepted coolant report. -/
def coolantReport (tmem tcmp : W16) (s : State) : State :=
  reportCap (setCaps (modThm (fun t => { t with tmem := clampInlet tmem, tcmp := clampInlet tcmp }) s))

/-! ## THERM_ALERT_N (R542) -/

/-- Whether a resistance in use or the cap in force alerts: R_C or R_M at 1.2 times its requirement, or a cap below
what the levers reach. -/
def plateAlert (s : State) : Bool :=
  decide (6 / 5 * (58 / 10000 : Rat) ≤ resC s) || decide (6 / 5 * (15 / 1000 : Rat) ≤ resM s) || decide (effectiveCap s < 2490)

/-- Whether a die's temperature alerts. -/
def dieAlert (s : State) (d : Nat) : Bool :=
  siteOn s d && (if 144 ≤ d ∧ d < 216 then decide (95 < dieTemp s d) else decide (105 ≤ dieTemp s d))

end Sys2Proof.Machine
end

