-- ==== Sys2Proof/Machine/LinkEvents.lean ====
section
/-! DEFINITION. Link faults and requests (R286, R287, R290 to R293): the ladder run on a link in service and
what follows it. -/

namespace Sys2Proof.Machine

open Sys2Proof

/-- Run the ladder on a link from a step, with the freeze that covers it, and what follows: set loads are
recomputed, and a link that ends FAILED is charged (R290, R291).  The action begins and ends within the command, so TRAINING, WAKING and RETRAINING
pass in it (log entry 144). -/
def runLadder (die port first : Nat) (env : LadderEnv) (rep : RepairEnv) (s : State) : State :=
  let asked := freezeEnds s die port
  let s1 := climb die port first env (linkFreeze die port s)
  if (linkOf s1 die port).state = .failed then linkFailed die port rep s1
  else afterLinkChange (linkRelease asked s1)

/-! ## Frames (R279, R283, R284) -/

/-- A frame is to be replayed, or its link is retrained where it has been replayed 4 times (R284). -/
def replayOr (die port : Nat) (q : BitVec 12) (env : LadderEnv) (rep : RepairEnv) (s : State) : State :=
  if replayLimit s die port q then runLadder die port 1 env rep s else modTx die port (askReplay q) s

/-- AXUST_FRAME_RECEIVE: nothing of a frame that fails its CRC is acted on (R279); a good frame's ACKSEQ
and NAKSEQ are applied, and its flit is forwarded once (R283). -/
def axustReceive (die port : Nat) (b : BitVec 256) (payload : List Byte) (env : LadderEnv) (rep : RepairEnv) (s : State) : State :=
  let f := frameFields b payload
  if (linkOf s die port).state ≠ .axust then s
  else if !frameGood b payload then modRx die port (fun x => { x with cnt := cntInc x.cnt (8 + min f.chan 5) }) s
  else
    let s1 := takeFrame die port f s
    if nakNamed s1 die port f then replayOr die port f.nakseq env rep s1 else s1

/-- REPLAY_TIMEOUT: a frame unacknowledged 64 ns after it was sent is replayed unprompted (R283). -/
def replayTimeout (die port : Nat) (q : BitVec 12) (env : LadderEnv) (rep : RepairEnv) (s : State) : State :=
  if (linkOf s die port).state ≠ .axust then s
  else
    match frameOf (txDir (linkOf s die port) die port) q with
    | none => s
    | some _ => replayOr die port q env rep (dirCount die port 17 s)

/-- LINK_FAULT: a link in AXUST (or one already retraining) runs the ladder. -/
def linkFault (die port : Nat) (env : LadderEnv) (rep : RepairEnv) (s : State) : State :=
  match (linkOf s die port).state with
  | .axust => runLadder die port 1 env rep s
  | .retraining => runLadder die port 1 env rep s
  | _ => s

/-! ## RAW (R288, R289) -/

/-- RAW_FLIT_RECEIVE: a raw flit whose CRC fails or whose RSEQ is out of order is discarded and raises
LCK, which aborts the round and is charged under R291 (R508); both ends then reset RSEQ (R289). -/
def rawReceive (die port : Nat) (b : List Byte) (s : State) : State :=
  let l := linkOf s die port
  if l.state ≠ .raw then s
  else if rawGood b && rawSeq b == (rxDir l die port).rseqRx then
    acceptSet die (rawHdr b) (b.take 256)
      (modRx die port (fun x => { x with rseqRx := x.rseqRx + 1 }) s)
  else
    let s1 := modRx die port (fun x => { x with cnt := cntInc x.cnt 14 }) s
    let s2 := addFault die { code := 0x21, link := BitVec.ofNat 4 (linkCode die port) }
      (match chargedSite s die port with | some x => chargeFault x s1 | none => s1)
    abortRound 3 (modLink die port (fun l => { l with
      d0 := { l.d0 with rseqTx := 0, rseqRx := 0 }, d1 := { l.d1 with rseqTx := 0, rseqRx := 0 } }) s2)

/-! ## Requests (R292, R293) -/

/-- Count the requests made: the leader's and the follower's are outstanding until the action ends (R292, R299). -/
def noteRequests (lead follow : Option SideReq) (l : Link) : Link :=
  { l with
    reqLead := lead, reqFollow := if lead.isSome then none else follow
    cnt := cntInc (cntInc (cntInc l.cnt 7 lead.isSome.toNat) 8 follow.isSome.toNat) 9 (lead.isSome && follow.isSome).toNat }

/-- RETRAIN_REQUEST: an end receives the other end's request, `own` being the one it has itself outstanding.  While an action runs it joins that
action (R293); when both ends have asked, the leader's request proceeds and the follower's is absorbed. -/
def retrainRequest (die port : Nat) (kind : SideReq) (own : Option SideReq) (env : LadderEnv) (rep : RepairEnv) (s : State) : State :=
  let l := linkOf s die port
  if l.acting || l.state == .retraining then
    modLink die port (fun l => { l with cnt := cntInc l.cnt (if leads die port then 10 else 21) }) s
  else if l.state ≠ .axust ∧ l.state ≠ .raw then s
  else
    let lead := if leads die port then own else some kind
    let follow := if leads die port then some kind else own
    let k := lead.getD kind
    runLadder die port (if k = .retrain then 1 else 2) env rep (modLink die port (noteRequests lead follow) s)


end Sys2Proof.Machine
end

