-- ==== Sys2Proof/Machine/MbHealth.lean ====
section
/-! DEFINITION. Mailbox commands of power, cooling, health and links (R437 to R440, R447). -/

namespace Sys2Proof.Machine

open Sys2Proof

/-- Bytes of a number that may be negative, in two's complement. -/
def intLe (n : Nat) (v : Int) : List Byte := natLe n (v % (2 : Int) ^ (8 * n)).toNat

/-! ## Power (R437) -/

/-- POWER_CAP_SET. -/
def powerCapImm : Imm := fun _ p s =>
  let c := clampTo 2500 11500 (par p 0 4)
  let s1 := setHostCap c s
  (applied (c == par p 0 4) [(0, natLe 4 c), (4, natLe 4 (effectiveCap s1)), (8, natLe 4 s1.thm.cap)], s1)

/-- A cluster's rail in mV: characterised for its set point and raised by its trims, up to its ceiling (R518); 0
without power. -/
def railOf (s : State) (d k : Nat) : Nat :=
  let c := cluOf s d k
  if siteOn s d then
    min 900 (min c.vceil (Config.railMv (d * 4 + k) (setPoint s d) + c.trim))
  else 0

/-- POWER_READ.  The currents and course powers are sensor readings (log entry 19). -/
def powerReadImm : Imm := fun _ _ s =>
  let rd := fun i => natLe 2 (Config.reading s.free i)
  ({ okRsp [(0, natLe 4 s.pwr.draws.panel), (4, natLe 4 s.pwr.hostCap), (8, natLe 4 (effectiveCap s)),
      (0xC, natLe 1 (modeCode s.lode.mode)), (0xD, natLe 1 (b2n s.pwr.warn)),
      (0x10, (List.range 12).flatMap fun c => rd (576 + c)), (0x28, (List.range 12).flatMap fun c => rd (588 + c))] with
      bulk := some ((List.range 576).flatMap fun i => natLe 2 (railOf s (i / 4) (i % 4)) ++ rd i) },
   { s with free := s.free + 1 })

/-! ## Cooling (R437) -/

/-- COOLANT_REPORT. -/
def coolantImm : Imm := fun _ p s =>
  let a : W16 := BitVec.ofNat 16 (par p 0 2)
  let b : W16 := BitVec.ofNat 16 (par p 2 2)
  let s1 := coolantReport a b s
  (applied (clampInlet a == a.toInt && clampInlet b == b.toInt)
    [(0, intLe 2 (clampInlet a)), (2, intLe 2 (clampInlet b)), (4, natLe 4 (milliK (resM s1))), (8, natLe 4 (milliK (resC s1))),
     (0xC, natLe 4 s1.thm.cap)], s1)

/-- The entry of a die in THERMAL_READ. -/
def thermalEntry (s : State) (d : Nat) : List Byte :=
  natLe 1 (if siteOn s d then min 0xFE (dieTemp s d) else 0xFF) ++
    natLe 1 (b2n ((throttledDies s).contains d) + 2 * b2n (dieAlert s d)) ++ natLe 2 0 ++
    natLe 4 ((tabGet {} s.thm.cycles d).half / 2)

/-- THERMAL_READ. -/
def thermalRsp (_ : MbReq) (_ : List Byte) (s : State) : Rsp :=
  { okRsp [(0, natLe 1 (hotCompute s).2), (2, natLe 2 (hotCompute s).1), (4, natLe 1 (hotStack s).2),
      (6, natLe 2 (hotStack s).1), (8, natLe 2 (throttledDies s).length),
      (0xC, intLe 2 s.thm.tmem ++ intLe 2 s.thm.tcmp), (0x10, natLe 4 (milliK (resM s)) ++ natLe 4 (milliK (resC s))),
      (0x18, natLe 4 s.thm.cap)] with
    bulk := some ((List.range numDies).flatMap (thermalEntry s)) }

/-! ## Counter records (R438) -/

/-- The entries of a counter group: identifier, cluster, value. -/
def groupItems (g inst : Nat) (l : List W32) : List Byte :=
  l.zipIdx.flatMap fun x => natLe 2 (g * 256 + x.2 + 1) ++ natLe 2 inst ++ natLe 4 x.1.toNat

/-- A counter record. -/
def counterRecord (kind score lrank index port : Nat) (items : List Byte) : List Byte :=
  natLe 1 kind ++ natLe 1 score ++ natLe 1 lrank ++ natLe 1 0 ++ natLe 2 index ++ natLe 1 port ++ natLe 1 0 ++
    natLe 4 (items.length / 8) ++ natLe 4 0 ++ items

/-- Several counters of a table. -/
def counters (t : Tab W32) (l : List Nat) : List W32 := l.map (tabGet 0 t)

/-- Group 0x01 of a compute site (R112, R195). -/
def clusterItems (s : State) (d k : Nat) : List Byte :=
  let c := cluOf s d k
  groupItems 1 k [c.mx.waitCount, c.mx.busyCount, c.extCaused, c.freezeReqs, c.pauseCyc, c.warnIv, c.tbu]

/-- Groups 0x02, 0x04 and 0x06 of a die (R195, R224, R269). -/
def dieItems (s : State) (d : Nat) : List Byte :=
  let x := dieOf s d
  let n := niOf s d
  groupItems 2 0 ([x.warns] ++ counters x.tbCounts [0x10, 0x11, 0x12, 0x13, 0x14] ++ [BitVec.ofNat 32 x.phaseMax, x.lostRecs]) ++
    groupItems 4 0 (counters n.cnt (List.range 9)) ++ groupItems 6 0 (counters n.cnt [12, 13, 14])

/-- The record of a die. -/
def dieRecord (s : State) (d : Nat) : List Byte :=
  let lrank := (rankOf s.grid.skip d).getD 0xFF
  match dieKind d with
  | 0 => counterRecord 0 (scoreOf s d) lrank d 0xFF ((List.range 4).flatMap (clusterItems s d) ++ dieItems s d)
  | 1 => counterRecord 1 (scoreOf s d) 0xFF d 0xFF
      (dieItems s d ++ groupItems 7 0 (counters (stackOf s (dieCourse d) (dieCol d)).cnt (List.range 22)))
  | _ => counterRecord 4 (scoreOf s d) 0xFF d 0xFF (dieItems s d)

/-- The record of a link end (R269, R299, R185). -/
def endRecord (s : State) (d p : Nat) : List Byte :=
  let l := linkOf s d p
  let tx := txDir l d p
  let rx := rxDir l d p
  counterRecord 2 (scoreOf s (512 + 8 * d + p)) ((rankOf s.grid.skip d).getD 0xFF) d p
    (groupItems 3 0 (counters tx.cnt (List.range 6) ++ counters rx.cnt [8, 9, 10, 11, 12, 13, 14] ++ counters tx.cnt [15] ++
        counters rx.cnt [16] ++ counters tx.cnt [17, 18, 19] ++ counters l.cnt [0, 1, 2, 3, 4, 5, 6, if leads d p then 7 else 8, if leads d p then 20 else 9,
          if leads d p then 10 else 21] ++
        counters l.cnt (List.range' 11 9) ++ [BitVec.ofNat 32 rx.margin]) ++
      groupItems 5 0 (counters (niOf s d).cnt [ctlCnt p 0, ctlCnt p 1, ctlCnt p 2]))

/-- The record of a course (R547). -/
def courseRecord (s : State) (c : Nat) : List Byte :=
  counterRecord 3 (scoreOf s (256 + c)) 0xFF c 0xFF
    (groupItems 8 0 (counters s.pwr.cnt (List.range' (16 * c + 1) 8) ++
      [BitVec.ofNat 32 (tabGet 1350 s.pwr.courseSp c), BitVec.ofNat 32 (s.pwr.capSp * 65536 + s.pwr.duty)]))

/-- The ends of a die's links. -/
def endsOf (d : Nat) : List (Nat × Nat) := ((List.range 6).filter fun p => (peer d p).isSome).map fun p => (d, p)

/-- The dies whose counters a scope takes in, with the records it produces. -/
def scopeRecords (s : State) (scope port index : Nat) : List Nat × List (List Byte) :=
  match scope with
  | 0 => (List.range numDies, (List.range numDies).map (dieRecord s) ++
      ((List.range numDies).flatMap endsOf).map (fun e => endRecord s e.1 e.2) ++ (List.range 12).map (courseRecord s))
  | 1 => ([index], [dieRecord s index])
  | 2 => ([], [endRecord s index port])
  | _ => ([], [courseRecord s index])

/-- HEALTH_READ.  Reading a die's counters starts its largest phase error anew (R195). -/
def healthReadImm : Imm := fun _ p s =>
  let scope := par p 0 1
  let port := par p 1 1
  let index := par p 2 2
  let r := scopeRecords s scope port index
  checked [(decide (3 < scope), badCode 0), (scope == 2 && decide (5 < port), rspNotFound 1),
      ((scope == 1 || scope == 2) && decide (numDies ≤ index), rspNotFound 2), (scope == 3 && decide (12 ≤ index), rspNotFound 2),
      (scope == 2 && (peer index port).isNone, rspNotFound 1)] s
    ({ okRsp [(0, natLe 4 r.2.length), (4, natLe 1 (b2n s.hlt.stale)),
        (8, natLe 4 ((refNow s - s.hlt.scoredAt).toNat / 2000000))] with bulk := some r.2.flatten },
     modDies r.1 (fun x => { x with phaseMax := 0 }) s)

/-! ## Links (R297, R298, R447) -/

/-- The link status word (R298); lanes and bundles are in use on a link that carries flits. -/
def linkWord (s : State) (d p : Nat) (l : Link) : Nat :=
  let st := match l.state with
    | .down => 0 | .training => 1 | .axust => 2 | .raw => 3 | .standby => 4 | .waking => 5 | .retraining => 6 | .disabled => 7
    | .failed => 8
  let used := linkPeriod l != 0
  st * 2 ^ 28 + linkPeriod l * 2 ^ 24 + (if used then l.lanes0 + l.lanes1 else 0) * 2 ^ 16 + b2n (used && l.fb1) * 2 ^ 15 +
    b2n (used && l.fb0) * 2 ^ 14 + b2n (used && l.lanes1 != 0) * 2 ^ 13 + b2n (used && l.lanes0 != 0) * 2 ^ 12 + b2n (l.overc && s.pat.running.isSome) * 2 ^ 11 +
    b2n (leads d p) * 2 ^ 10 + b2n l.saved * 2 ^ 9 + b2n l.sbfail * 2 ^ 8 + p * 2 ^ 4 + l.failwhy

/-- LINK_READ. -/
def linkReadRsp (_ : MbReq) (p : List Byte) (s : State) : Rsp :=
  let d := par p 0 2
  let port := par p 2 1
  let ports := (endsOf d).filter fun e => port == 0xFF || e.2 == port
  if numDies ≤ d then rspNotFound 0
  else if ports.isEmpty then rspNotFound 2
  else
    { okRsp [(0, natLe 1 ports.length),
        (4, (List.range 6).flatMap fun i => natLe 4 (if ports.contains (d, i) then linkWord s d i (linkOf s d i) else 0))] with
      bulk := some (ports.flatMap fun e => endRecord s e.1 e.2) }

/-- Whether the darn map keeps a link in STANDBY: a bypass link whose skipped course is in use, or a link of a
gated spare site (R294). -/
def wantsStandby (s : State) (d p : Nat) : Bool :=
  let spare := fun (x : Nat) => decide (x < 144) && (rankOf s.grid.skip x).isNone && !s.grid.retired.contains x &&
    !courseLost s (x / 12)
  match peer d p with
  | none => false
  | some e =>
    let a := if leads d p then d else e.1
    spare d || spare e.1 ||
      (isWaleBypass d p && skipOf s.grid.skip (a % 12) != a / 12 + 1) ||
      (isRingBypass d p && !courseLost s (if isNorth d || isNorth e.1 then 0 else 11))

/-- Whether an end of a link is a compute die. -/
def computeEnd (d p : Nat) : Bool := decide (d < 144) || (match peer d p with | some e => decide (e.1 < 144) | none => false)

/-- Whether an end of a link is a retired die. -/
def retiredEnd (s : State) (d p : Nat) : Bool :=
  s.grid.retired.contains d || (match peer d p with | some e => s.grid.retired.contains e.1 | none => false)

/-- What a full training makes of a link (R275, R297). -/
def trained (env : LadderEnv) (s : State) (d p : Nat) : Link := trainLink (depthLimit true d p) (identOk s d p env) env (linkOf s d p)

/-- Whether a link is a retired die's and DISABLED, so that a full training only reports (R297). -/
def reportsOnly (s : State) (d p : Nat) : Bool := (linkOf s d p).state == .disabled && retiredEnd s d p

/-- A full training ordered by Herus (R297): a link that the darn map keeps in STANDBY returns there, and one that ends FAILED is charged (R291). -/
def fullTrain (env : LadderEnv) (d p : Nat) (s : State) : State :=
  let x := trained env s d p
  let s1 := noteDepths d p (modLink d p (fun _ => if x.state = .axust ∧ wantsStandby s d p then { x with state := .standby } else x) s)
  if x.state = .failed then linkFailed d p {} s1 else afterLinkChange s1

/-- LINK_RETRAIN: the response carries the status word at the end.  A quick form that finds an action in progress joins it and returns its result
(R293). -/
def linkRetrainImm : Imm := fun q p s =>
  let d := par p 0 2
  let port := par p 2 1
  let form := par p 3 1
  let st := (linkOf s d port).state
  let fin := fun (s : State) => (okRsp [(0, natLe 4 (linkWord s d port (linkOf s d port)))], s)
  checked [(decide (numDies ≤ d), rspNotFound 0), ((peer d port).isNone, rspNotFound 2), (decide (1 < form), badCode 3),
      (s.boot.bound && computeEnd d port, rspState),
      (form == 0 && st != .axust && st != .raw && st != .retraining, rspState),
      (form == 1 && (st == .axust || st == .raw) && s.pat.running.isSome, rspState)] s
    (if form = 0 then
      fin (runLadder d port 1 q.env.ladder {} (if st = .retraining then
        modLink d port (fun l => { l with cnt := cntInc l.cnt (if leads d port then 10 else 21) }) s else s))
    else if reportsOnly s d port then
      (okRsp [(0, natLe 4 (linkWord s d port { trained q.env.ladder s d port with state := .disabled }))], s)
    else fin (fullTrain q.env.ladder d port s))

end Sys2Proof.Machine
end

