-- ==== Sys2Proof/Machine/MbPattern.lean ====
section
/-! DEFINITION. Mailbox commands of patterns and weight intake (R218 to R223, R344 to R346, R396 to R399, R433,
R481). -/

namespace Sys2Proof.Machine

open Sys2Proof

/-! ## Staging and committing (R218 to R220) -/

/-- The response of PATTERN_STAGE. -/
def stageRsp (b : List Byte) (f : Option CheckFail) : Rsp :=
  let x := f.getD { check := 0 }
  let r := okRsp [(0, natLe 1 x.check), (1, natLe 1 x.sc), (2, natLe 1 x.rank), (4, natLe 4 x.index), (8, natLe 4 (imgGrade b)),
    (0xC, natLe 4 (imgToolrel b)), (0x10, natLe 8 (imgLen b)), (0x18, imgSrcid b)]
  if x.check = 0 then r
  else if x.check = 4 then { r with status := rsUnlicensed }
  else if x.check = 5 then { r with status := rsRefused, reason := 3 }
  else { r with status := rsBadImage, reason := 0xD, arg := x.check }

/-- PATTERN_STAGE. -/
def patternStageImm : Imm := fun q _ s =>
  match bulkIn q (2 ^ 30) with
  | .inl r => (r, s)
  | .inr b =>
    let f := stageCheck s.boot.lic b
    (stageRsp b f, if f.isNone then modPat (fun p => { p with staged := some b }) s else s)

/-- PATTERN_COMMIT. -/
def patternCommitImm : Imm := fun _ _ s =>
  match s.pat.staged with
  | none => (rspNotFound 0, s)
  | some b =>
    match commitImage s b with
    | .inr i => ({ okRsp [(0, natLe 4 i), (8, natLe 8 (imgAlloc b))] with status := rsBadImage }, s)
    | .inl b' =>
      (okRsp [(0, natLe 4 0xFFFFFFFF), (8, natLe 8 (imgAlloc b))],
       modPat (fun p => { p with staged := none, committed := some b' }) s)

/-! ## Starting (R221, R344 to R346) -/

/-- Bytes of a descriptor area. -/
def descSize (b : List Byte) : Nat := 256 + 36 * rmaxOf b

/-- Whether a descriptor area lies within one write-permitted panel window of some stream core. -/
def descPlaced (b : List Byte) (a : Nat) : Bool :=
  (imgBlocks b).any fun x => (List.range 32).any fun j => (blockPwins b x j).any fun w =>
    w.w && decide (w.base ≤ a) && decide (a + ceilDiv (descSize b) 256 ≤ w.base + w.len)

/-- The layout that an image would run with. -/
def startLayout (b : List Byte) : Layout := layoutAt (layoutOf b) (largestPool (layoutOf b))

/-- Whether the layout in force, if any, keeps its sessions under an image's layout (R345). -/
def keepsLayout (s : State) (l : Layout) : Bool :=
  match s.rnd.layout with
  | none => true
  | some x => sameLayout x l

/-- Step 1 of R221, R344, R345 and R346: what refuses a start. -/
def startRefused (s : State) (b : List Byte) : Option Rsp :=
  let g := imgGrade b
  let l := startLayout b
  if (bitOf g 0 && s.lode.mode == .steady) || (!bitOf g 4 && s.boot.classB) then some (rspRefused 0xC)
  else if !gradeLicensed s.boot.lic g then some { status := rsUnlicensed }
  else if !descPlaced b l.desc0 || !descPlaced b l.desc1 then some rspState
  else if !keepsLayout s l && !(openSessions s).isEmpty then some rspState
  else if l.npool = 0 ∨ l.npool < (usedPages s).length then some rspState
  else none

/-- The response of PATTERN_START. -/
def startRsp (first : W64) (k : W64) (npool : Nat) (bad : List (Nat × Nat)) : Rsp :=
  let d := dieList bad
  { okRsp [(0, natLe 8 first.toNat), (8, natLe 8 k.toNat), (0x10, natLe 4 npool), (0xC0, d.1)] with
    status := if bad.isEmpty then rsOk else rsPartial, arg := d.2.2, bulk := some d.2.1 }

/-- Steps 2 to 5 of R221: the fabric is drained, every site is loaded, and knot NSECT - 1 fires. -/
def loadAndStart (b : List Byte) (s : State) : State :=
  let b' := rewindowAll s b
  let s1 := drainFabric s
  let s2 := { s1 with pat := { s1.pat with running := some b', sect := 0, inSect := false }
                      rnd := { s1.rnd with layout := some (startLayout b'), active := false, parts := [] } }
  boundary (stitchNow s) false (afterLinkChange (loadAll b' (writeResident b' (fieldFresh s2))))

/-! ## Back from the bound-off state (R481) -/

/-- The courses of a wale whose sites are unusable (R467): retired, lost, or in a list of failed dies. -/
def unusableOf (s : State) (extra : List Nat) (w : Nat) : List Nat :=
  (List.range 12).filter fun c =>
    s.grid.retired.contains (siteDie c w) || courseLost s c || extra.contains (siteDie c w)

/-- A link that trains when its dies are powered again (R275): from its saved settings where they give an AXUST
width, else in full; those that the darn map keeps in STANDBY go there. -/
def retrainSaved (d p : Nat) (s : State) : State :=
  modLink d p (fun l =>
    let x := trainLink (depthLimit true d p) true (savedFind l) l
    if wantsStandby s d p then { x with state := .standby } else x) s

/-- Whether both ends of a link have power. -/
def endsPowered (s : State) (d p : Nat) : Bool :=
  diePowered s d && (match peer d p with | some e => diePowered s e.1 | none => false)

/-- Retire a site that failed when the compute field came back (R467, R505: DETAIL 10). -/
def retireFailed (d : Nat) (s : State) : State :=
  let w := d % 12
  let skip := skipOf s.grid.skip w
  let after := if skip = 11 then d / 12 else skip
  let s1 := markRetired d (addFault d { code := 0x50, detail := 10, addr := BitVec.ofNat 32 after } s)
  disableLinks d (if skip = after then s1 else setSkip w after s1)

/-- A compute die that is powered again takes the lodestar's time and the mode in force. -/
def rejoin (d : Nat) (s : State) : State :=
  let a := dieOf s (anchorDie s)
  closeHeaders d <| modDie d (fun x =>
    let c := { x.active with mode := s.lode.mode }
    { x with ref := a.ref, phase := a.phase, len := a.len, count := a.count, epoch := a.epoch, active := c, shadow := c
             arm := .idle }) s

/-- Whether a die has no power in the bound-off state or after a VIN removal. -/
def awayDie (s : State) (d : Nat) : Bool := decide (d < 144) && (s.boot.bound || s.boot.vinGone.contains (d / 12))

/-- Bring the compute field, or the courses whose VIN was removed, back up: the wale with no spare left, if any, and
the state. -/
def fieldBack (bad : List Nat) (s : State) : Option Nat × State :=
  let fail := (rising bad).filter fun d => decide (d < 144) && !s.grid.retired.contains d && !courseLost s (d / 12)
  let s1 := fail.foldl (fun s d => retireFailed d s) s
  let s2 := { s1 with flash := { s1.flash with savedSkip := s1.grid.skip } }
  match (List.range 12).find? fun w => decide (2 ≤ (unusableOf s fail w).length) with
  | some w => (some w, s2)
  | none =>
    let s3 := modBoot (fun b => { b with pstate := 1, phase := 8, bound := false, vinGone := [] }) s2
    let s4 := (siteDies s3).foldl (fun t d => if awayDie s d then rejoin d t else t) s3
    (none, allLinks.foldl (fun s e =>
      if (linkOf s e.1 e.2).state == .down && endsPowered s e.1 e.2 then retrainSaved e.1 e.2 s else s) s4)

/-- Whether a course that a start needs has no PWR_GOOD (R481, R515). -/
def courseMissing (s : State) : Bool :=
  (List.range 12).any fun c => !courseLost s c && (!s.boot.bound || s.boot.boundGood.contains c) && !s.boot.good.contains c

/-- The panel as a start finds its mode: lean while PWR_WARN_N is still asserted after a bind-off (R533). -/
def startMode (bound : Bool) (s : State) : State := if bound && s.pwr.warn then forceLean s else s

/-- PATTERN_START. -/
def patternStartImm : Imm := fun q _ s =>
  match s.pat.committed with
  | none => (rspNotFound 0, s)
  | some b0 =>
    if s.pat.running.isSome then (rspState, s)
    else
      let b := rewindowAll s b0
      match startRefused (startMode s.boot.bound s) b with
      | some r => (r, s)
      | none =>
        if courseMissing s then (rspState, s)
        else
          let back := if s.boot.bound || !s.boot.vinGone.isEmpty then fieldBack q.env.returnFail s else (none, s)
          match back.1 with
          | some w => (rspRefused 0xB w, back.2)
          | none =>
            let bad := (q.env.silent.map fun d => (d, 1)) ++ q.env.notReady.map fun d => (d, 2)
            if bad.isEmpty then
              (let s1 := loadAndStart b (startMode s.boot.bound back.2)
               (startRsp (back.2.rnd.no + 1) (timeWord back.2) (startLayout b).npool [], s1))
            else (startRsp 0 0 0 bad, drainFabric back.2)

/-! ## Stopping (R223) -/

/-- PATTERN_STOP: the abort form stops at once, the boundary form at the round's ending knot; the response
follows the stop. -/
def patternStopCmd (q : MbReq) (p : List Byte) (s : State) : State :=
  if 1 < par p 0 1 then respond 0x23 q (badCode 0) s
  else if s.pat.running.isNone then respond 0x23 q (rspNotFound 0) s
  else
    let s1 := hold q .stop s
    if par p 0 1 = 1 then stopPattern s1
    else if s1.rnd.active then modPat (fun x => { x with stopAtEnd := true }) s1
    else stopAtBoundary s1

/-! ## Weight intake (R396 to R399) -/

/-- The allocation A that bounds windows and intake: the smaller of those of the committed and the running
image (R389). -/
def allocBound (s : State) : Option Nat :=
  match s.pat.committed, s.pat.running with
  | none, none => none
  | some a, none => some (imgAlloc a)
  | none, some b => some (imgAlloc b)
  | some a, some b => some (min (imgAlloc a) (imgAlloc b))

/-- Whether a target lies within offsets 0 to A - 1 of every stripe it covers. -/
def targetFits (a base len : Nat) : Bool :=
  decide (base % stripeUnits + len ≤ a) || decide (stripeUnits ≤ a)

/-- WEIGHTS_INTAKE_OPEN. -/
def intakeOpenImm : Imm := fun _ p s =>
  let base := par p 0 8
  let len := par p 8 8
  let woff := min (par p 0x10 8) (len - 1)
  checked [(decide (6 * stripeUnits ≤ base), rspNotFound 0), (len == 0 || decide (6 * stripeUnits < base + len), rspNotFound 8),
      ((allocBound s).isNone, rspNotFound 0),
      (s.intake.open_ && (s.intake.base != base || s.intake.len != len), rspRefused 4 0x24),
      (!targetFits ((allocBound s).getD 0) base len, rspRefused 7 0)] s
    (applied (woff == par p 0x10 8) [(0, natLe 8 base), (8, natLe 8 len), (0x10, natLe 8 woff)],
     { s with intake := { s.intake with open_ := true, base := base, len := len, woff := woff } })

/-- WEIGHTS_INTAKE_CLOSE: the response reports the counts and clears them. -/
def intakeCloseImm : Imm := fun _ _ s =>
  if !s.intake.open_ then (rspNotFound 0, s)
  else
    (okRsp [(0, natLe 8 s.intake.sectors.toNat), (8, natLe 8 s.intake.discPart.toNat), (0x10, natLe 8 s.intake.discMap.toNat)],
     { s with intake := {} })

end Sys2Proof.Machine
end

