-- ==== Sys2Proof/Machine/MbSets.lean ====
section
/-! DEFINITION. Mailbox commands of configuration sets and modes (R190 to R193, R428, R434 to R436). -/

namespace Sys2Proof.Machine

open Sys2Proof

/-! ## Entries (R434) -/

/-- The 16 bytes of entry `i` of a request. -/
def entryAt (p : List Byte) (i : Nat) : List Byte := fitBytes 16 ((p.drop (0x10 + 16 * i)).take 16)

/-- An entry with the values that the item applies, or the refusal of one of its codes or names; `o` is the
entry's offset. -/
def entryApplied (item o : Nat) (e : List Byte) : Rsp ⊕ List Byte :=
  match item with
  | 1 =>
    if 2 < leAt e 0 1 then .inl (badCode o)
    else .inr (overlay e 2 (natLe 2 (if leAt e 0 1 = 2 then 1000 else clampTo 1000 1350 (leAt e 2 2))))
  | 2 => .inr (overlay e 2 (natLe 2 (clampTo 550 900 (leAt e 2 2) / 5 * 5)))
  | 3 =>
    if 63 < leAt e 0 1 then .inl (rspNotFound o)
    else if 1 < leAt e 1 1 then .inl (badCode (o + 1))
    else .inr (overlay e 4 (natLe 4 (clampRate (leAt e 4 4)) ++ natLe 4 (clampDepth (leAt e 8 4))))
  | _ => if 2 < leAt e 0 1 then .inl (badCode o) else .inr e

/-- The first refusal of the entries, or their applied values. -/
def entriesApplied (item : Nat) (p : List Byte) : List Nat → Rsp ⊕ List (List Byte)
  | [] => .inr []
  | i :: l =>
    match entryApplied item (0x10 + 16 * i) (entryAt p i), entriesApplied item p l with
    | .inl r, _ => .inl r
    | _, .inl r => .inl r
    | .inr e, .inr es => .inr (e :: es)

/-- Write one entry into a set. -/
def setEntry (item : Nat) (e : List Byte) (c : CfgSet) : CfgSet :=
  match item with
  | 1 =>
    (match leAt e 0 1 with
    | 0 => { c with spSteady := leAt e 2 2 }
    | 1 => { c with spBrisk := leAt e 2 2 }
    | _ => { c with spLean := leAt e 2 2 })
  | 2 => { c with vceil := ((List.range 4).filter fun k => bitOf (leAt e 0 1) k).foldl (fun t k => tabPut 900 t k (leAt e 2 2)) c.vceil }
  | 3 => { c with shapers := tabPut (0xFFFFFFFF, 1048576) c.shapers (2 * leAt e 0 1 + leAt e 1 1) (leAt e 4 4, leAt e 8 4) }
  | _ => { c with mode := (modeOf (leAt e 0 1)).getD c.mode }

/-- Whether an item takes a scope. -/
def scopeOk (item scope : Nat) : Bool :=
  match item with
  | 1 => true
  | 2 => decide (scope < 144) || scope == 0xFFFE || scope == 0xFFFF
  | _ => scope == 0xFFFF

/-! ## SET_WRITE (R428, R435) -/

/-- The dies that do not confirm, with their status: not live, no answer, not ready. -/
def unconfirmed (q : MbReq) (s : State) (scope : Nat) : List (Nat × Nat) :=
  let l := scopeDies s scope
  (if scope < numDies ∧ l.isEmpty then [(scope, 5)] else []) ++
    l.filterMap fun d => if q.env.silent.contains d then some (d, 1) else if q.env.notReady.contains d then some (d, 2) else none

/-- SET_WRITE. -/
def setWriteImm : Imm := fun q p s0 =>
  let s := copySets s0
  let scope := par p 0 2
  let item := par p 2 1
  let count := clampTo 1 8 (par p 3 1)
  checked [(decide (numDies ≤ scope) && decide (scope < 0xFFFD), rspNotFound 0), (item == 0 || decide (4 < item), badCode 2),
      (!scopeOk item scope, badCode 0)] s
    (match entriesApplied item p (List.range count) with
    | .inl r => (r, s)
    | .inr es =>
      let bad := unconfirmed q s scope
      let good := (scopeDies s scope).filter fun d => !(bad.map Prod.fst).contains d && !(item == 2 && decide (144 ≤ d))
      let lost := ((scopeDies s scope).filter fun d => (bad.map Prod.fst).contains d)
      let dl := dieList bad
      let echo := overlay (overlay ((fitBytes 224 p).take 0x90) 3 (natLe 1 count)) 0x10 es.flatten
      ({ okRsp [(0, echo), (0xC0, dl.1)] with
          clamped := count != par p 3 1 || es != (List.range count).map (entryAt p)
          status := if bad.isEmpty then rsOk else rsPartial, arg := dl.2.2, bulk := some dl.2.1 },
       modDies lost (fun x => { x with arm := .notReady })
        (modDies good (fun x => { x with arm := .idle, shadow := es.foldl (fun c e => setEntry item e c) x.shadow }) s)))

/-! ## SET_READ (R435) -/

/-- The entries of an item that a die holds. -/
def entriesHeld (d item : Nat) (c : CfgSet) : List (List Byte) :=
  match item with
  | 1 => [(0, c.spSteady), (1, c.spBrisk), (2, c.spLean)].map fun x => fitBytes 16 (natLe 2 x.1 ++ natLe 2 x.2)
  | 2 => if 144 ≤ d then [] else (List.range 4).map fun k => fitBytes 16 (natLe 2 (2 ^ k) ++ natLe 2 (tabGet 900 c.vceil k))
  | 3 => (List.range 128).map fun i =>
      let x := tabGet (0xFFFFFFFF, 1048576) c.shapers i
      fitBytes 16 (natLe 1 (i / 2) ++ natLe 1 (i % 2) ++ natLe 2 0 ++ natLe 4 x.1 ++ natLe 4 x.2)
  | _ => [fitBytes 16 (natLe 1 (modeCode c.mode))]

/-- SET_READ. -/
def setReadRsp (_ : MbReq) (p : List Byte) (s : State) : Rsp :=
  let die := par p 0 2
  let item := par p 3 1
  let d := if die = 0xFFFF then anchorDie s else die
  let c := if par p 2 1 = 0 then (dieOf s d).active else (dieOf s d).shadow
  let l := entriesHeld d item c
  if numDies ≤ die ∧ die ≠ 0xFFFF then rspNotFound 0
  else if 1 < par p 2 1 then badCode 2
  else if item = 0 ∨ 4 < item then badCode 3
  else if die = 0xFFFF ∧ item ≤ 2 then rspNotFound 0
  else
    { okRsp [(0, natLe 1 (b2n ((dieOf s d).arm == .armed))), (1, natLe 1 l.length),
        (4, natLe 4 (Config.setChecksum ((List.range 4).flatMap fun i => (entriesHeld d (i + 1) c).flatten)).toNat),
        (8, natLe 8 (dieOf s d).lastSwap.toNat), (0x10, (l.take 8).flatten)] with
      bulk := some l.flatten }

/-! ## Swaps (R190, R193, R436) -/

/-- Arm a swap: the command waits, and the dies answer; one whose shadow set is not complete answers not ready at
once. -/
def armSwap (q : MbReq) (op : LongOp) (w : Swap) (s : State) : State :=
  let s1 := hold q op { s with swp := some { w with since := refNow s }, lode := { s.lode with nacks := [] } }
  let bad := (liveDies s1).filter fun d => (dieOf s1 d).arm == .notReady
  if bad.isEmpty then s1 else refuseSwap (bad.map fun d => (d, 2)) s1

/-- Whether a mode would break R167 under the running pattern. -/
def gradeBars (s : State) (m : Mode) : Bool := s.pat.running.isSome && bitOf (imgGrade (runImg s)) 0 && m == .steady

/-- SET_SWAP_AT. -/
def setSwapCmd (q : MbReq) (p : List Byte) (s0 : State) : State :=
  let s := copySets s0
  let target := BitVec.ofNat 48 (par p 0 8)
  let m := (dieOf s (anchorDie s)).shadow.mode
  let far := match stitchAhead target (stitchNow s) with
    | some n => decide (512 ≤ n)
    | none => false
  let echo := fieldsAt [(0, timeBytes s), (8, natLe 8 (par p 0 8))]
  if !far then respond 0x31 q { status := rsLate, result := echo } s
  else if gradeBars s m then respond 0x31 q { rspRefused 0xC with result := echo } s
  else if m == .brisk && !(licFeatures s.boot.lic).getLsbD 1 then respond 0x31 q { status := rsUnlicensed, result := echo } s
  else armSwap q (.swap target (timeWord s)) { kind := .sets, fn := q.fn, target := some target } s

/-- MODE_SET. -/
def modeSetCmd (q : MbReq) (p : List Byte) (s0 : State) : State :=
  let s := copySets s0
  match modeOf (par p 0 1) with
  | none => respond 0x33 q (badCode 0) s
  | some m =>
    if s.boot.bound then respond 0x33 q rspState s
    else if gradeBars s m then respond 0x33 q (rspRefused 0xC) s
    else
      let old := (dieOf s (anchorDie s)).shadow.mode
      let t := if s.pat.running.isNone then some (stitchNow s + 512) else none
      armSwap q (.mode m) { kind := .mode m, fn := q.fn, old := old, target := t }
        (modDies (liveDies s) (fun x => { x with shadow := { x.shadow with mode := m } }) s)

end Sys2Proof.Machine
end

