-- ==== Sys2Proof/Machine/MbTenant.lean ====
section
/-! DEFINITION. Mailbox commands of tenants (R387 to R395, R443). -/

namespace Sys2Proof.Machine

open Sys2Proof

/-! ## TENANT_CONFIGURE -/

/-- The parameters of TENANT_CONFIGURE in a request area. -/
def cfgOf (p : List Byte) : TenantCfg :=
  { tenant := BitVec.ofNat 8 (par p 0 1), which := BitVec.ofNat 16 (par p 2 2), quota := BitVec.ofNat 32 (par p 4 4)
    age := BitVec.ofNat 32 (par p 8 4), wstripe := BitVec.ofNat 8 (par p 0xC 1), woff := BitVec.ofNat 64 (par p 0x10 8)
    wlen := BitVec.ofNat 64 (par p 0x18 8)
    rings := (List.range 8).map fun i =>
      { en := BitVec.ofNat 8 (par p (0x20 + 20 * i) 1), k := BitVec.ofNat 8 (par p (0x21 + 20 * i) 1)
        sqbase := BitVec.ofNat 64 (par p (0x24 + 20 * i) 8), cqbase := BitVec.ofNat 64 (par p (0x2C + 20 * i) 8) } }

/-- PENDING of a ring pair: its fetched requests that are not completed (R378). -/
def pendingOf (s : State) (t i : Nat) : Nat :=
  (s.rnd.reqs.filter fun r => r.tenant == t && r.pair == i && r.intern.isNone).length

/-- Whether a ring pair's bases or size would change. -/
def ringMoves (q : RingPair) (c : RingCfg) : Bool := q.k != c.k.toNat || q.sqbase != c.sqbase || q.cqbase != c.cqbase

/-- The ring pairs that a request selects, with the values it applies. -/
def ringsOf (c : TenantCfg) : List (Nat × RingCfg) :=
  (c.rings.zipIdx.filter fun x => c.which.getLsbD (3 + x.2)).map fun x => (x.2, x.1)

/-- The ring pairs that are refused (R388). -/
def ringsRefused (s : State) (c : TenantCfg) : List Nat :=
  ((ringsOf c).filter fun x => ringMoves (ringOf s c.tenant.toNat x.1) x.2 && decide (0 < pendingOf s c.tenant.toNat x.1)).map Prod.fst

/-- Whether two windows share a unit. -/
def winsMeet (a b : TWin) : Bool := a.stripe == b.stripe && rangesMeet a.off a.len b.off b.len

/-- The window that a request names. -/
def cfgWin (c : TenantCfg) : TWin := { stripe := c.wstripe.toNat, off := c.woff.toNat, len := c.wlen.toNat }

/-- Whether the window is refused (R389). -/
def winRefused (s : State) (c : TenantCfg) : Bool :=
  let w := cfgWin c
  c.which.getLsbD 2 && w.len != 0 &&
    (decide ((allocBound s).getD stripeUnits < w.off + w.len) ||
      (List.range 64).any fun t => t != c.tenant.toNat && winsMeet w (tenOf s t).win)

/-- A ring pair under new values: an enabled pair restarts empty when it is newly enabled or moves (R388). -/
def ringApply (c : RingCfg) (q : RingPair) : RingPair :=
  let on := c.en == 1
  let q' := { q with en := on, k := c.k.toNat, sqbase := c.sqbase, cqbase := c.cqbase }
  if on && (!q.en || ringMoves q c) then restartRing q' else q'

/-- Quota, age and ring pairs. -/
def applyParts (c : TenantCfg) (s : State) : State :=
  modTen c.tenant.toNat (fun x => { x with
    quota := if c.which.getLsbD 0 then c.quota.toNat else x.quota
    age := if c.which.getLsbD 1 then c.age else x.age
    rings := (ringsOf c).foldl (fun t r => tabMod {} t r.1 (ringApply r.2)) x.rings }) s

/-- The refusal that marks the refused parts (R443). -/
def cfgRefusal (s : State) (c : TenantCfg) (rings : List Nat) (win : Bool) : Rsp :=
  { rspRefused (if win then 7 else 3) (if win then 0xC else 0) with
    result := fieldsAt [(0, cfgBytes c), (0xC0, natLe 1 ((rings.map fun i => 2 ^ i).sum)), (0xC1, natLe 1 (b2n win))]
    clamped := cfgApplied s.boot.lic c != c }

/-- TENANT_CONFIGURE: every part or none; a window that the running pattern must take waits for a round boundary
(R222). -/
def tenantConfigureCmd (q : MbReq) (p : List Byte) (s : State) : State :=
  let raw := cfgOf p
  let c := cfgApplied s.boot.lic raw
  let t := c.tenant.toNat
  let badEn := (ringsOf c).find? fun x => decide (1 < x.2.en.toNat)
  let rr := ringsRefused s c
  let wr := winRefused s c
  let moves := c.which.getLsbD 2 && cfgWin c != (tenOf s t).win && s.pat.running.isSome
  if 63 < t then respond 0x60 q (rspNotFound 0) s
  else if c.which.getLsbD 2 && decide (5 < c.wstripe.toNat) then respond 0x60 q (rspNotFound 0xC) s
  else
    match badEn with
    | some x => respond 0x60 q (badCode (0x20 + 20 * x.1)) s
    | none =>
      if wr || !rr.isEmpty then respond 0x60 q (cfgRefusal s c rr wr) s
      else
        match moves, s.swp with
        | true, some w => respond 0x60 q (rspRefused 4 (swapHolder w)) s
        | true, none => armSwap q (.window t raw) { kind := .window t, fn := q.fn } (applyParts c s)
        | false, _ =>
          let s1 := applyParts c s
          respond 0x60 q (cfgRsp s raw)
            (if c.which.getLsbD 2 then modTen t (fun x => { x with win := cfgWin c }) s1 else s1)

/-! ## TENANT_RESET (R394, R395) -/

/-- Steps 1 and 2: fetching stops and the epoch advances.  A second reset joins the first. -/
def beginReset (t : Nat) (s : State) : State :=
  if (tenOf s t).resetting then s else modTen t (fun x => { x with resetting := true, epoch := x.epoch + 1 }) s

/-- TENANT_RESET. -/
def tenantResetCmd (q : MbReq) (p : List Byte) (s : State) : State :=
  let t := par p 0 1
  if 63 < t then respond 0x61 q (rspNotFound 0) s
  else beginReset t (hold q (.tenantReset t 0) s)

/-! ## SHAPER_SET (R391, R393) -/

/-- SHAPER_SET. -/
def shaperSetImm : Imm := fun _ p s =>
  let t := par p 0 1
  let sh := par p 1 1
  let rate := clampRate (par p 4 4)
  let depth := clampDepth (par p 8 4)
  let s1 := applyShaper t sh rate depth s
  let bal := if sh = 0 then (tenOf s1 t).prompt.bal else (tenOf s1 t).gener.bal
  checked [(decide (63 < t), rspNotFound 0), (decide (1 < sh), badCode 1)] s
    (applied (rate == par p 4 4 && depth == par p 8 4)
      [(4, natLe 4 rate), (8, natLe 4 depth), (0x10, intLe 8 bal)], s1)

end Sys2Proof.Machine
end

