-- ==== Sys2Proof/Machine/MbSession.lean ====
section
/-! DEFINITION. Mailbox commands of sessions and the fleet (R444, R549 to R557, R560). -/

namespace Sys2Proof.Machine

open Sys2Proof

/-- The session that a handle names to a function: PF0 and PF1 name any tenant's, a VF its own (R416). -/
def sessionFor (s : State) (f : Nat) (h : W32) : Option Nat :=
  if isPf f then sessionNamed s (sessOf s (h.toNat % 2 ^ 20)).tenant h else sessionNamed s f h

/-! ## Session images (R549) -/

/-- Round up to a multiple of 256. -/
def align256 (n : Nat) : Nat := ceilDiv n 256 * 256

/-- IMGLEN of a session image. -/
def imageLen (len npage : Nat) (pslice : List Nat) : Nat := 256 + align256 (4 * len) + npage * pslice.sum * 256 + 256

/-- The fields that name the exporting pattern: SRCID, TOOLREL, VOCAB, PSLICE.  With no pattern started since cast-on
they have no value. -/
def patternFields (s : State) : List Byte :=
  match s.rnd.layout with
  | some l => fitBytes 48 l.srcid ++ natLe 4 l.toolrel ++ natLe 4 l.vocab ++ l.pslice.flatMap (natLe 4)
  | none => (List.range 80).map fun i => Config.freeByte (s.free + i)

/-- The bytes of one slice of page `i`: those of positions LEN - 1 and beyond have no defined value (log entries 6 and
23). -/
def sliceBytes (s : State) (len i m n : Nat) (c : Mem) : List Byte :=
  (List.range n).map fun o =>
    if len ≤ 256 * i + Config.entryPos m o n % 256 + 1 then Config.freeByte (s.free + 80 + (i * 6 + m) * 2 ^ 33 + o) else memGet c o

/-- The contents of a session's pages, from panel memory or from its park image. -/
def contentsOf (s : State) (i : Nat) : List (List Mem × Mem) :=
  let x := sessOf s i
  if x.state = .parked then
    (((portOf s x.pport.toNat).images.find? fun y => y.index == i).map (·.pages)).getD []
  else pageContents s i

/-- PAGES of an image. -/
def pagesBytes (s : State) (i : Nat) : List Byte :=
  (contentsOf s i).zipIdx.flatMap fun p => p.1.1.zipIdx.flatMap fun x =>
    sliceBytes s (sessOf s i).len p.2 x.2 (((layNow s).pslice.drop x.2).headD 0 * 256) x.1

/-- HISTORY of an image. -/
def historyBytes (s : State) (i : Nat) : List Byte :=
  fitBytes (align256 (4 * (sessOf s i).len))
    (((contentsOf s i).flatMap fun p => memRead p.2 0 1024).take (4 * (sessOf s i).len))

/-- The image of a session (KIND 0). -/
def sessionImage (s : State) (i : Nat) : List Byte :=
  let x := sessOf s i
  let n := ceilDiv x.len 256
  let body := natLe 4 0x31535345 ++ natLe 2 1 ++ natLe 1 0 ++ natLe 1 0 ++ natLe 8 (imageLen x.len n (layNow s).pslice) ++
    patternFields s ++ natLe 8 x.seed.toNat ++ natLe 4 x.len ++ natLe 4 x.step.toNat ++ natLe 2 n ++ natLe 6 0 ++
    natLe 8 x.lastRound.toNat ++ natLe 128 0 ++ historyBytes s i ++ pagesBytes s i ++ natLe 208 0
  body ++ sha384 body

/-! ## SESSION_EXPORT (R550, R551) -/

/-- SESSION_EXPORT, from the committed state. -/
def sessionExportImm : Imm := fun q p s =>
  match sessionFor s q.fn (BitVec.ofNat 32 (par p 0 4)) with
  | none => (rspNotFound 0, s)
  | some i =>
    let x := sessOf s i
    if x.state = .failed || (tenOf s x.tenant).resetting then (rspState, s)
    else if x.state = .unparking || s.rnd.parts.any (fun y => y.index == i) && s.rnd.active then
      (rspBusy 4 0 q.env.remain, s)
    else
      let b := sessionImage s i
      ({ okRsp [(0, natLe 8 b.length), (8, natLe 4 x.len), (0xC, natLe 4 x.step.toNat), (0x10, natLe 8 x.lastRound.toNat)] with
          bulk := some b, unit := 256 },
       { s with free := s.free + 80 + (ceilDiv x.len 256) * 6 * 2 ^ 33 })

/-! ## SESSION_IMPORT (R552, R553) -/

/-- The fields of a session image that an import reads. -/
structure ImageIn where
  kind : Nat
  seed : Nat
  len : Nat
  step : Nat
  npage : Nat
  vocab : Nat
  pslice : List Nat
  toks : List W32
  deriving DecidableEq, Repr

/-- Read an image's fields. -/
def imageIn (b : List Byte) : ImageIn :=
  { kind := leAt b 6 1, seed := leAt b 0x60 8, len := leAt b 0x68 4, step := leAt b 0x6C 4, npage := leAt b 0x70 2
    vocab := leAt b 0x44 4, pslice := (List.range 6).map fun m => leAt b (0x48 + 4 * m) 4
    toks := (List.range (min (leAt b 0x68 4) (b.length / 4))).map fun i => BitVec.ofNat 32 (leAt b (0x100 + 4 * i) 4) }

/-- Check 1 of R552. -/
def imageForm (b : List Byte) : Bool :=
  decide (512 ≤ b.length) && leAt b 0 4 == 0x31535345 && leAt b 4 2 == 1 && decide (leAt b 6 1 ≤ 1) && leAt b 8 8 == b.length &&
    zeros b 7 1 && zeros b 0x72 6 && zeros b 0x80 128 && zeros b (b.length - 256) 208 &&
    sha384 (b.take (b.length - 48)) == b.drop (b.length - 48)

/-- The first of checks 1 to 5 that an image fails, by number. -/
def importCheck (s : State) (b : List Byte) : Option Nat :=
  let x := imageIn b
  let l := layNow s
  if !imageForm b then some 1
  else if s.pat.running.isNone then some 2
  else if licSeqMax s.boot.lic < x.len ∨ x.npage ≠ (if x.kind = 0 then ceilDiv x.len 256 else 0) ∨
      (x.kind = 1 ∧ x.pslice.any fun n => n != 0) ∨ b.length ≠ imageLen x.len x.npage x.pslice then some 3
  else if x.kind = 0 ∧ (((b.drop 0x10).take 48) ≠ fitBytes 48 l.srcid ∨ leAt b 0x40 4 ≠ l.toolrel ∨ x.vocab ≠ l.vocab ∨
      x.pslice ≠ l.pslice) then some 4
  else if x.toks.any fun t => decide (l.vocab ≤ t.toNat) then some 5
  else none

/-- The pages of an image as memories. -/
def imagePages (b : List Byte) (x : ImageIn) : List (List Mem × Mem) :=
  let start := 256 + align256 (4 * x.len)
  let per := x.pslice.sum * 256
  (List.range x.npage).map fun i =>
    ((List.range 6).map fun m =>
      memWrite [] 0 ((b.drop (start + i * per + (x.pslice.take m).sum * 256)).take ((x.pslice.drop m).headD 0 * 256)),
     memWrite [] 0 (((b.drop (256 + 1024 * i)).take 1024).take (4 * x.len - 1024 * i)))

/-- The internal APPEND that rebuilds an imported session (R553). -/
def rebuildReq (s : State) (t f i : Nat) (toks : List W32) : Req :=
  { id := s.rnd.nextId, tenant := t, pair := 0, op := 2, d := { count := BitVec.ofNat 32 toks.length }, index := i
    toks := some toks, left := toks.length, applied := toks.length, started := decide (2 ≤ toks.length), intern := some f }

/-- Create the imported session and complete the command, or begin its rebuild. -/
def importSession (q : MbReq) (t : Nat) (b : List Byte) (s : State) : State :=
  let x := imageIn b
  match takeIndex s with
  | none => respond 0x71 q rspState s
  | some (i, s1) =>
    if (tenOf s t).quota ≤ (tenantSessions s t).length ∨ !canGrow s {} x.npage then respond 0x71 q rspState s
    else
      let rebuild := x.kind == 1 && decide (1 ≤ x.len)
      let y : Session := { gen := (sessOf s i).gen, state := .active, tenant := t, seed := BitVec.ofNat 64 x.seed
                           step := BitVec.ofNat 32 x.step, len := if rebuild then 0 else x.len, npage := x.npage, rebuild := rebuild }
      let s2 := putSess i y (if s1.rnd.fence then modRnd (fun r => { r with fenceSess := setIns i r.fenceSess }) s1 else s1)
      if rebuild then
        hold q (.import_ i) (modRnd (fun r => { r with nextId := r.nextId + 1, reqs := r.reqs ++ [rebuildReq s2 t q.fn i x.toks] }) s2)
      else
        let s3 := tailImport i (layPages i (imagePages b x) ((growTo i x.npage s2).getD s2))
        respond 0x71 q (okRsp [(0, natLe 4 (handleOf s3 i).toNat), (4, natLe 4 x.len)]) s3

/-- SESSION_IMPORT. -/
def sessionImportCmd (q : MbReq) (p : List Byte) (s : State) : State :=
  let t := par p 0 1
  if 63 < t then respond 0x71 q (rspNotFound 0) s
  else if !q.bulkv || q.baddr.toNat % 64 != 0 then respond 0x71 q (rspRefused 8 0) s
  else if 2 ^ 31 < q.blen.toNat then respond 0x71 q (rspRefused 8 3) s
  else if !q.env.readOk then respond 0x71 q (rspRefused 8 1) s
  else
    let b := fitBytes (q.blen.toNat * 256) q.env.bulk
    match importCheck s b with
    | some 2 => respond 0x71 q rspState s
    | some n => respond 0x71 q { status := rsBadImage, reason := 0xD, arg := n } s
    | none => importSession q t b s

/-! ## TAIL_LOG_READ (R556) -/

/-- TAIL_LOG_READ. -/
def tailLogRsp (q : MbReq) (p : List Byte) (s : State) : Rsp :=
  match sessionFor s q.fn (BitVec.ofNat 32 (par p 0 4)) with
  | none => rspNotFound 0
  | some i =>
    let pos := (sessOf s i).tailpos
    let h := min pos.toNat (layNow s).tailLen
    let back := (pos - BitVec.ofNat 32 (par p 4 4)).toNat
    let n := min h back
    let l := (List.range n).map fun k => pmRead s (tailAddr s i (pos - BitVec.ofNat 32 (n - k))) 64
    { okRsp [(0, natLe 4 pos.toNat), (4, natLe 4 (if q.bulkv then min n (q.blen.toNat / 64) else 0))] with
      clamped := decide (h < back), bulk := some l.flatten }

/-! ## ROUND_FENCE (R560) -/

/-- The response of ROUND_FENCE. -/
def fenceRsp (s : State) : Rsp := okRsp [(0, natLe 1 (b2n s.rnd.fence)), (8, natLe 8 s.rnd.last.toNat)]

/-- ROUND_FENCE: closing waits for the ending knot of a round in progress. -/
def roundFenceCmd (q : MbReq) (p : List Byte) (s : State) : State :=
  match par p 0 1 with
  | 0 => respond 0x73 q (fenceRsp s) s
  | 1 =>
    if s.rnd.fence then respond 0x73 q (fenceRsp s) s
    else hold q .fence (modRnd (fun r => { r with fence := true, fenceSess := [] }) s)
  | 2 =>
    let s1 := if s.rnd.fence then modRnd (fun r => { r with fence := false, fenceSess := [], freshOpen := true }) s else s
    respond 0x73 q (fenceRsp s1) s1
  | _ => respond 0x73 q (badCode 0) s

end Sys2Proof.Machine
end

