-- ==== Sys2Proof/Machine/MbReset.lean ====
section
/-! DEFINITION. Mailbox commands that retire a site, reset the fabric, ask for a warm reset and bind the panel off
(R440, R445, R476, R478). -/

namespace Sys2Proof.Machine

open Sys2Proof

/-! ## SITE_RETIRE (R440) -/

/-- SITE_RETIRE: the repair of a live site is a planned one, and the command completes when it is done. -/
def siteRetireCmd (q : MbReq) (p : List Byte) (s : State) : State :=
  let c := par p 0 1
  let w := par p 1 1
  let d := siteDie c w
  let fin : Rsp := okRsp [(0, natLe 1 (skipOf s.grid.skip w))]
  if 11 < c then respond 0x53 q (rspNotFound 0) s
  else if 11 < w then respond 0x53 q (rspNotFound 1) s
  else if s.boot.bound then respond 0x53 q rspState s
  else if s.grid.retired.contains d then respond 0x53 q fin s
  else if skipOf s.grid.skip w = c then respond 0x53 q fin (disableLinks d (markRetired d s))
  else if dieLive s d && freeSpare s w then hold q (.retire d) (plan d 8 s)
  else respond 0x53 q (rspRefused 0xB w) s

/-! ## RESET_FABRIC (R476) -/

/-- A network interface after a fabric reset: its counters and its control packets stay, and the invalidations that wait, which the round controller
sends again (R372). -/
def niReset (n : NI) : NI :=
  { inj := n.inj.filter fun f => f.chan == 2, ctlSeq := n.ctlSeq, ctlSent := n.ctlSent, ctlDown := n.ctlDown, southTrunk := n.southTrunk, halveWin := n.halveWin
    halves := n.halves, nextMsg := n.nextMsg, cnt := n.cnt }

/-- The fabric reset: the pattern stops in the abort form, any intake closes, the fabric drains, and every network
interface, cluster and base die's queue is cleared. -/
def fabricReset (s : State) : State :=
  let s1 := stopPattern s
  let s2 := drainFabric { s1 with intake := { s1.intake with open_ := false } }
  modBoot (fun b => { b with kind := .fabric })
    { s2 with
      nis := tabMap {} niReset s2.nis, clus := tabMap {} cluFresh s2.clus
      pmem := { s2.pmem with stk := tabMap {} (fun x => { x with queue := [] }) s2.pmem.stk } }

/-- RESET_FABRIC. -/
def resetFabricCmd (q : MbReq) (_ : List Byte) (s : State) : State :=
  let s1 := fabricReset s
  respond 0x80 q (okRsp [(0, timeBytes s1)]) s1

/-! ## RESET_WARM (R445) -/

/-- Stitches from the response to the reset: 100 us is 391 stitches of 256 ns, and the manual leaves the rest of the
delay open. -/
def warmDelay (s : State) : Nat := 391 + Config.freeChoice s.free

/-- RESET_WARM: the response names the stitch at which the reset begins. -/
def resetWarmCmd (q : MbReq) (_ : List Byte) (s : State) : State :=
  let start : W64 := epochNow s ++ (stitchNow s + BitVec.ofNat 48 (warmDelay s))
  respond 0x81 q (okRsp [(0, natLe 8 start.toNat)])
    (modBoot (fun b => { b with warmDue := true }) { s with free := s.free + 1 })

/-! ## BIND_OFF (R445, R478, R480) -/

/-- BIND_OFF: in the bound-off state it completes at once with zero counts, and out of service it is refused. -/
def bindOffCmd (q : MbReq) (p : List Byte) (s : State) : State :=
  let round := par p 0 1
  let sess := par p 1 1
  if 1 < round then respond 0x82 q (badCode 0) s
  else if 1 < sess then respond 0x82 q (badCode 1) s
  else if s.boot.pstate = 7 then respond 0x82 q rspState s
  else if s.boot.bound then
    respond 0x82 q
      (bindRsp 1 { s with
        boot := { s.boot with bindFailed := 0 }, sess := []
        park := tabMap {} (fun p => { p with tried := 0, parked := 0, replaced := 0, failed := 0, bytes := 0 }) s.park }) s
  else beginBind round sess (hold q .bindOff s)

end Sys2Proof.Machine
end

