-- ==== Sys2Proof/Machine/Mailbox.lean ====
section
/-! DEFINITION. Meanings of the mailbox commands (R407 to R447): the host writes a request and rings the
doorbell, and Herus takes it up. -/

namespace Sys2Proof.Machine

open Sys2Proof

/-! ## What each command does once it has passed its checks (R416) -/

/-- The body of a command by its opcode. -/
def runBody (op : Nat) : MbReq → List Byte → State → State :=
  match op with
  | 0x01 => answer 0x01 (reads identifyRsp)
  | 0x02 => answer 0x02 (reads statusRsp)
  | 0x03 => answer 0x03 (reads capsRsp)
  | 0x10 => answer 0x10 licenceInstallImm
  | 0x11 => answer 0x11 (reads licenceRsp)
  | 0x20 => answer 0x20 patternStageImm
  | 0x21 => answer 0x21 patternCommitImm
  | 0x22 => answer 0x22 patternStartImm
  | 0x23 => patternStopCmd
  | 0x24 => answer 0x24 intakeOpenImm
  | 0x25 => answer 0x25 intakeCloseImm
  | 0x30 => answer 0x30 setWriteImm
  | 0x31 => setSwapCmd
  | 0x32 => answer 0x32 (reads setReadRsp)
  | 0x33 => modeSetCmd
  | 0x40 => answer 0x40 powerCapImm
  | 0x41 => answer 0x41 powerReadImm
  | 0x42 => answer 0x42 coolantImm
  | 0x43 => answer 0x43 (reads thermalRsp)
  | 0x50 => answer 0x50 healthReadImm
  | 0x51 => answer 0x51 (reads darnRsp)
  | 0x52 => answer 0x52 repairPolicyImm
  | 0x53 => siteRetireCmd
  | 0x54 => answer 0x54 (reads faultLogRsp)
  | 0x55 => answer 0x55 (reads flagsReadRsp)
  | 0x56 => flagsClearCmd
  | 0x60 => tenantConfigureCmd
  | 0x61 => tenantResetCmd
  | 0x62 => answer 0x62 shaperSetImm
  | 0x70 => answer 0x70 sessionExportImm
  | 0x71 => sessionImportCmd
  | 0x72 => answer 0x72 (reads tailLogRsp)
  | 0x73 => roundFenceCmd
  | 0x80 => resetFabricCmd
  | 0x81 => resetWarmCmd
  | 0x82 => bindOffCmd
  | 0x90 => answer 0x90 (reads timeRsp)
  | 0x91 => answer 0x91 timerArmImm
  | 0xA0 => answer 0xA0 (reads linkReadRsp)
  | 0xA1 => answer 0xA1 linkRetrainImm
  | 0xB0 => answer 0xB0 scrubSetImm
  | 0xB1 => answer 0xB1 (reads memoryStatusRsp)
  | 0xF0 => answer 0xF0 firmwareStageImm
  | 0xF1 => answer 0xF1 firmwareActivateImm
  | _ => fun q _ s => respond op q { status := rsUnknown } s

/-! ## Take-up (R417, R419) -/

/-- The backlog that take-up meets suspends or resumes health scoring (R419). -/
def backlog (wait : Nat) (s : State) : State :=
  { s with hlt := { s.hlt with stale := if 1000 < wait then true else if wait < 250 then false else s.hlt.stale } }

/-- Herus takes up the request of a function: TAKEN is set, the function is the one served last in its class, and
the request is checked and carried out. -/
def takeUp (op : Nat) (q : MbReq) (p : List Byte) (s : State) : State :=
  let s1 := backlog q.env.wait (modMb q.fn (fun m => { m with taken := true })
    { s with served := tabPut 64 s.served (classOf op) q.fn })
  match checkReq q op p s1 with
  | some r => respond op q r s1
  | none => runBody op q p s1

/-- The waiting request that is taken up next (R417). -/
def nextUp (s : State) : Option Nat :=
  (waitingFns s).find? fun f => (waitingFns s).all fun g => !aheadOf s g f

/-- MAILBOX_TAKE_UP: the waiting request of the highest class is taken up. -/
def takeNext (env : MbEnv) (s : State) : State :=
  match herusUp s, nextUp s with
  | true, some f =>
    let m := (fnOf s f).mb
    let b := areaBytes m.req
    takeUp (leAt b 0 2) (areaReq f env m) (b.drop 32) s
  | _, _ => s

/-! ## Requests (R411, R412) -/

/-- The parameters of a request, 224 bytes. -/
def params (l : List (Nat × List Byte)) : List Byte := fitBytes 224 (fieldsAt l)

/-- A host writes a request area and a tag and rings the doorbell; Herus, when it runs, takes the request up where it is the next that it takes
up (R417), and otherwise it waits.  While a request of the function is outstanding the writes are ignored, and the doorbell's is counted (R412). -/
def request (op : Nat) (q : MbReq) (l : List (Nat × List Byte)) (s : State) : State :=
  duties (access q.fn 0x1204 (fun s =>
    if (fnOf s q.fn).mb.own then accErr q.fn 0x10008 s
    else
      let s1 := submit q.fn (modMb q.fn (fun m => { m with req := wordsOf (reqBytes op q l), tag := q.tag }) s)
      if herusUp s1 && nextUp s1 == some q.fn then takeUp op q (params l) s1 else s1) s)

/-! ## Meanings -/

/-- IDENTIFY (R431). -/
def execIdentify (q : MbReq) (s : State) : Ans :=
  done (Instr.identify q).wf (request 0x01 q [] s)

/-- STATUS_READ (R432). -/
def execStatusRead (q : MbReq) (s : State) : Ans :=
  done (Instr.statusRead q).wf (request 0x02 q [] s)

/-- INTERFACE_CAPS (R431). -/
def execInterfaceCaps (q : MbReq) (s : State) : Ans :=
  done (Instr.interfaceCaps q).wf (request 0x03 q [] s)

/-- LICENCE_INSTALL (R10, R12, R432). -/
def execLicenceInstall (q : MbReq) (s : State) : Ans :=
  done (Instr.licenceInstall q).wf (request 0x10 q [] s)

/-- LICENCE_READ (R432). -/
def execLicenceRead (q : MbReq) (s : State) : Ans :=
  done (Instr.licenceRead q).wf (request 0x11 q [] s)

/-- PATTERN_STAGE (R219, R433). -/
def execPatternStage (q : MbReq) (s : State) : Ans :=
  done (Instr.patternStage q).wf (request 0x20 q [] s)

/-- PATTERN_COMMIT (R220). -/
def execPatternCommit (q : MbReq) (s : State) : Ans :=
  done (Instr.patternCommit q).wf (request 0x21 q [] s)

/-- PATTERN_START (R221). -/
def execPatternStart (q : MbReq) (s : State) : Ans :=
  done (Instr.patternStart q).wf (request 0x22 q [] s)

/-- PATTERN_STOP (R223). -/
def execPatternStop (q : MbReq) (form : Byte) (s : State) : Ans :=
  done (Instr.patternStop q form).wf (request 0x23 q [(0, natLe 1 form.toNat)] s)

/-- WEIGHTS_INTAKE_OPEN (R396, R397). -/
def execWeightsIntakeOpen (q : MbReq) (base len woff : W64) (s : State) : Ans :=
  done (Instr.weightsIntakeOpen q base len woff).wf (request 0x24 q
    [(0, natLe 8 base.toNat), (8, natLe 8 len.toNat), (0x10, natLe 8 woff.toNat)] s)

/-- WEIGHTS_INTAKE_CLOSE (R399). -/
def execWeightsIntakeClose (q : MbReq) (s : State) : Ans :=
  done (Instr.weightsIntakeClose q).wf (request 0x25 q [] s)

/-- SET_WRITE (R434). -/
def execSetWrite (q : MbReq) (scope : W16) (item count : Byte) (entries : List Byte) (s : State) : Ans :=
  done (Instr.setWrite q scope item count entries).wf (request 0x30 q
    [(0, natLe 2 scope.toNat), (2, natLe 1 item.toNat), (3, natLe 1 count.toNat), (0x10, entries)] s)

/-- SET_SWAP_AT (R190 to R192, R435). -/
def execSetSwapAt (q : MbReq) (target : W64) (s : State) : Ans :=
  done (Instr.setSwapAt q target).wf (request 0x31 q [(0, natLe 8 target.toNat)] s)

/-- SET_READ (R436). -/
def execSetRead (q : MbReq) (die : W16) (which item : Byte) (s : State) : Ans :=
  done (Instr.setRead q die which item).wf (request 0x32 q
    [(0, natLe 2 die.toNat), (2, natLe 1 which.toNat), (3, natLe 1 item.toNat)] s)

/-- MODE_SET (R193, R436). -/
def execModeSet (q : MbReq) (mode : Byte) (s : State) : Ans :=
  done (Instr.modeSet q mode).wf (request 0x33 q [(0, natLe 1 mode.toNat)] s)

/-- POWER_CAP_SET (R437, R526). -/
def execPowerCapSet (q : MbReq) (cap : W32) (s : State) : Ans :=
  done (Instr.powerCapSet q cap).wf (request 0x40 q [(0, natLe 4 cap.toNat)] s)

/-- POWER_READ (R437). -/
def execPowerRead (q : MbReq) (s : State) : Ans :=
  done (Instr.powerRead q).wf (request 0x41 q [] s)

/-- COOLANT_REPORT (R437, R536). -/
def execCoolantReport (q : MbReq) (tmem tcmp : W16) (s : State) : Ans :=
  done (Instr.coolantReport q tmem tcmp).wf (request 0x42 q [(0, natLe 2 tmem.toNat), (2, natLe 2 tcmp.toNat)] s)

/-- THERMAL_READ (R437). -/
def execThermalRead (q : MbReq) (s : State) : Ans :=
  done (Instr.thermalRead q).wf (request 0x43 q [] s)

/-- HEALTH_READ (R438, R439). -/
def execHealthRead (q : MbReq) (scope port : Byte) (index : W16) (s : State) : Ans :=
  done (Instr.healthRead q scope port index).wf (request 0x50 q
    [(0, natLe 1 scope.toNat), (1, natLe 1 port.toNat), (2, natLe 2 index.toNat)] s)

/-- DARN_READ (R439). -/
def execDarnRead (q : MbReq) (s : State) : Ans :=
  done (Instr.darnRead q).wf (request 0x51 q [] s)

/-- REPAIR_POLICY_SET (R439). -/
def execRepairPolicySet (q : MbReq) (impaired scoremin repeats : Byte) (s : State) : Ans :=
  done (Instr.repairPolicySet q impaired scoremin repeats).wf (request 0x52 q
    [(0, natLe 1 impaired.toNat), (1, natLe 1 scoremin.toNat), (2, natLe 1 repeats.toNat)] s)

/-- SITE_RETIRE (R440). -/
def execSiteRetire (q : MbReq) (course wale : Byte) (s : State) : Ans :=
  done (Instr.siteRetire q course wale).wf (request 0x53 q [(0, natLe 1 course.toNat), (1, natLe 1 wale.toNat)] s)

/-- FAULT_LOG_READ (R441). -/
def execFaultLogRead (q : MbReq) (first : W64) (max : W32) (s : State) : Ans :=
  done (Instr.faultLogRead q first max).wf (request 0x54 q [(0, natLe 8 first.toNat), (8, natLe 4 max.toNat)] s)

/-- FLAGS_READ (R442). -/
def execFlagsRead (q : MbReq) (s : State) : Ans :=
  done (Instr.flagsRead q).wf (request 0x55 q [] s)

/-- FLAGS_CLEAR (R81, R442). -/
def execFlagsClear (q : MbReq) (mask : Byte) (s : State) : Ans :=
  done (Instr.flagsClear q mask).wf (request 0x56 q [(0, natLe 1 mask.toNat)] s)

/-- TENANT_CONFIGURE (R388, R389, R443). -/
def execTenantConfigure (q : MbReq) (cfg : TenantCfg) (s : State) : Ans :=
  done (Instr.tenantConfigure q cfg).wf (request 0x60 q [(0, cfgBytes cfg)] s)

/-- TENANT_RESET (R394, R395). -/
def execTenantReset (q : MbReq) (tenant : Byte) (s : State) : Ans :=
  done (Instr.tenantReset q tenant).wf (request 0x61 q [(0, natLe 1 tenant.toNat)] s)

/-- SHAPER_SET (R391, R393). -/
def execShaperSet (q : MbReq) (tenant shaper : Byte) (rate depth : W32) (s : State) : Ans :=
  done (Instr.shaperSet q tenant shaper rate depth).wf (request 0x62 q
    [(0, natLe 1 tenant.toNat), (1, natLe 1 shaper.toNat), (4, natLe 4 rate.toNat), (8, natLe 4 depth.toNat)] s)

/-- SESSION_EXPORT (R444, R549). -/
def execSessionExport (q : MbReq) (handle : W32) (s : State) : Ans :=
  done (Instr.sessionExport q handle).wf (request 0x70 q [(0, natLe 4 handle.toNat)] s)

/-- SESSION_IMPORT (R444, R551 to R553). -/
def execSessionImport (q : MbReq) (tenant : Byte) (s : State) : Ans :=
  done (Instr.sessionImport q tenant).wf (request 0x71 q [(0, natLe 1 tenant.toNat)] s)

/-- TAIL_LOG_READ (R444, R556). -/
def execTailLogRead (q : MbReq) (handle first : W32) (s : State) : Ans :=
  done (Instr.tailLogRead q handle first).wf (request 0x72 q [(0, natLe 4 handle.toNat), (4, natLe 4 first.toNat)] s)

/-- ROUND_FENCE (R444, R560). -/
def execRoundFence (q : MbReq) (action : Byte) (s : State) : Ans :=
  done (Instr.roundFence q action).wf (request 0x73 q [(0, natLe 1 action.toNat)] s)

/-- RESET_FABRIC (R476). -/
def execResetFabric (q : MbReq) (s : State) : Ans :=
  done (Instr.resetFabric q).wf (request 0x80 q [] s)

/-- RESET_WARM (R445). -/
def execResetWarm (q : MbReq) (s : State) : Ans :=
  done (Instr.resetWarm q).wf (request 0x81 q [] s)

/-- BIND_OFF (R478 to R480). -/
def execBindOff (q : MbReq) (round sess : Byte) (s : State) : Ans :=
  done (Instr.bindOff q round sess).wf (request 0x82 q [(0, natLe 1 round.toNat), (1, natLe 1 sess.toNat)] s)

/-- TIME_READ (R446). -/
def execTimeRead (q : MbReq) (s : State) : Ans :=
  done (Instr.timeRead q).wf (request 0x90 q [] s)

/-- TIMER_ARM (R189, R446). -/
def execTimerArm (q : MbReq) (timer action : Byte) (target : W64) (s : State) : Ans :=
  done (Instr.timerArm q timer action target).wf (request 0x91 q
    [(0, natLe 1 timer.toNat), (1, natLe 1 action.toNat), (8, natLe 8 target.toNat)] s)

/-- LINK_READ (R447). -/
def execLinkRead (q : MbReq) (die : W16) (port : Byte) (s : State) : Ans :=
  done (Instr.linkRead q die port).wf (request 0xA0 q [(0, natLe 2 die.toNat), (2, natLe 1 port.toNat)] s)

/-- LINK_RETRAIN (R297, R447). -/
def execLinkRetrain (q : MbReq) (die : W16) (port form : Byte) (s : State) : Ans :=
  done (Instr.linkRetrain q die port form).wf (request 0xA1 q
    [(0, natLe 2 die.toNat), (2, natLe 1 port.toNat), (3, natLe 1 form.toNat)] s)

/-- MEMORY_SCRUB_SET (R321, R447). -/
def execMemoryScrubSet (q : MbReq) (period : W16) (rebuild course col : Byte) (s : State) : Ans :=
  done (Instr.memoryScrubSet q period rebuild course col).wf (request 0xB0 q
    [(0, natLe 2 period.toNat), (2, natLe 1 rebuild.toNat), (3, natLe 1 course.toNat), (4, natLe 1 col.toNat)] s)

/-- MEMORY_STATUS (R447). -/
def execMemoryStatus (q : MbReq) (s : State) : Ans :=
  done (Instr.memoryStatus q).wf (request 0xB1 q [] s)

/-- FIRMWARE_STAGE (R447, R459). -/
def execFirmwareStage (q : MbReq) (s : State) : Ans :=
  done (Instr.firmwareStage q).wf (request 0xF0 q [] s)

/-- FIRMWARE_ACTIVATE (R447, R459). -/
def execFirmwareActivate (q : MbReq) (when_ : Byte) (s : State) : Ans :=
  done (Instr.firmwareActivate q when_).wf (request 0xF1 q [(0, natLe 1 when_.toNat)] s)

/-- MAILBOX_TAKE_UP (R417). -/
def execMailboxTakeUp (env : MbEnv) (s : State) : Ans :=
  done (Instr.mailboxTakeUp env).wf (duties (takeNext env s))

end Sys2Proof.Machine
end

