-- ==== Sys2Proof/Machine/HostEvents.lean ====
section
/-! DEFINITION. Meanings of what a host does to registers, rings and functions: ring requests (R347, R379, R380),
register accesses (R565 to R570), bus mastering (R377) and resets of functions (R376, R394, R414, R580). -/

namespace Sys2Proof.Machine

open Sys2Proof

/-! ## Rings -/

/-- A write to the doorbells of a ring pair: PF1 has none, and during cast-on it is counted and ignored (R461). -/
def ringBell (f i : Nat) (tail head : Option W16) (s : State) : State :=
  if !hasTenant f || decide (8 ≤ i) then s
  else if s.boot.pstate = 0 then fnCount f 0x10010 1 s
  else doorbell f i tail head s

/-- A host puts a descriptor into a submission ring and advances SQ_TAIL past it; a ring that is full takes none
(R379). -/
def ringPost (r : RingRef) (op : Nat) (d : Desc) (s : State) : State :=
  let f := r.tenant
  let i := r.pair
  duties (access f (0x2000 + 16 * i) (fun s =>
    let q := ringOf s f i
    let next := (q.hostNext + 1) % 2 ^ q.k
    if !q.en || (tenOf s f).resetting || s.boot.pstate == 0 then fnCount f 0x10010 1 s
    else if next = q.sqHead then s
    else
      ringBell f i (some (BitVec.ofNat 16 next)) none
        (modRing f i (fun q => { q with posted := tabPut (0, {}) q.posted q.hostNext (op, d), hostNext := next }) s)) s)

/-- The oldest request of a tenant that waits for its token array. -/
def awaitingToks (s : State) (t : Nat) (tag : W64) : Option Req :=
  s.rnd.reqs.find? fun r => r.tenant == t && r.d.usertag == tag && r.toks.isNone

/-- TOKEN_ARRAY_ARRIVED: the tokens of a request are all there (R384). -/
def tokensArrive (t : Nat) (tag : W64) (l : List W32) (s : State) : State :=
  match awaitingToks s t tag with
  | some r => modReq r.id (fun x => { x with toks := some (fitToks x.left l) }) s
  | none => s

/-- A failed read of a token array: the request is to complete with BAD_REQUEST, as one whose array address is not
aligned does. -/
def tokensFail (t : Nat) (tag : W64) (s : State) : State :=
  match awaitingToks s t tag with
  | some r => modReq r.id (fun x => { x with toks := some [], d := { x.d with arg := 1 } }) s
  | none => s

/-- HOST_MEMORY_READ_FAILED (R384, R426). -/
def hostReadFailed (r : HostRead) (s : State) : State :=
  match r with
  | .descriptor r => if ringLive s r.tenant r.pair then stopRing r.tenant r.pair 1 s else s
  | .tokenArray t tag => tokensFail t tag s
  | .bulkIn f =>
    let m := (fnOf s f).mb
    if herusUp s && m.own && !m.taken then
      (let b := areaBytes m.req
       takeUp (leAt b 0 2) (areaReq f { readOk := false } m) (b.drop 32) s)
    else s

/-! ## Bus mastering (R377) -/

/-- The records that a ring held, written in order. -/
def releaseRing (t i : Nat) (s : State) : State :=
  (ringOf s t i).held.foldl (fun s x => emit (.record t i x.1 x.2) s) (modRing t i (fun q => { q with held := [] }) s)

/-- Held records, then held MSI-X messages. -/
def releaseHeld (f : Nat) (s : State) : State :=
  let s1 := if hasTenant f then (List.range 8).foldl (fun s i => releaseRing f i s) s else s
  (fnOf s f).heldMsix.foldl (fun s v => sendVec f v s) (modFn f (fun x => { x with heldMsix := [] }) s1)

/-- A change of Bus Master Enable. -/
def busMaster (f : Nat) (en : Bool) (s : State) : State :=
  if !fnReached s f then s
  else
    let s1 := modFn f (fun x => { x with bme := en }) s
    if en then releaseHeld f s1 else s1

/-! ## Register writes (R412, R429, R567, R568, R575) -/

/-- A write to an MSI-X table word; a vector that is unmasked sends its pending message. -/
def writeMsix (f i : Nat) (v : W32) (s : State) : State :=
  let s1 := modFn f (fun x => { x with msix := tabPut 0 x.msix i (if i % 4 = 3 then v &&& 1 else v) }) s
  if i % 4 = 3 ∧ v.getLsbD 0 = false ∧ (fnOf s f).pba.getLsbD (i / 4) then
    sendVec f (i / 4) (modFn f (fun x => { x with pba := x.pba &&& ~~~(BitVec.ofNat 4 (2 ^ (i / 4))) }) s1)
  else s1

/-- What a write to a word of the request area stores: RSVD fields read 0 (R20, R408). -/
def reqStored (i : Nat) (v : W32) : W32 := if i = 0 then v &&& 0x0003FFFF else if 4 ≤ i ∧ i < 8 then 0 else v

/-- A write to a mailbox register. -/
def writeMb (f o : Nat) (v : W32) (s : State) : State :=
  let own := (fnOf s f).mb.own
  if o < 0x100 then (if own then accErr f 0x10008 s else modMb f (fun m => { m with req := tabPut 0 m.req (o / 4) (reqStored (o / 4) v) }) s)
  else if o = 0x200 then (if own then accErr f 0x10008 s else modMb f (fun m => { m with tag := v }) s)
  else if o = 0x204 then (if own || v != 1 then accErr f 0x10008 s else submit f s)
  else if o = 0x210 then modMb f (fun m => { m with head := v.toNat % 32 }) s
  else s

/-- A 32-bit write; those to a register that is read-only or not there are ignored. -/
def writeWord (f off : Nat) (v : W32) (s : State) : State :=
  if 0x1000 ≤ off ∧ off < 0x2000 then writeMb f (off - 0x1000) v s
  else if 0x2000 ≤ off ∧ off < 0x3000 then
    (if off % 16 = 0 then ringBell f ((off - 0x2000) / 16) (some (v.setWidth 16)) none s
     else if off % 16 = 4 then ringBell f ((off - 0x2000) / 16) none (some (v.setWidth 16)) s
     else s)
  else if off = 0x3008 then modFn f (fun x => { x with cause := x.cause &&& ~~~v }) s
  else if 0x4000 ≤ off ∧ off < 0x4040 then writeMsix f ((off - 0x4000) / 4) v s
  else s

/-- The word of four bytes that are all enabled. -/
def wholeWord (l : List (Option Byte)) : Option W32 :=
  if l.all Option.isSome then some (BitVec.ofNat 32 (leNat (l.map fun b => b.getD 0))) else none

/-- Successive 32-bit writes, in ascending order: a register only partly enabled is left as it is and counted
(R567). -/
def writeWords (f : Nat) : Nat → List (List (Option Byte)) → State → State
  | _, [], s => s
  | off, w :: l, s =>
    writeWords f (off + 4) l
      (match wholeWord w with
       | some v => writeWord f off v s
       | none => if w.all Option.isNone then s else accErr f 0x10004 s)

/-- A write of a host to BAR0; an aligned 64-bit write to a doorbell block is one event (R568). -/
def hostWrite (f off : Nat) (data : List (Option Byte)) (s : State) : State :=
  if data.length = 8 ∧ 0x2000 ≤ off ∧ off < 0x2080 ∧ off % 16 = 0 ∧ data.all Option.isSome then
    (let v := leNat (data.map fun b => b.getD 0)
     ringBell f ((off - 0x2000) / 16) (some (BitVec.ofNat 16 v)) (some (BitVec.ofNat 16 (v / 2 ^ 32))) s)
  else writeWords f off (chunksOf 4 data.length data) s

/-! ## Resets of functions (R376, R414, R580) -/

/-- A place for a long command whose function is reset: it runs on and answers nobody. -/
def ghostFn (s : State) : Nat :=
  66 + ((List.range (s.fns.length + 1)).find? fun i => (fnOf s (66 + i)).mb.long.isNone).getD s.fns.length

/-- Reset a function: every register takes its reset value but for the contents of the two mailbox areas; a long
command under way runs to its end without a response. -/
def resetFn (f : Nat) (s : State) : State :=
  let m := (fnOf s f).mb
  let s1 := match m.long with
    | some (q, op) => (let g := ghostFn s; modMb g (fun _ => { long := some ({ q with fn := g }, op), dropped := true }) s)
    | none => s
  modFn f (fun _ => { mb := { req := m.req, rsp := m.rsp } }) s1

/-- Reset a function of port 0 with its tenant: the ring pairs are disabled. -/
def resetTenantFn (f : Nat) (s : State) : State :=
  beginReset f (modTen f (fun x => { x with rings := [] }) (resetFn f s))

/-- Disable the VFs: each is reset as a function. -/
def disableVfs (s : State) : State :=
  let s1 := ((allTenants s).filter (· != 0)).foldl (fun s f => resetTenantFn f s) s
  { s1 with pins := { s1.pins with numVfs := 0 } }

/-- HOST_PORT_RESET: the tenants of port 0, or PF1 and the open intake of port 1. -/
def portReset (p : Nat) (kind : PortReset) (s : State) : State :=
  let s1 := if kind = .perst then { s with pins := { s.pins with hostPerst := setIns p s.pins.hostPerst } } else s
  if p = 0 then resetTenantFn 0 (disableVfs s1)
  else { resetFn 64 s1 with intake := { s1.intake with open_ := false } }

/-- VF_FLR. -/
def vfReset (f : Nat) (s : State) : State := if fnReached s f then resetTenantFn f s else s

/-- VF_ENABLE_CHANGE: PF0's host enables a number of VFs, or disables those that there are. -/
def vfEnable (en : Bool) (n : Nat) (s : State) : State :=
  if !portUp s 0 then s
  else if en then (if s.pins.numVfs = 0 then { s with pins := { s.pins with numVfs := n } } else s)
  else disableVfs s

/-! ## Meanings -/

/-- OPEN (R334, R347). -/
def execRingOpen (r : RingRef) (d : Desc) (s : State) : Ans := done (Instr.ringOpen r d).wf (ringPost r 1 d s)

/-- APPEND (R347, R348). -/
def execRingAppend (r : RingRef) (d : Desc) (s : State) : Ans := done (Instr.ringAppend r d).wf (ringPost r 2 d s)

/-- STEP (R347, R348). -/
def execRingStep (r : RingRef) (d : Desc) (s : State) : Ans := done (Instr.ringStep r d).wf (ringPost r 3 d s)

/-- DRAFT (R233, R348). -/
def execRingDraft (r : RingRef) (d : Desc) (s : State) : Ans := done (Instr.ringDraft r d).wf (ringPost r 4 d s)

/-- CANCEL (R364). -/
def execRingCancel (r : RingRef) (d : Desc) (s : State) : Ans := done (Instr.ringCancel r d).wf (ringPost r 5 d s)

/-- CLOSE (R347). -/
def execRingClose (r : RingRef) (d : Desc) (s : State) : Ans := done (Instr.ringClose r d).wf (ringPost r 6 d s)

/-- PARK (R347). -/
def execRingPark (r : RingRef) (d : Desc) (s : State) : Ans := done (Instr.ringPark r d).wf (ringPost r 7 d s)

/-- UNPARK (R347). -/
def execRingUnpark (r : RingRef) (d : Desc) (s : State) : Ans := done (Instr.ringUnpark r d).wf (ringPost r 8 d s)

/-- DOORBELL_WRITE (R378, R379). -/
def execDoorbellWrite (fn pair : Nat) (tail head : Option W16) (s : State) : Ans :=
  done (Instr.doorbellWrite fn pair tail head).wf
    (duties (access fn (0x2000 + 16 * pair) (ringBell fn pair tail head) s))

/-- TOKEN_ARRAY_ARRIVED (R384). -/
def execTokenArrayArrived (tenant : Nat) (usertag : W64) (toks : List W32) (s : State) : Ans :=
  done (Instr.tokenArrayArrived tenant usertag toks).wf (duties (tokensArrive tenant usertag toks s))

/-- HOST_MEMORY_READ_FAILED (R384, R426). -/
def execHostMemoryReadFailed (r : HostRead) (s : State) : Ans :=
  done (Instr.hostMemoryReadFailed r).wf (duties (hostReadFailed r s))

/-- INT_CAUSE_CLEAR (R575). -/
def execIntCauseClear (fn : Nat) (mask : W32) (s : State) : Ans :=
  done (Instr.intCauseClear fn mask).wf (access fn 0x3008 (writeWord fn 0x3008 mask) s)

/-- REGISTER_WRITE (R565, R567, R568). -/
def execRegisterWrite (fn off : Nat) (data : List (Option Byte)) (s : State) : Ans :=
  done (Instr.registerWrite fn off data).wf (duties (access fn off (hostWrite fn off data) s))

/-- MISALIGNED_ACCESS (R569). -/
def execMisalignedAccess (fn off len : Nat) (write : Bool) (s : State) : Ans :=
  done (Instr.misalignedAccess fn off len write).wf (access fn off (unsupported fn off) s)

/-- PAIR_LO_READ (R566, R570). -/
def execPairLoRead (fn off len : Nat) (s : State) : Ans :=
  done (Instr.pairLoRead fn off len).wf (access fn off (hostRead fn off len) s)

/-- BUS_MASTER_ENABLE (R377). -/
def execBusMasterEnable (fn : Nat) (en : Bool) (s : State) : Ans :=
  done (Instr.busMasterEnable fn en).wf (duties (busMaster fn en s))

/-- HOST_PORT_RESET (R376). -/
def execHostPortReset (port : Nat) (kind : PortReset) (s : State) : Ans :=
  done (Instr.hostPortReset port kind).wf (duties (portReset port kind s))

/-- VF_FLR (R394). -/
def execVfFlr (vf : Nat) (s : State) : Ans := done (Instr.vfFlr vf).wf (duties (vfReset vf s))

/-- VF_ENABLE_CHANGE (R374, R580). -/
def execVfEnableChange (enable : Bool) (numvfs : Nat) (s : State) : Ans :=
  done (Instr.vfEnableChange enable numvfs).wf (duties (vfEnable enable numvfs s))

end Sys2Proof.Machine
end

