-- ==== Sys2Proof/Machine/Aperture.lean ====
section
/-! DEFINITION. Meanings of accesses to the weight-intake aperture (R396, R398). -/

namespace Sys2Proof.Machine

open Sys2Proof

/-- The unit of panel memory that a 256-byte unit of the aperture maps to, if any. -/
def apertureUnit (s : State) (u : Nat) : Option Nat :=
  let i := s.intake
  let a := i.base + i.woff + u
  if i.open_ && decide (a < i.base + i.len) && unitExists a then some a else none

/-- The sectors of a unit that bytes from `o` to `o + n` cover whole. -/
def wholeSectors (o n : Nat) : List Nat := (List.range 4).filter fun k => decide (o ≤ 64 * k) && decide (64 * k + 64 ≤ o + n)

/-- The part of an aperture write that falls into one unit: its whole sectors are written, the rest is discarded and
counted. -/
def aperturePart (u o : Nat) (part : List Byte) (s : State) : State :=
  let n := part.length
  match apertureUnit s u with
  | none => { s with intake := { s.intake with discMap := s.intake.discMap + BitVec.ofNat 64 n } }
  | some a =>
    let l := wholeSectors o n
    let s1 := if l.isEmpty then s
      else writeAfter a (BitVec.ofNat 4 ((l.map fun k => 2 ^ k).sum)) (List.replicate o 0 ++ part) s
    { s1 with intake := { s1.intake with
        sectors := s1.intake.sectors + BitVec.ofNat 64 l.length
        discPart := s1.intake.discPart + BitVec.ofNat 64 (n - 64 * l.length) } }

/-- The units of the aperture that an access touches: unit, first byte in it, and bytes. -/
def apertureParts (off len : Nat) : List (Nat × Nat × Nat) :=
  (List.range ((off + len - 1) / 256 + 1 - off / 256)).map fun j =>
    let u := off / 256 + j
    let lo := max off (256 * u)
    (u, lo - 256 * u, min (off + len) (256 * u + 256) - lo)

/-- A write to the aperture. -/
def apertureStore (off : Nat) (data : List Byte) (s : State) : State :=
  (apertureParts off data.length).foldl (fun s x =>
    aperturePart x.1 x.2.1 ((data.drop (256 * x.1 + x.2.1 - off)).take x.2.2) s) s

/-- The units that an aperture read reads. -/
def apertureReads (s : State) (off len : Nat) : List Nat := (apertureParts off len).filterMap fun x => apertureUnit s x.1

/-- A unit is read for the aperture, at the stack that holds it or its row's proxy (R307, R313, R317). -/
def apertureTouch (a : Nat) (s : State) : State := notePoison a (readDie s a) (countRead a s)

/-- The bytes that an aperture read returns. -/
def apertureBytes (s : State) (off len : Nat) : List Byte :=
  (apertureParts off len).flatMap fun x =>
    match apertureUnit s x.1 with
    | some a => ((readBytes s a).drop x.2.1).take x.2.2
    | none => List.replicate x.2.2 0

/-- A read of the aperture. -/
def apertureLoad (off len : Nat) (s : State) : State :=
  (apertureReads s off len).foldl (fun s a => apertureTouch a s) (emit (.apertureData off (apertureBytes s off len)) s)

/-! ## Meanings -/

/-- APERTURE_WRITE (R396, R398). -/
def execApertureWrite (off : Nat) (data : List Byte) (s : State) : Ans :=
  done (Instr.apertureWrite off data).wf (if portUp s 1 then apertureStore off data s else s)

/-- APERTURE_READ (R398). -/
def execApertureRead (off len : Nat) (s : State) : Ans :=
  done (Instr.apertureRead off len).wf (if portUp s 1 then duties (apertureLoad off len s) else s)

end Sys2Proof.Machine
end

