-- ==== Sys2Proof/Machine/FabricEvents.lean ====
section
/-! DEFINITION. Meanings of the events of the fabric, the links and panel memory (chapters 07 to 09) that
stop no pattern. -/

namespace Sys2Proof.Machine

open Sys2Proof

/-! ## Fabric -/

/-- SET_FLIT_FORWARD (R242 to R246). -/
def execSetFlitForward (die port slot : Nat) (f : SetFlit) (s : State) : Ans :=
  done (Instr.setFlitForward die port slot f).wf (setForward die port slot f s)

/-- SET_FLIT_LANDING (R247, R249). -/
def execSetFlitLanding (rank slot : Nat) (f : SetFlit) (s : State) : Ans :=
  done (Instr.setFlitLanding rank slot f).wf (setLanding rank slot f s)

/-- FREE_FLIT_ACK (R254, R256). -/
def execFreeFlitAck (die : Nat) (drank : W16) (dclass : BitVec 4) (recs : List AckRec) (ece : Bool)
    (s : State) : Ans :=
  done (Instr.freeFlitAck die drank dclass recs ece).wf (freeAck die drank dclass recs ece s)

/-- ACK_TIMER (R254). -/
def execAckTimer (die : Nat) (srank : W16) (msg : BitVec 12) (s : State) : Ans :=
  done (Instr.ackTimer die srank msg).wf (ackTimer die srank msg s)

/-- CONTROL_PACKET (R261 to R263). -/
def execControlPacket (die port : Nat) (bytes : List Byte) (s : State) : Ans :=
  done (Instr.controlPacket die port bytes).wf (controlPacket die port bytes s)

/-- CONTROL_RESEND (R263). -/
def execControlResend (die port : Nat) (seq : W16) (s : State) : Ans :=
  done (Instr.controlResend die port seq).wf (controlResend die port seq s)

/-- SYNC_PATH_SWITCH (R268). -/
def execSyncPathSwitch (die : Nat) (s : State) : Ans :=
  done (Instr.syncPathSwitch die).wf (syncPathSwitch die s)

/-! ## Links -/

/-- AXUST_FRAME_RECEIVE (R279, R283). -/
def execAxustFrameReceive (die port : Nat) (frame : FrameIn) (s : State) : Ans :=
  done (Instr.axustFrameReceive die port frame).wf (duties (axustReceive die port frame.bits frame.payload frame.env frame.rep s))

/-- REPLAY_TIMEOUT (R283, R284). -/
def execReplayTimeout (die port : Nat) (due : ReplayDue) (s : State) : Ans :=
  done (Instr.replayTimeout die port due).wf (duties (replayTimeout die port due.seq due.env due.rep s))

/-- KEEPALIVE_LOST (R294). -/
def execKeepaliveLost (die port : Nat) (s : State) : Ans :=
  done (Instr.keepaliveLost die port).wf (keepaliveLost die port s)

/-- STANDBY_CHECK (R296). -/
def execStandbyCheck (die port : Nat) (found : StandbyFind) (s : State) : Ans :=
  done (Instr.standbyCheck die port found).wf (standbyCheck die port found s)

/-! ## Panel memory -/

/-- MEM_WRITE (R310, R311). -/
def execMemWrite (paddr : BitVec 34) (mask : BitVec 4) (data : List Byte) (s : State) : Ans :=
  done (Instr.memWrite paddr mask data).wf (memWriteOp paddr mask data s)

/-- SCRUB_VISIT (R322). -/
def execScrubVisit (visit : ScrubStep) (s : State) : Ans :=
  done (Instr.scrubVisit visit).wf (scrubVisit visit.stripe visit.found s)

/-- STACK_REBUILD_DONE (R321). -/
def execStackRebuildDone (course col : Nat) (s : State) : Ans :=
  done (Instr.stackRebuildDone course col).wf (rebuildDone course col s)

end Sys2Proof.Machine
end

