-- ==== Sys2Proof/Machine/CastOn.lean ====
section
/-! DEFINITION. Cast-on: the phases CO0 to CO7, failure and back-off (R448 to R475). -/

namespace Sys2Proof.Machine

open Sys2Proof

/-! ## What resets keep (R449, R580) -/

/-- The panel at the start of a cold reset: what flash, OTP, the trip latch and the pins hold stays. -/
def powerOn (s : State) : State :=
  { State.reset with
    pending := s.pending, out := s.out, free := s.free, flash := s.flash
    thm := { storedC := s.thm.storedC, storedM := s.thm.storedM, cycles := s.thm.stored, stored := s.thm.stored }
    boot := { good := s.boot.good, tripRec := s.boot.tripRec }
    pwr := { warn := s.pwr.warn }
    pins := {
      hostPerst := s.pins.hostPerst, jtagIr := s.pins.jtagIr, jtagBypass := s.pins.jtagBypass, boundary := s.pins.boundary }
    grid := { retired := s.flash.retired } }

/-- The settings of a link as flash saves them: lanes, bundles and landing depths (R185, R275). -/
def linkSaved (l : Link) : Link :=
  { lanes0 := l.lanes0, lanes1 := l.lanes1, fb0 := l.fb0, fb1 := l.fb1, frame0 := l.frame0, frame1 := l.frame1
    d0 := { depth := l.d0.depth }, d1 := { depth := l.d1.depth } }

/-- A function through a warm reset: configuration space and MSI-X stay. -/
def fnWarm (x : Func) : Func := { msix := x.msix, pba := x.pba, bme := x.bme }

/-- The panel at the start of a warm reset. -/
def warmBase (s : State) : State :=
  { powerOn s with
    flog := s.flog
    pmem := { data := s.pmem.data, poison := s.pmem.poison, stk := tabMap {} (fun x => { state := x.state }) s.pmem.stk }
    fns := tabMap {} fnWarm (s.fns.filter fun p => decide (p.1 ≤ 64))
    thm := { storedC := s.thm.storedC, storedM := s.thm.storedM, cycles := s.thm.cycles, stored := s.thm.stored }
    pins := { s.pins with parkPerst := [0, 1, 2, 3, 4, 5] }
    grid := { retired := s.flash.retired, anchorS := s.grid.anchorS }
    boot := {
      good := s.boot.good, kind := .warm, failDie := s.boot.failDie, failPh := s.boot.failPh
      failWhy := s.boot.failWhy, failed := s.boot.failed, lostc := s.boot.lostc, ancNOut := s.boot.ancNOut
      nostby := s.grid.anchorS } }

/-! ## Failure (R471, R473) -/

/-- A failing check: FAILWHY and FAILDIE. -/
abbrev CastFail := Nat × Nat

/-- The wait after failure `n` in ms. -/
def backoffMs (n : Nat) : Nat := min (2 ^ (n - 1)) 64 * 1000

/-- The fault-log record CAF of a failure. -/
def cafRec (s : State) (why die attempt : Nat) : FaultRec :=
  let r : FaultRec := {
    code := 0x70, detail := BitVec.ofNat 16 why, addr := BitVec.ofNat 32 attempt, epoch := epochNow s, stitch := stitchNow s }
  if die < numDies then { siteFields s die r with lrank := 0xFF } else r

/-- The phase of a failure: R471 gives each cause its phase, but for an anchor's failure. -/
def failPhase (s : State) (why : Nat) : Nat := if why = 1 then s.boot.phase else why / 256

/-- The fields of BOOT_FAIL. -/
def noteFail (why die : Nat) (s : State) : State :=
  modBoot (fun b => { b with
    failDie := BitVec.ofNat 8 (min die 255), failPh := failPhase s why, failWhy := BitVec.ofNat 16 why, failed := true }) s

/-- A failed attempt: its record, the field and the links down, and the wait.  A CO0 failure is held by the boot ROM. -/
def castFail (why die : Nat) (s : State) : State :=
  let n := s.boot.attempt
  let s1 := modBoot (fun b => { b with phase := 9, wait := backoffMs n, cast := none }) (noteFail why die s)
  if why / 256 = 0 then { s1 with flash := { s1.flash with co0Fail := s1.flash.co0Fail ++ [(why, n)] } }
  else
    let s2 := logPush (cafRec s1 why die n) s1
    { s2 with
      clus := tabMap {} unpowered s2.clus
      links := tabMap {} (fun l => if l.state = .disabled then l else { l with state := .down }) s2.links }

/-- Run checks in order, each in its phase, until one fails. -/
def runStages : List (Nat × (State → State × Option CastFail)) → State → State
  | [], s => s
  | (ph, f) :: l, s =>
    let r := f (modBoot (fun b => { b with phase := ph }) s)
    match r.2 with
    | some x => castFail x.1 x.2 r.1
    | none => runStages l r.1

/-! ## CO0 (R457, R459) -/

/-- Whether an image may run. -/
def slotOk (f : Flash) : Option Firmware → Bool
  | some w => w.sigOk && decide (f.floor ≤ w.version.toNat)
  | none => false

/-- The image in the other slot. -/
def otherSlot (f : Flash) : Option Firmware := if f.bootB then f.slotA else f.slotB

/-- The image that runs. -/
def bootImage (f : Flash) : Option Firmware := if slotOk f (bootSlot f) then bootSlot f else otherSlot f

/-- What fails CO0. -/
def co0Check (env : CastOnEnv) (f : Flash) : Option Nat :=
  if !env.sfdpOk then some 2 else if !env.rootKey then some 4 else if slotOk f (bootSlot f) || slotOk f (otherSlot f) then none
  else some 3

/-! ## CO1 to CO4 -/

/-- Whether a die is powered in this attempt (R464). -/
def castPowered (s : State) (d : Nat) : Bool :=
  if d < 144 then !courseLost s (d / 12) && !s.grid.retired.contains d
  else if d < 216 then !courseLost s (dieCourse d)
  else true

/-- The clusters when CO1 has closed the header switches of every site that it powers (R27, R464). -/
def castClusters (env : CastOnEnv) (s : State) : Tab Cluster :=
  ((List.range 576).filter fun i => castPowered s (i / 4) && !env.inrushFail.contains (i / 4)).map fun i => (i, { hdr := 8 })

/-- CO1: the courses in service, the ring and the tree. -/
def co1 (env : CastOnEnv) (s : State) : State × Option CastFail :=
  let s1 := modBoot (fun b => { b with lostc := s.grid.lostCourses }) { s with clus := castClusters env s }
  (s1,
   if 2 ≤ s.grid.lostCourses.length then some (0x101, 255)
   else
     match env.ringSilent.find? fun d => decide (144 ≤ d) && decide (d < numDies) && castPowered s d with
     | some d => some (0x102, d)
     | none => if env.treeOk then none else some (0x103, 255))

/-- The settings that flash holds for a link. -/
def flashLink (s : State) (d p : Nat) : Link := tabGet {} s.flash.savedLinks (linkKey d p)

/-- What CO2 and CO3 find on a link: where the attempt names nothing, a full link with no delay, or on the fast path what the saved settings
say. -/
def castFind (env : CastOnEnv) (fast : Bool) (s : State) (d p : Nat) : LadderEnv :=
  match env.links.find? fun x => x.1 == linkKey d p with
  | some x => if fast then x.2 else { x.2 with saved := false }
  | none => if fast then savedFind (flashLink s d p) else {}

/-- A link after training and calibration in a cast-on (R465), on the fast path from the saved settings (R185). -/
def castTrained (env : CastOnEnv) (fast : Bool) (s : State) (d p : Nat) (l : Link) : Link :=
  let f := castFind env fast s d p
  let old := flashLink s d p
  let l0 := if fast then { l with d0 := { l.d0 with depth := old.d0.depth }, d1 := { l.d1 with depth := old.d1.depth } } else l
  trainLink (depthLimit true d p) (identOk s d p f) f l0

/-- Training of one link in CO2 (R465), with the identity check and the calibration that end it (R275). -/
def castLink (env : CastOnEnv) (fast : Bool) (d p : Nat) (s : State) : State :=
  let up := castPowered s d && (match peer d p with | some e => castPowered s e.1 | none => false)
  modLink d p (fun l =>
    if retiredEnd s d p then { l with state := .disabled, failwhy := 4 }
    else if !up then { l with state := .down }
    else castTrained env fast s d p l) s

/-- CO2, at whose end the timing forest is computed (R157). -/
def co2 (env : CastOnEnv) (fast : Bool) (s : State) : State × Option CastFail :=
  (allLinks.foldl (fun s e => castLink env fast e.1 e.2 s) s, none)

/-- The sync depths of a die on its two paths (R182), on the fast path those of flash where the marks bear them out (R185). -/
def syncDepths (env : CastOnEnv) (fast : Bool) (s : State) (d : Nat) : BitVec 6 × BitVec 6 :=
  let old := tabGet (0, 0) s.flash.savedSync d
  let f := ((env.sync.find? fun x => x.1 == d).map Prod.snd).getD (if fast then (old.1.toNat - 2, old.2.toNat - 2) else (0, 0))
  (newDepth fast f.1 old.1, newDepth fast f.2 old.2)

/-- The dies when the timebase starts: the stitch count and the epoch at 0 (R160), each with its sync depths. -/
def castDies (env : CastOnEnv) (fast : Bool) (s : State) : Tab Die :=
  ((List.range numDies).filter (castPowered s)).map fun d => (d, { depth := (syncDepths env fast s d).1, depthAlt := (syncDepths env fast s d).2 })

/-- CO3: the timebase starts at 0 (R160), landing and sync depths are calibrated (R182), and the timing forest stands (R157). -/
def co3 (env : CastOnEnv) (fast : Bool) (s : State) : State × Option CastFail :=
  if env.syncDepthOk then
    (reforest (allLinks.foldl (fun s e => noteDepths e.1 e.2 s)
      (modBoot (fun b => { b with co3Done := true, classB := Config.otpClassB }) { s with dies := castDies env fast s, lode := {} })), none)
  else (s, some (0x301, 255))

/-- The state that a stack takes in CO4 (R466). -/
def castStack (env : CastOnEnv) (s : State) (i : Nat) : StackState :=
  let c := i / 6
  if courseLost s c then .dead
  else if env.untrained.contains (144 + i) then .out
  else if s.boot.kind = .warm ∧ env.memCheckOk ∧ s.flash.lostStacks.contains i then .rebuilding
  else .inService

/-- CO4: training, the stripe check, zeroing or the check of kept contents (R326, R466). -/
def co4 (env : CastOnEnv) (s : State) : State × Option CastFail :=
  let keep := s.boot.kind == .warm && env.memCheckOk
  let s1 := (List.range 72).foldl (fun s i => modStack (i / 6) (i % 6) (fun x => { x with state := castStack env s i }) s) s
  if (List.range 6).any fun m => decide (3 ≤ lostIn s1 m) then (s1, some (0x401, 255))
  else
    let s2 := { s1 with pmem := { s1.pmem with
      data := if keep then s1.pmem.data else [], poison := if keep then s1.pmem.poison else [], failed := []
      rebuild := nextRebuild s1, rebuildRow := 0 } }
    (modBoot (fun b => { b with co4Done := true, zeroed := b.kind == .warm && !env.memCheckOk }) (saveStackMap s2), none)

/-! ## CO5 to CO7 -/

/-- The compute sites charged with a FAILED link (R291), with no site counted that is retired already. -/
def chargedByLinks (s : State) : List Nat :=
  allLinks.filterMap fun e => if (linkOf s e.1 e.2).state = .failed then chargedSite s e.1 e.2 else none

/-- Build the darn map from the sites newly found unusable (R467). -/
def buildMap (bad : List Nat) (s : State) : State × Option CastFail :=
  let new := (rising bad).filter fun d => decide (d < 144) && !s.grid.retired.contains d && !courseLost s (d / 12)
  let s1 := new.foldl (fun s d => disableLinks d (markRetired d s)) s
  match (List.range 12).find? fun w => decide (2 ≤ (unusableOf s1 [] w).length) with
  | some w => (s1, some (0x501, siteDie ((unusableOf s1 [] w).getD 1 0) w))
  | none =>
    (modGrid (fun g => { g with
      skip := (List.range 12).map fun w => (unusableOf s1 [] w).headD 11, changed := timeWord s1 }) s1, none)

/-- CO5: built-in tests, and the darn map. -/
def co5 (env : CastOnEnv) (s : State) : State × Option CastFail :=
  match env.bistFail.find? fun d => decide (144 ≤ d) && decide (d < 216) && castPowered s d with
  | some d => (s, some (0x502, d))
  | none => buildMap (env.inrushFail ++ env.bistFail ++ chargedByLinks s) s

/-- CO6: the microcode broadcast. -/
def co6 (env : CastOnEnv) (s : State) : State × Option CastFail :=
  match env.co6Silent.find? fun d => decide (144 ≤ d) && decide (d < numDies) && castPowered s d with
  | some d => (s, some (0x601, d))
  | none => if env.co6Silent.isEmpty then (s, none) else buildMap env.co6Silent s

/-- A park port in CO7 (R400, R470). -/
def castPark (lic : Option Licence) (l : List ParkDev) (i : Nat) : ParkPort :=
  let d := l.getD i {}
  if !(licFeatures lic).getLsbD (4 + i) || !d.trains then {}
  else if !d.present then { state := .empty }
  else { state := .inService, cap := min d.gib 1024 * 2 ^ 18 }

/-- Links that the map keeps in STANDBY, and the skipped site of each wale, whose clusters are gated (R467). -/
def standbyLinks (s : State) : State :=
  (List.range 12).foldl (fun s w => openHeaders (siteDie (skipOf s.grid.skip w) w) s)
    (allLinks.foldl (fun s e =>
      if (linkOf s e.1 e.2).state = .axust ∧ wantsStandby s e.1 e.2 then modLink e.1 e.2 (fun l => { l with state := .standby }) s
      else s) s)

/-- A panel that becomes ready while PWR_WARN_N is asserted is ready in lean (R533). -/
def readyLean (s : State) : State := if s.pwr.warn then eventPf 2 0 (forceLean s) else s

/-- Ready: PSTATE 1, and the caps in force (R470, R537). -/
def ready (fast : Bool) (s : State) : State :=
  let s1 := setCaps (modBoot (fun b => { b with pstate := 1, phase := 8, fast := fast, failed := false, wait := 0 }) s)
  readyLean (modPwr (fun p => { p with lastEff := effectiveCap s1 }) s1)

/-- CO7. -/
def co7 (env : CastOnEnv) (fast : Bool) (s : State) : State × Option CastFail :=
  if !env.hostDieOk then (s, some (0x701, 255))
  else
    let lic := s.flash.lic.filter licGood
    let s1 := modBoot (fun b => { b with lic := lic, nolic := lic.isNone, nostby := b.nostby || !env.standbyOk }) s
    let s2 := { s1 with
      park := tabPuts {} [] ((List.range 6).map fun i => (i, castPark lic env.park i))
      rnd := { s1.rnd with freeIdx := [(0, licSessions lic)] }
      pins := { s1.pins with parkPerst := parkHeld lic }
      flash := { s1.flash with
        saved := some s1.boot.fwver, savedSerial := Config.serial, savedSkip := s1.grid.skip
        savedLinks := tabMap {} linkSaved s1.links
        savedSync := s1.dies.filterMap fun x => if (x.2.depth, x.2.depthAlt) = (0, 0) then none else some (x.1, (x.2.depth, x.2.depthAlt))
        savedCoolant := (s1.thm.tmem + s1.thm.tcmp) / 2
        floor := max s1.flash.floor ((bootImage s1.flash).map Firmware.floor |>.getD 0) } }
    (ready fast (standbyLinks s2), none)

/-! ## The attempt (R456, R472) -/

/-- Whether a saved map serves the fast path: a record of this firmware, and no skip for a lost course. -/
def savedServes (s : State) : Bool :=
  s.boot.kind == .warm && s.boot.attempt == 1 && s.flash.saved == some s.boot.fwver && s.flash.savedSerial == Config.serial &&
    (List.range 12).all fun w =>
      let c := skipOf s.flash.savedSkip w
      c == 11 || s.flash.retired.contains (siteDie c w)

/-- Whether an attempt leaves the fast path: a course is lost, a link ends FAILED, so that a site is charged in CO5, or a compute die does not
answer. -/
def leavesFast (env : CastOnEnv) (s : State) : Bool :=
  !s.grid.lostCourses.isEmpty || !env.inrushFail.isEmpty ||
    (env.links.any fun x => allLinks.contains (x.1 / 8, x.1 % 8) && (castTrained env true s (x.1 / 8) (x.1 % 8) {}).state == .failed) ||
    env.co6Silent.any fun d => decide (d < 144) && castPowered s d

/-- ANC-N fails during the attempt (R456): the attempt has failed, and ANC-S begins the next one. -/
def castHandover (s : State) : State :=
  if s.grid.anchorS || s.boot.nostby then modBoot (fun b => { b with dead := true, cast := none }) s
  else
    let s1 := logPush (cafRec s 1 255 s.boot.attempt) (noteFail 1 255 s)
    modBoot (fun b => { b with attempt := b.attempt + 1, ancNOut := true, nostby := true, cast := none })
      (modGrid (fun g => { g with anchorS := true }) s1)

/-- CO1 onwards, once every course is powered or lost. -/
def castGo (env : CastOnEnv) (s : State) : State :=
  let s0 := modBoot (fun b => { b with cast := none, waiting := [] }) s
  let s1 := if env.anchorFails then castHandover s0 else s0
  if s1.boot.dead then s1
  else
    let fast := savedServes s1 && !leavesFast env s1
    let map := fun (s : State) =>
      if fast then (modGrid (fun g => { g with skip := s.flash.savedSkip, changed := timeWord s }) s, none) else co5 env s
    runStages [(1, co1 env), (2, co2 env fast), (3, co3 env fast), (4, co4 env), (5, map), (6, co6 env), (7, co7 env fast)] s1

/-- Copy the failures that the boot ROM holds, and a trip, into the fault log. -/
def copyHeld (s : State) : State :=
  let s1 := match s.boot.tripRec with
    | some r => logPush r (modBoot (fun b => { b with tripRec := none }) s)
    | none => s
  s1.flash.co0Fail.foldl (fun s x => logPush (cafRec s x.1 255 x.2) s) { s1 with flash := { s1.flash with co0Fail := [] } }

/-- Whether CO1 has no course left to wait for; while PWR_WARN_N is asserted none is powered (R533). -/
def co1Ready (s : State) : Bool := s.boot.waiting.isEmpty && !s.pwr.warn

/-- Go on with a cast-on that waits in CO1. -/
def co1GoOn (s : State) : State :=
  match s.boot.cast with
  | some env => if s.boot.phase = 1 ∧ co1Ready s then castGo env s else s
  | none => s

/-- Begin CO1: courses without PWR_GOOD are waited for (R464). -/
def enterCo1 (env : CastOnEnv) (s : State) : State :=
  let s1 := copyHeld (modGrid (fun g => { retired := s.flash.retired, anchorS := g.anchorS }) s)
  co1GoOn (modBoot (fun b => { b with
    phase := 1, wait := 0, cast := some env, waiting := (List.range 12).filter fun c => !b.good.contains c }) s1)

/-- CO0 once an anchor leads. -/
def runCo0 (env : CastOnEnv) (s : State) : State :=
  match co0Check env s.flash with
  | some why => castFail why 255 s
  | none =>
    enterCo1 env (modBoot (fun b => { b with
      fwver := ((bootImage s.flash).map Firmware.version).getD 0, fwfall := !slotOk s.flash (bootSlot s.flash), cast := none }) s)

/-- Begin a cast-on from CO0; where ANC-N neither hands over the flash nor signals, ANC-S waits for its limit
(R452). -/
def enterCo0 (env : CastOnEnv) (s : State) : State :=
  let s1 := modBoot (fun b => { b with phase := 0, wait := 0 }) s
  if !env.anchorNOk && !s1.grid.anchorS then modBoot (fun b => { b with cast := some env }) s1 else runCo0 env s1

end Sys2Proof.Machine
end

