-- ==== Sys2Proof/Machine/Lifecycle.lean ====
section
/-! DEFINITION. Meanings of resets, of the events of cast-on, of the two anchors and of Herus's own bind-off (R448 to
R456, R473, R478, R590). -/

namespace Sys2Proof.Machine

open Sys2Proof

/-! ## Resets (R448 to R450) -/

/-- Whether the anchors hold every SPI contact at high impedance: while PANEL_RST_N is asserted, and only then (R596). -/
def spiHighZ (s : State) : Bool := s.boot.heldRst

/-- What an external programmer has written to flash while the SPI contacts were at high impedance (R596). -/
def programFlash (env : CastOnEnv) (s : State) : State :=
  match env.programmed with
  | some x => if spiHighZ s then { s with flash := { s.flash with slotA := x.1, slotB := x.2.1, bootB := x.2.2 } } else s
  | none => s

/-- COLD_RESET: everything restarts, and cast-on takes the full path. -/
def coldReset (env : CastOnEnv) (s : State) : State := enterCo0 env (powerOn (programFlash env s))

/-- PANEL_RST_N asserted: every die is held in reset. -/
def holdReset (s : State) : State := modBoot (fun b => { b with heldRst := true }) (powerOn s)

/-- WARM_RESET: not acted on while PANEL_RST_N is asserted, after a trip, with no anchor, or out of service, which
only a cold reset ends; during a cold cast-on that has not completed CO4 it restarts cold (R450). -/
def warmReset (env : CastOnEnv) (s : State) : State :=
  if !anchorUp s || s.boot.trip then s
  else if s.boot.pstate = 7 then modBoot (fun b => { b with warmDue := false }) s
  else if s.boot.pstate = 0 ∧ s.boot.kind ≠ .warm ∧ !s.boot.co4Done then coldReset env s
  else enterCo0 env (warmBase s)

/-! ## Events of cast-on -/

/-- COURSE_POWER_TIMEOUT: a course that CO1 waits for is lost for this attempt (R464). -/
def courseTimeout (c : Nat) (s : State) : State :=
  if s.boot.phase = 1 ∧ s.boot.waiting.contains c ∧ !s.pwr.warn then
    co1GoOn (modBoot (fun b => { b with waiting := b.waiting.filter (· != c) })
      (modGrid (fun g => { g with lostCourses := setIns c g.lostCourses }) s))
  else s

/-- PWR_GOOD_ASSERT: CO1's wait for the course ends (R464); after a VIN removal the next PATTERN_START can bring its
compute sites back (R515). -/
def powerGood (c : Nat) (s : State) : State :=
  co1GoOn (modBoot (fun b => { b with
    good := setIns c b.good, waiting := b.waiting.filter (· != c) }) s)

/-- BACKOFF_EXPIRY: the next attempt, from CO1, or from CO0 after a CO0 failure (R473). -/
def backoffExpiry (env : CastOnEnv) (s : State) : State :=
  if s.boot.phase = 9 ∧ anchorUp s ∧ !s.boot.trip then
    let s1 := modBoot (fun b => { b with attempt := b.attempt + 1, wait := 0 }) s
    if s.boot.failPh = 0 then enterCo0 env s1 else enterCo1 env s1
  else s

/-- ANC-S leads alone: ANC-N is held in reset. -/
def southLeads (s : State) : State :=
  modBoot (fun b => { b with ancNOut := true, nostby := true }) (modGrid (fun g => { g with anchorS := true }) s)

/-- FLASH_HANDOVER_TIMEOUT: ANC-S takes the flash bus and leads the cast-on (R452). -/
def flashTimeout (s : State) : State :=
  match s.boot.cast with
  | some env => if s.boot.phase = 0 ∧ anchorUp s then runCo0 env (southLeads s) else s
  | none => s

/-! ## The anchors (R454, R455) -/

/-- No anchor is active: rounds stop, and only a cold reset returns the panel to service. -/
def panelDead (s : State) : State :=
  let s1 := cancelHold (modBoot (fun b => { b with dead := true, cast := none }) s)
  { s1 with
    pat := { staged := s1.pat.staged, committed := s1.pat.committed }
    rnd := { s1.rnd with active := false, parts := [] } }

/-- ANC-S takes over while the panel is ready or out of service: time goes on, the round is aborted and replayed, and
every request that was taken up is answered BUSY with HANDOVER (R415). -/
def takeover (s : State) : State :=
  let n := dieOf s 224
  let s1 := modDie 225 (fun x => { x with ref := n.ref, phase := n.phase, len := n.len, count := n.count, epoch := n.epoch })
    (southLeads s)
  let s2 := modDies [216, 217, 218, 219] (fun x => { x with tport := some 0 }) s1
  finishLongs (fun _ => true) (fun _ _ => { status := rsBusy, retry := 1000, handover := true }) (abortReplay s2)

/-- ANCHOR_TAKEOVER: during a cast-on the attempt fails and the next one begins at once (R456). -/
def anchorTakeover (s : State) : State :=
  if s.grid.anchorS || !anchorUp s then s
  else if s.boot.nostby then panelDead s
  else if s.boot.pstate = 0 then
    (if s.boot.phase = 1 then
      (match s.boot.cast with
       | some env => enterCo1 env (castHandover s)
       | none => southLeads s)
     else southLeads s)
  else takeover s

/-- STANDBY_ANCHOR_FAILURE. -/
def standbyFails (s : State) : State :=
  if s.grid.anchorS then s else modBoot (fun b => { b with nostby := true }) s

/-- SOLE_ANCHOR_FAILURE. -/
def soleFails (s : State) : State := if s.grid.anchorS || s.boot.nostby then panelDead s else s

/-! ## Herus's bind-off (R478, R532) -/

/-- HERUS_BIND_OFF: PWR_WARN_N has persisted for 50 ms; at most one for each recognised assertion. -/
def herusBindOff (s : State) : State :=
  if s.pwr.warn && !s.pwr.warnDone && herusUp s && !s.boot.trip && (s.boot.pstate == 1 || s.boot.pstate == 5) then
    let s1 := modPwr (fun p => { p with warnDone := true }) s
    if s.boot.pstate = 1 then beginBind 0 1 (eventPf 7 0 s1) else s1
  else s

/-! ## Pins -/

/-- HOST_PERST_N_DEASSERT: the endpoint trains its link and its functions can be reached (R461, R590). -/
def perstRelease (p : Nat) (s : State) : State :=
  { s with pins := { s.pins with hostPerst := s.pins.hostPerst.filter (· != p) } }

/-! ## Meanings -/

/-- COLD_RESET (R448). -/
def execColdReset (env : CastOnEnv) (s : State) : Ans := done (Instr.coldReset env).wf (coldReset env s)

/-- PANEL_RST_ASSERT (R450). -/
def execPanelRstAssert (s : State) : Ans := done Instr.panelRstAssert.wf (holdReset s)

/-- WARM_RESET (R448, R450). -/
def execWarmReset (env : CastOnEnv) (s : State) : Ans := done (Instr.warmReset env).wf (warmReset env s)

/-- COURSE_POWER_TIMEOUT (R464). -/
def execCoursePowerTimeout (course : Nat) (s : State) : Ans :=
  done (Instr.coursePowerTimeout course).wf (courseTimeout course s)

/-- PWR_GOOD_ASSERT (R464, R515). -/
def execPwrGoodAssert (course : Nat) (s : State) : Ans := done (Instr.pwrGoodAssert course).wf (powerGood course s)

/-- BACKOFF_EXPIRY (R473). -/
def execBackoffExpiry (env : CastOnEnv) (s : State) : Ans := done (Instr.backoffExpiry env).wf (backoffExpiry env s)

/-- FLASH_HANDOVER_TIMEOUT (R452). -/
def execFlashHandoverTimeout (s : State) : Ans := done Instr.flashHandoverTimeout.wf (flashTimeout s)

/-- ANCHOR_TAKEOVER (R454 to R456). -/
def execAnchorTakeover (cause : TakeoverCause) (s : State) : Ans :=
  done (Instr.anchorTakeover cause).wf (duties (anchorTakeover s))

/-- STANDBY_ANCHOR_FAILURE (R455). -/
def execStandbyAnchorFailure (s : State) : Ans := done Instr.standbyAnchorFailure.wf (standbyFails s)

/-- SOLE_ANCHOR_FAILURE (R455). -/
def execSoleAnchorFailure (s : State) : Ans := done Instr.soleAnchorFailure.wf (soleFails s)

/-- HERUS_BIND_OFF (R478). -/
def execHerusBindOff (s : State) : Ans := done Instr.herusBindOff.wf (duties (herusBindOff s))

/-- HOST_PERST_N_DEASSERT (R461). -/
def execHostPerstNDeassert (port : Nat) (s : State) : Ans :=
  done (Instr.hostPerstNDeassert port).wf (perstRelease port s)

end Sys2Proof.Machine
end

