-- ==== Sys2Proof/Machine/RepairEvents.lean ====
section
/-! DEFINITION. Meanings of the causes of a repair (R487, R498), of the monitors of the course rails (R515, R522 to R524)
and of the losses of the ring supply and of a reference clock (R516, R586). -/

namespace Sys2Proof.Machine

open Sys2Proof

/-! ## Causes of a repair (R487) -/

/-- Whether the panel acts on the failure of a part: it has been cast on, an anchor runs, and it has not tripped. -/
def repairsRun (s : State) : Bool := s.boot.pstate != 0 && anchorUp s && !s.boot.trip

/-- Whether a compute site that fails is one that the panel retires: a live one, or one of the map while the panel is
bound off (R497). -/
def mayFail (s : State) (d : Nat) : Bool :=
  dieLive s d || (s.boot.bound && (rankOf s.grid.skip d).isSome && !s.grid.silent.contains d)

/-- The failure of a compute site, which retires it by repair; another site without power has nothing to fail. -/
def siteFails (course wale clu cause : Nat) (env : RepairEnv) (s : State) : State :=
  let d := siteDie course wale
  if repairsRun s && mayFail s d then duties (retireSites [{ die := d, cause := cause, clu := clu }] env s) else s

/-- DIE_SILENT: a compute die sends no carrier or misses three heartbeats. -/
def dieSilent (course wale : Nat) (env : RepairEnv) (s : State) : State :=
  let d := siteDie course wale
  if repairsRun s && mayFail s d then
    modGrid (fun g => { g with silent := setIns d g.silent }) (siteFails course wale 0 3 env s)
  else s

/-- TIMING_LINK_LOST: a die left with no usable link is treated as one that has fallen silent: a compute site is retired, a stack becomes DEAD
(R157, R487, R315). -/
def timingLost (d : Nat) (retraining : Bool) (env : RepairEnv) (s : State) : State :=
  let r := timingLinkLost d retraining s
  if r.2 then r.1
  else if d < 144 then dieSilent (d / 12) (d % 12) env r.1
  else if d < 216 then duties (stackOut (dieCourse d) (dieCol d) .baseDie env r.1)
  else modGrid (fun g => { g with silent := setIns d g.silent }) r.1

/-- COURSE_LOSS (R498); the loss of VIN_Cn alone leaves the stacks in service. -/
def courseGone (c : Nat) (cause : CourseCause) (env : RepairEnv) (s : State) : State :=
  if repairsRun s then duties (courseLoss c cause (cause == .vin) env s) else s

/-! ## PWR_GOOD_Cn (R515) -/

/-- Take the power from a course's compute sites without a fault: VIN removal (R480, R515). -/
def vinRemoved (c : Nat) (s : State) : State :=
  let s1 := (List.range 12).foldl (fun s w =>
    openHeaders (siteDie c w) (linksDown (siteDie c w) s)) s
  countCourse c 6 (modBoot (fun b => { b with vinGone := setIns c b.vinGone }) s1)

/-- A deassertion of PWR_GOOD_Cn that lasts `ns` nanoseconds: one shorter than 2 µs is a glitch.  What a longer one
does depends on the panel's state and on the course's memory rails (R515); before ready its level counts alone
(R588). -/
def powerBad (c ns : Nat) (railsOk : Bool) (env : RepairEnv) (s : State) : State :=
  if !s.boot.good.contains c then s
  else if ns < 2000 then (if s.boot.heldRst then s else countCourse c 3 s)
  else
    let s1 := modBoot (fun b => { b with
      good := b.good.filter (· != c)
      waiting := if b.phase = 1 ∧ b.cast.isSome then setIns c b.waiting else b.waiting }) s
    if !repairsRun s || courseLost s c then s1
    else if s.pat.running.isSome || s.boot.binding.isSome then
      duties (courseLoss c (if railsOk then .vin else .pwrGood) railsOk env s1)
    else if railsOk then (if s.boot.vinGone.contains c then s1 else vinRemoved c s1)
    else duties (courseLoss c .pwrGood false env s1)

/-! ## The course monitors (R523, R524) -/

/-- Whether an over-current warning of a course would be the second within 1 ms. -/
def ocSoon (s : State) (c : Nat) : Bool :=
  match tabGet none s.pwr.ocAt c with
  | some t => decide ((refNow s - t).toNat < 2000000)
  | none => false

/-- Change a course set point, kept in 1,000 to 1,350 MHz. -/
def courseStep (c : Nat) (f : Nat → Nat) (s : State) : State :=
  modPwr (fun p => { p with courseSp := tabMod 1350 p.courseSp c fun x => max 1000 (min 1350 (f x)) }) s

/-- COURSE_CURRENT_LIMIT: a condition on VIN_Cn of a course with power holds for its window. -/
def courseMonitor (c : Nat) (m : CourseMonitor) (env : RepairEnv) (s : State) : State :=
  if !repairsRun s || courseLost s c || s.boot.bound || s.boot.vinGone.contains c then s
  else
    match m with
    | .over420 =>
      if ocSoon s c then s
      else countCourse c 1 (modPwr (fun p => { p with ocAt := tabPut none p.ocAt c (some (refNow s)) }) s)
    | .over440 =>
      if tabGet 1350 s.pwr.courseSp c ≤ 1000 then s else countCourse c 2 (courseStep c (· - 50) s)
    | .below430 =>
      if 1350 ≤ tabGet 1350 s.pwr.courseSp c then s else countCourse c 2 (courseStep c (· + 25) s)
    | .under165 => countCourse c 4 s
    | .under150 => duties (courseLoss c .vin true env s)

/-- VDRAM_Cn or VPP_Cn out of tolerance: all stacks of the course become OUT in one abort (R315, R316). -/
def stacksOut (c : Nat) (env : RepairEnv) (s : State) : State :=
  let l := (List.range 6).filter fun m => !stackLost s c m
  if l.isEmpty then s
  else
    let s1 := drainFabric (l.foldl (fun s m => markLost c m .vdramVpp s) s)
    let s2 := l.foldl (fun s m => settleTorn m ((env.tornRows.filter fun x => x.1 == m).map Prod.snd) s) s1
    match l.find? fun m => s2.pmem.failed.contains m with
    | some m => goOutOfService (stackDie c m) s2
    | none => if s.pat.running.isSome then abortRound 3 s2 else s2

/-- MEMORY_RAIL_FAULT. -/
def memoryRail (c : Nat) (rail : MemRail) (env : RepairEnv) (s : State) : State :=
  if !repairsRun s || courseLost s c then s
  else if rail = .vbase then duties (courseLoss c .vbase false env s)
  else duties (stacksOut c env s)

/-! ## Supplies and reference clocks of the ring (R516, R586) -/

/-- RING_SUPPLY_LOSS: rounds stop; only a cold reset brings the panel back. -/
def supplyLoss (s : State) : State := modBoot (fun b => { b with supplyLost := true }) (panelDead s)

/-- The park port of an I/O die, if it has one (R14). -/
def parkOfDie (d : Nat) : Option Nat := [216, 218, 219, 220, 222, 223].idxOf? d

/-- REFCLK_LOSS: a host-port or park-port die takes its port down, an anchor is replaced or the panel stops, and no
other die has a reference of its own. -/
def refclkGone (d : Nat) (s : State) : State :=
  if !anchorUp s then s
  else if d = 217 then portReset 0 .linkDown s
  else if d = 221 then portReset 1 .linkDown s
  else if d = 224 then anchorTakeover s
  else if d = 225 then (if s.grid.anchorS then panelDead s else standbyFails s)
  else
    match parkOfDie d with
    | some p => portDown p s
    | none => s

/-! ## Meanings -/

/-- CLUSTER_OVERCURRENT (R522). -/
def execClusterOvercurrent (course wale clu : Nat) (env : RepairEnv) (s : State) : Ans :=
  done (Instr.clusterOvercurrent course wale clu env).wf (siteFails course wale clu 1 env s)

/-- REGULATOR_FAULT (R487, R522): both kinds are DETAIL 2 of SRT. -/
def execRegulatorFault (course wale clu : Nat) (kind : RegFault) (env : RepairEnv) (s : State) : Ans :=
  done (Instr.regulatorFault course wale clu kind env).wf (siteFails course wale clu 2 env s)

/-- TIMING_LINK_LOST (R157). -/
def execTimingLinkLost (die : Nat) (loss : TimingLoss) (s : State) : Ans :=
  done (Instr.timingLinkLost die loss).wf (timingLost die loss.retraining loss.rep s)

/-- DIE_SILENT (R487). -/
def execDieSilent (course wale : Nat) (env : RepairEnv) (s : State) : Ans :=
  done (Instr.dieSilent course wale env).wf (dieSilent course wale env s)

/-- COURSE_LOSS (R498). -/
def execCourseLoss (course : Nat) (cause : CourseCause) (env : RepairEnv) (s : State) : Ans :=
  done (Instr.courseLoss course cause env).wf (courseGone course cause env s)

/-- PWR_GOOD_DEASSERT (R515). -/
def execPwrGoodDeassert (course ns : Nat) (railsOk : Bool) (env : RepairEnv) (s : State) : Ans :=
  done (Instr.pwrGoodDeassert course ns railsOk env).wf (powerBad course ns railsOk env s)

/-- COURSE_CURRENT_LIMIT (R523). -/
def execCourseCurrentLimit (course : Nat) (m : CourseMonitor) (env : RepairEnv) (s : State) : Ans :=
  done (Instr.courseCurrentLimit course m env).wf (courseMonitor course m env s)

/-- MEMORY_RAIL_FAULT (R524). -/
def execMemoryRailFault (course : Nat) (rail : MemRail) (env : RepairEnv) (s : State) : Ans :=
  done (Instr.memoryRailFault course rail env).wf (memoryRail course rail env s)

/-- RING_SUPPLY_LOSS (R516). -/
def execRingSupplyLoss (s : State) : Ans := done Instr.ringSupplyLoss.wf (supplyLoss s)

/-- REFCLK_LOSS (R586). -/
def execRefclkLoss (die : Nat) (s : State) : Ans := done (Instr.refclkLoss die).wf (duties (refclkGone die s))

end Sys2Proof.Machine
end

