-- ==== Sys2Proof/Machine/PowerEvents.lean ====
section
/-! DEFINITION. Meanings of the power events: brownouts (R181, R532, R533), margin trims (R165, R518), the cap control
(R526 to R531) and throttling (R539). -/

namespace Sys2Proof.Machine

open Sys2Proof

/-! ## Brownouts (R181, R532, R533) -/

/-- The stitch start at least `n` stitches after now. -/
def stitchAfter (n : Nat) (s : State) : BitVec 48 :=
  stitchNow s + BitVec.ofNat 48 (if (dieOf s (anchorDie s)).phase = 0 then n else n + 1)

/-- PWR_WARN_N recognised as asserted: the floor of R519 holds at once; what else follows depends on the panel's state.
Before ready only the level counts. -/
def warnOn (s : State) : State :=
  if s.pwr.warn then s
  else
    let s1 := modPwr (fun p => { p with warn := true, warnDone := false }) s
    if !herusUp s || s.boot.pstate = 0 then s1
    else
      let s2 := eventPf 2 0 s1
      if s.boot.trip || s.boot.pstate = 5 || s.boot.pstate = 6 || s.boot.pstate = 7 || s.lode.mode = .lean then s2
      else if s.pat.running.isSome then modPwr (fun p => { p with leanDue := true }) s2
      else modPwr (fun p => { p with leanDue := true, forced := some (stitchNow s + 512) }) s2

/-- PWR_WARN_N recognised as deasserted: the floor and the count towards bind-off end; a pending lean entry stays.  A
cast-on that waits in CO1 goes on. -/
def warnOff (s : State) : State :=
  if !s.pwr.warn then s
  else
    let s1 := modPwr (fun p => { p with warn := false }) s
    if !herusUp s then s1
    else if s.boot.pstate = 0 then co1GoOn s1
    else eventPf 3 0 s1

/-- 80 µs after the warning with no knot: the lodestar names a forced lean point, at the first stitch start at least 4
stitches later. -/
def forcedLean (s : State) : State :=
  if herusUp s && s.pwr.leanDue && s.pwr.forced.isNone then
    modPwr (fun p => { p with forced := some (stitchAfter 4 s) }) s
  else s

/-! ## Margin trims (R165, R518) -/

/-- A cluster after 1 ms with `n` warnings: its rail rises by 5 mV up to its ceiling, or falls by 5 mV after 256 quiet
intervals, to no less than the characterised voltage `mv`. -/
def trimStep (mv n : Nat) (c : Cluster) : Cluster :=
  if 0 < n then
    { c with
      warnIv := c.warnIv + BitVec.ofNat 32 n, quiet := 0
      trim := if mv + c.trim + 5 ≤ min 900 c.vceil then c.trim + 5 else c.trim }
  else if 256 ≤ c.quiet + 1 then { c with quiet := 0, trim := c.trim - 5 }
  else { c with quiet := c.quiet + 1 }

/-- MARGIN_TRIM, every 1 ms: `warns` lists the warning counts of clusters by 4 * die + cluster.  The stacks count the millisecond too (R329), and the copying of
sets that R436 gives 1 ms is done by then (log entry 138). -/
def marginTrim (warns : List (Nat × Nat)) (s0 : State) : State :=
  if !herusUp s0 || s0.boot.trip then s0
  else
    let s := refreshTick (copySets s0)
    (List.range 144).foldl (fun t d =>
      if siteOn s d then
        (List.range 4).foldl (fun t k =>
          modClu d k (trimStep (Config.railMv (d * 4 + k) (setPoint s d)) (tabGet 0 warns (d * 4 + k))) t) t
      else t) s

/-! ## The cap control (R526, R527) -/

/-- Whether a draw leaves at least 3 % of its limit as headroom. -/
def roomy (limit draw : Nat) : Bool := decide (0 < limit) && decide (100 * draw ≤ 97 * limit)

/-- One comparison of the 1 ms means with the limits. -/
def capStep (ref : W64) (lim : Draws) (d : Draws) (p : Power) : Power :=
  let heavy := decide (lim.panel < d.panel) || decide (lim.compute < d.compute)
  let memHeavy := decide (lim.memory < d.memory)
  let room := roomy lim.panel d.panel && roomy lim.compute d.compute && roomy lim.memory d.memory
  let soon := match p.capRose with
    | some t => decide ((ref - t).toNat < 2000000)
    | none => false
  let p1 := if memHeavy || (heavy && decide (p.capSp ≤ 1000)) then { p with paceNeeded := true } else p
  if heavy then { p1 with capSp := max 1000 (p.capSp - 50) }
  else if !memHeavy && room && p.duty == 32 && decide (p.capSp < 1350) && !soon then
    { p1 with capSp := min 1350 (p.capSp + 25), capRose := some ref }
  else p1

/-- The limits in force. -/
def limitsOf (s : State) : Draws := ⟨effectiveCap s, s.thm.pc, s.thm.pm⟩

/-- Items 7 and 8 of the course counters, from the sensors of the course (R547, log entry 19). -/
def courseDraw (s : State) : State :=
  let s1 := (List.range 12).foldl (fun t c =>
    let i := Config.reading s.free (600 + c)
    let e := Config.reading s.free (612 + c)
    modPwr (fun p => { p with
      cnt := cntInc (if (tabGet 0 p.cnt (16 * c + 7)).toNat < i then tabPut 0 p.cnt (16 * c + 7) (BitVec.ofNat 32 i) else p.cnt)
        (16 * c + 8) e }) t) s
  { s1 with free := s.free + 1 }

/-- CAP_CONTROL: the means are taken in, and once the panel is ready the cap set point and the need for pacing follow
them.  The idle means of R528 are the last ones reported while no round runs. -/
def capControl (d : Draws) (s : State) : State :=
  if !herusUp s || s.boot.trip then s
  else
    let s1 := courseDraw (modPwr (fun p => { p with draws := d, idle := if s.rnd.active then p.idle else d }) s)
    if s.boot.pstate = 0 then s1 else reportCap (modPwr (capStep (refNow s) (limitsOf s) d) s1)

/-! ## Throttling (R539) -/

/-- The compute die to throttle: the hottest at 95 °C or above, the lowest index on a tie. -/
def hotDie (s : State) : Option Nat :=
  let h := hotCompute s
  if 95 ≤ h.2 then some h.1 else none

/-- Event 0x05 for every die that has become throttled or has ceased to be. -/
def throttleEvents (s : State) : State :=
  let new := throttledDies s
  let s1 := modPwr (fun p => { p with throttled := new }) s
  (List.range 144).foldl (fun t d =>
    if new.contains d && !s.pwr.throttled.contains d then eventPf 5 (BitVec.ofNat 32 (2 ^ 31 + d)) t
    else if !new.contains d && s.pwr.throttled.contains d then eventPf 5 (BitVec.ofNat 32 d) t
    else t) s1

/-- The throttle set points after a period: the hot die's falls by 50 MHz; once per 1 ms (`raise`) those of dies at 92 °C
or below rise by 25 MHz. -/
def throttleSet (raise : Bool) (s : State) : State :=
  let low := match hotDie s with
    | some d => tabMod 1350 s.pwr.throttle d fun x => max 1000 (x - 50)
    | none => s.pwr.throttle
  let t := if raise then tabPuts 1350 low ((low.filter fun x => decide (dieTemp s x.1 ≤ 92)).map fun x => (x.1, min 1350 (x.2 + 25)))
    else low
  modPwr (fun p => { p with throttle := t }) s

/-- Take in junction temperatures of compute, ring and anchor dies. -/
def noteTemps (temps : List (Nat × Nat)) (s : State) : State :=
  modThm (fun t => { t with temps := tabPuts 0 t.temps (temps.filter fun x => dieKind x.1 != 1) }) s

/-- THROTTLE_STEP. -/
def throttleStep (temps : List (Nat × Nat)) (raise : Bool) (s : State) : State :=
  if !herusUp s then s
  else
    let s1 := noteTemps temps s
    if s.boot.trip || s.boot.pstate = 0 then s1 else throttleEvents (throttleSet raise s1)

/-! ## Meanings -/

/-- PWR_WARN_ASSERT (R532, R533). -/
def execPwrWarnAssert (s : State) : Ans := done Instr.pwrWarnAssert.wf (warnOn s)

/-- PWR_WARN_DEASSERT (R181, R532). -/
def execPwrWarnDeassert (s : State) : Ans := done Instr.pwrWarnDeassert.wf (warnOff s)

/-- FORCED_LEAN_POINT (R181). -/
def execForcedLeanPoint (s : State) : Ans := done Instr.forcedLeanPoint.wf (forcedLean s)

/-- MARGIN_TRIM (R165). -/
def execMarginTrim (warns : List (Nat × Nat)) (s : State) : Ans := done (Instr.marginTrim warns).wf (marginTrim warns s)

/-- CAP_CONTROL (R527). -/
def execCapControl (d : Draws) (s : State) : Ans := done (Instr.capControl d).wf (capControl d s)

/-- THROTTLE_STEP (R539). -/
def execThrottleStep (temps : List (Nat × Nat)) (raise : Bool) (s : State) : Ans :=
  done (Instr.throttleStep temps raise).wf (throttleStep temps raise s)

end Sys2Proof.Machine
end

