-- ==== Sys2Proof/Machine/ThermalEvents.lean ====
section
/-! DEFINITION. Meanings of the thermal events: resistances (R537, R538), THERM_ALERT_N (R542), the trip (R543, R544),
thermal cycles and the health area of flash (R545, R546). -/

namespace Sys2Proof.Machine

open Sys2Proof

/-! ## Zone resistances (R537) -/

/-- A measurement in K/W: hottest junction and inlet in hundredths of a degree, power in W. -/
def measured (hot : Nat) (inlet : Int) (power : Nat) : Rat := (((hot : Int) - inlet : Int) : Rat) / 100 / power

/-- The accepted measurements, the newest first, at most 16. -/
def accept (ok : Bool) (r : Rat) (l : List Rat) : List Rat := if ok then (r :: l).take 16 else l

/-- RESISTANCE_MEASURE: a zone's measurement counts when its power is at least a quarter of its heat and steady; the
allowances and the cap follow. -/
def resistanceMeasure (compPower memPower hotC hotM : Nat) (steadyC steadyM : Bool) (s : State) : State :=
  if !herusUp s || s.boot.trip then s
  else
    let s1 := modThm (fun t => { t with
      rc := accept (decide (2150 ≤ compPower) && steadyC) (measured hotC t.tcmp compPower) t.rc
      rm := accept (decide (725 ≤ memPower) && steadyM) (measured hotM t.tmem memPower) t.rm }) s
    reportCap (setCaps s1)

/-! ## THERM_ALERT_N (R542) -/

/-- THERM_ALERT_CHANGE: asserted while a condition holds, deasserted when none has held for 1 s. -/
def alertChange (env : AlertEnv) (s : State) : State :=
  if !anchorUp s then s
  else
    let on := env.dieHot || env.stackHot || plateAlert s
    modThm (fun t => { t with alert := on || (t.alert && !env.heldOneSecond) }) s

/-! ## The trip (R543, R544) -/

/-- The record THT. -/
def tripRecord (die temp : Nat) (s : State) : FaultRec :=
  siteFields s die {
    code := 0x60, detail := BitVec.ofNat 16 temp, round := BitVec.ofNat 32 s.rnd.no.toNat, epoch := epochNow s
    stitch := stitchNow s }

/-- What a trip does in hardware: the header switches open, the stacks stop, and rounds stop. -/
def tripHardware (s : State) : State :=
  let s1 := allLinks.foldl (fun s e => if (linkOf s e.1 e.2).state = .disabled then s else modLink e.1 e.2 (fun l => { l with state := .down }) s)
    (fieldDown (cancelHold s))
  { s1 with
    pat := { staged := s1.pat.staged, committed := s1.pat.committed }
    rnd := { s1.rnd with active := false, parts := [] }
    pmem := { s1.pmem with data := [], poison := [], rebuild := none }
    boot := { s1.boot with trip := true, binding := none, cast := none, pstate := 7, phase := 12 } }

/-- THERMAL_TRIP: with a compute die or a stack the anchors stay up, and Herus writes the record and refuses what waits;
with a ring die or an anchor they stop, and the record stays in the trip latch. -/
def thermalTrip (die temp : Nat) (s : State) : State :=
  if s.boot.trip || s.boot.heldRst || s.boot.supplyLost then s
  else
    let r := tripRecord die temp s
    let s1 := modBoot (fun b => { b with tripRec := some r }) (tripHardware s)
    if die < 216 ∧ anchorUp s then finishLongs (fun _ => true) (fun _ _ => rspState) (healthWrite (logPush r s1))
    else modBoot (fun b => { b with dead := true }) s1

/-! ## Thermal cycles (R545, R546) -/

/-- One sample `t` of a die: cycles of 20 K or more, samples at 95 °C or above, and the highest temperature. -/
def cycleStep (t : Nat) (c : Cycles) : Cycles :=
  let c0 := { c with hot := if 95 ≤ t then c.hot + 1 else c.hot, most := max c.most t }
  if c.up then
    let hi := max c.hi t
    if t + 20 ≤ hi then { c0 with hi := hi, up := false, lo := t, half := c.half + 1 } else { c0 with hi := hi }
  else
    let lo := min c.lo t
    if lo + 20 ≤ t then { c0 with lo := lo, up := true, hi := t, half := c.half + 1 } else { c0 with lo := lo }

/-- The temperature sampled at a die: its sensors, or its zone's inlet without power. -/
def sampleTemp (temps : List (Nat × Nat)) (s : State) (d : Nat) : Nat :=
  if siteOn s d then ((temps.find? fun x => x.1 == d).map Prod.snd).getD (dieTemp s d)
  else ((if dieKind d = 1 then s.thm.tmem else s.thm.tcmp) / 100).toNat

/-- THERMAL_CYCLE_SAMPLE. -/
def cycleSample (temps : List (Nat × Nat)) (s : State) : State :=
  if !herusUp s then s
  else
    modThm (fun t => { t with
      cycles := (List.range numDies).foldl (fun c d => tabMod {} c d (cycleStep (sampleTemp temps s d))) t.cycles }) s

/-! ## Meanings -/

/-- RESISTANCE_MEASURE (R537, R538). -/
def execResistanceMeasure (compPower memPower hotC hotM : Nat) (steadyC steadyM : Bool) (s : State) : Ans :=
  done (Instr.resistanceMeasure compPower memPower hotC hotM steadyC steadyM).wf
    (resistanceMeasure compPower memPower hotC hotM steadyC steadyM s)

/-- THERM_ALERT_CHANGE (R542). -/
def execThermAlertChange (env : AlertEnv) (s : State) : Ans := done (Instr.thermAlertChange env).wf (alertChange env s)

/-- THERMAL_TRIP (R543, R544). -/
def execThermalTrip (die temp : Nat) (s : State) : Ans := done (Instr.thermalTrip die temp).wf (thermalTrip die temp s)

/-- THERMAL_CYCLE_SAMPLE (R545). -/
def execThermalCycleSample (temps : List (Nat × Nat)) (s : State) : Ans :=
  done (Instr.thermalCycleSample temps).wf (cycleSample temps s)

/-- HEALTH_FLASH_WRITE (R537, R546). -/
def execHealthFlashWrite (s : State) : Ans :=
  done Instr.healthFlashWrite.wf (if herusUp s then healthWrite s else s)

end Sys2Proof.Machine
end

