-- ==== Sys2Proof/Machine/HealthEvents.lean ====
section
/-! DEFINITION. Health scores and the retirement policy (R506 to R510). -/

namespace Sys2Proof.Machine

open Sys2Proof

/-! ## Windowed counters (R506, R507) -/

/-- Sum of 32-bit counters, modulo 2^32. -/
def sum32 (l : List W32) : Nat := (l.map BitVec.toNat).sum % 2 ^ 32

/-- The windowed counters of a die, by number: 0 margin-monitor warning intervals, 1 extension quanta, 2 freeze requests, 3
timebase warnings, 4 timebase faults (compute site) or TBM faults and sync path switches (ring or anchor die), 5
pattern faults, 6 to 9 the sectors and the milliseconds at double rate of a stack. -/
def dieCounts (s : State) (d : Nat) : List Nat :=
  let x := dieOf s d
  let n := niOf s d
  let k := stackOf s (dieCourse d) (dieCol d)
  match dieKind d with
  | 0 =>
    let cl := (List.range 4).map (cluOf s d)
    [sum32 (cl.map (·.warnIv)), sum32 (cl.map (·.extCaused)), sum32 (cl.map (·.freezeReqs)), x.warns.toNat,
      sum32 (counters x.tbCounts [0x10, 0x11, 0x13]), tabGet 0 s.hlt.pfCount d % 2 ^ 32]
  | 1 => [0, 0, 0, 0, 0, 0] ++ (counters k.cnt [4, 5, 6, 19]).map BitVec.toNat
  | _ => [0, 0, 0, x.warns.toNat, sum32 (counters n.cnt [12, 13])]

/-- The windowed counters of a course: over-current warnings and PWR_GOOD_Cn glitches. -/
def courseCounts (s : State) (c : Nat) : List Nat := (counters s.pwr.cnt [16 * c + 1, 16 * c + 3]).map BitVec.toNat

/-- The windowed counters of a link end: CRC failures, unprompted replays, LCK faults. -/
def endCounts (s : State) (d p : Nat) : List Nat :=
  let l := linkOf s d p
  let rx := rxDir l d p
  [sum32 (counters rx.cnt (List.range' 8 6)), (tabGet 0 (txDir l d p).cnt 17).toNat, (tabGet 0 rx.cnt 14).toNat]

/-- The key of a link end among the scores. -/
def endKey (e : Nat × Nat) : Nat := 512 + 8 * e.1 + e.2

/-- Every link end. -/
def allEnds : List (Nat × Nat) := (List.range numDies).flatMap endsOf

/-- The windowed counters of all parts, by 16 * part + number. -/
def scoreCounters (s : State) : Tab Nat :=
  let at' := fun (k : Nat) (l : List Nat) => (l.zipIdx.filter fun x => x.1 != 0).map fun x => (16 * k + x.2, x.1)
  (List.range numDies).flatMap (fun d => at' d (dieCounts s d)) ++
    (List.range 12).flatMap (fun c => at' (256 + c) (courseCounts s c)) ++
    allEnds.flatMap (fun e => at' (endKey e) (endCounts s e.1 e.2))

/-- A count over the last 60 whole minutes: between the newest snapshot and the one 60 minutes before it. -/
def lastHour (s : State) (part i : Nat) : Nat :=
  let now := tabGet 0 (s.hlt.snaps.headD []) (16 * part + i)
  let old := tabGet 0 (s.hlt.snaps.getD 60 []) (16 * part + i)
  (now + 2 ^ 32 - old) % 2 ^ 32

/-! ## Scores (R507) -/

/-- A penalty term. -/
def term (points per cap count : Nat) : Nat := min cap (points * (count / per))

/-- A term of a condition that holds now. -/
def termWhile (points : Nat) (b : Bool) : Nat := if b then points else 0

/-- The penalty of a link end. -/
def endPenalty (s : State) (d p : Nat) : Nat :=
  let l := linkOf s d p
  let k := endKey (d, p)
  term 1 64 32 (lastHour s k 0) + term 1 64 16 (lastHour s k 1) +
    term 8 1 32 ((tabGet 0 l.cnt 0).toNat + (tabGet 0 l.cnt 1).toNat) +
    termWhile 32 (decide (l.lanes0 + l.lanes1 < 128)) + termWhile 64 (l.state == .raw) + termWhile 128 l.sbfail +
    term 16 1 64 (lastHour s k 2)

/-- Whether a cluster's trim is at its voltage ceiling. -/
def atCeiling (s : State) (d k : Nat) : Bool :=
  decide (min 900 (cluOf s d k).vceil ≤ Config.railMv (d * 4 + k) (setPoint s d) + (cluOf s d k).trim)

/-- The penalty of a die. -/
def diePenalty (s : State) (d : Nat) : Nat :=
  match dieKind d with
  | 0 =>
    term 1 100000 32 (lastHour s d 0) + term 1 4096 32 (lastHour s d 1) + term 1 4096 16 (lastHour s d 2) +
      term 1 16 32 (lastHour s d 3) + term 16 1 96 (lastHour s d 4) + term 16 1 96 (lastHour s d 5) +
      termWhile 24 ((List.range 4).any (atCeiling s d)) +
      min 64 (((endsOf d).map fun e => endPenalty s e.1 e.2).sum / 2)
  | 1 =>
    term 1 4096 32 (lastHour s d 6) + term 1 16 48 (lastHour s d 7) + term 16 1 96 (lastHour s d 8) +
      term 1 60000 32 (lastHour s d 9)
  | _ => term 1 16 32 (lastHour s d 3) + term 8 1 64 (lastHour s d 4)

/-- The penalty of a course. -/
def coursePenalty (s : State) (c : Nat) : Nat := term 8 1 64 (lastHour s (256 + c) 0) + term 32 1 96 (lastHour s (256 + c) 1)

/-- The scores of all parts; a retired or unpowered part keeps its last one. -/
def scoreAll (s : State) : State :=
  let dies := ((List.range numDies).filter (siteOn s)).map fun d => (d, 255 - diePenalty s d)
  let courses := ((List.range 12).filter fun c => !courseLost s c).map fun c => (256 + c, 255 - coursePenalty s c)
  let ends := (allEnds.filter fun e => diePowered s e.1 && !s.grid.retired.contains e.1).map fun e =>
    (endKey e, 255 - endPenalty s e.1 e.2)
  { s with hlt := { s.hlt with
      scores := tabPuts 255 s.hlt.scores (dies ++ courses ++ ends), scoredAt := refNow s } }

/-! ## The retirement policy (R508, R509) -/

/-- Reference counts in 24 h. -/
def refDay : Nat := 86400 * 2000000000

/-- The compute sites in service. -/
def liveSites (s : State) : List Nat := (List.range 144).filter fun d => dieLive s d

/-- Count the consecutive scorings below SCOREMIN, and forget charged faults and denials older than 24 h. -/
def noteLow (s : State) : State :=
  let now := refNow s
  let h := s.hlt
  { s with hlt := { h with
      low := tabPuts 0 h.low ((liveSites s).map fun d => (d, if scoreOf s d < h.scoreMin then tabGet 0 h.low d + 1 else 0))
      charged := h.charged.filter fun x => decide ((now - x.2).toNat < refDay)
      denied := h.denied.filter fun x => decide ((now - x.2.2).toNat < refDay) } }

/-- The retirements that the policy wants, as site and cause: 5 REPEAT, 6 SCOREMIN, 7 impaired by an over-committed link
(R291, R505). -/
def wanted (s : State) : List (Nat × Nat) :=
  let h := s.hlt
  let rep := (liveSites s).filter fun d => decide (h.repeats ≤ (h.charged.filter fun x => x.1 == d).length)
  let low := (liveSites s).filter fun d => decide (60 ≤ tabGet 0 h.low d)
  let imp := if h.impaired = 0 then
      allLinks.filterMap fun e => if (linkOf s e.1 e.2).overc && s.pat.running.isSome then chargedSite s e.1 e.2 else none
    else []
  rep.map (fun d => (d, 5)) ++ low.map (fun d => (d, 6)) ++ (rising imp).map fun d => (d, 7)

/-- Carry one out as a planned repair, or deny it where the wale has no free spare: the record RDN once for each cause. -/
def wantOne (s : State) (x : Nat × Nat) : State :=
  if freeSpare s (x.1 % 12) then plan x.1 x.2 s
  else
    let seen := s.hlt.denied.any fun y => y.1 == x.1 && y.2.1 == x.2
    let s1 := { s with hlt := { s.hlt with
      denied := (s.hlt.denied.filter fun y => !(y.1 == x.1 && y.2.1 == x.2)) ++ [(x.1, x.2, refNow s)] } }
    if seen then s1 else addFault x.1 { code := 0x54, detail := BitVec.ofNat 16 x.2 } s1

/-- HEALTH_SCORING: `minute` is the number of whole minutes since cast-on; at a new one the counters are noted.  While scoring
is suspended (R419) the scores are held. -/
def healthScoring (minute : Nat) (s : State) : State :=
  if !repairsRun s || !herusUp s then s
  else
    let h := s.hlt
    let s1 := if h.minute < minute then
        { s with hlt := { h with
            minute := minute, snaps := (List.replicate (min 61 (minute - h.minute)) (scoreCounters s) ++ h.snaps).take 61 } }
      else s
    if h.stale then s1
    else
      let s2 := noteLow (scoreAll s1)
      duties ((wanted s2).foldl wantOne s2)

/-- HEALTH_SCORING (R506, R508, R509). -/
def execHealthScoring (minute : Nat) (s : State) : Ans := done (Instr.healthScoring minute).wf (healthScoring minute s)

end Sys2Proof.Machine
end

