-- ==== Sys2Proof/Machine/Management.lean ====
section
/-! DEFINITION. Meanings of the SMBus messages (R592 to R594) and of the JTAG instructions (R597). -/

namespace Sys2Proof.Machine

open Sys2Proof

/-! ## MCTP (R592) -/

/-- An MCTP control response: message type, a header byte, command code, completion code and data.  The layout is that of
the MCTP standard, which the manual does not repeat (log entry 28). -/
def ctlReply (cmd code : Nat) (data : List Byte) (s : State) : State :=
  emit (.mctp (natLe 1 0 ++ natLe 1 0 ++ natLe 1 cmd ++ natLe 1 code ++ data)) s

/-- SET_ENDPOINT_ID: identifiers 0x00 and 0xFF name no endpoint. -/
def setEid (eid : Byte) (s : State) : State :=
  if !anchorUp s then s
  else if eid = 0 ∨ eid = 0xFF then ctlReply 1 2 [] s
  else ctlReply 1 0 [0, eid, 0] { s with pins := { s.pins with eid := some eid } }

/-- GET_ENDPOINT_ID: 0 until one is assigned. -/
def getEid (s : State) : State := if anchorUp s then ctlReply 2 0 [s.pins.eid.getD 0, 0, 0] s else s

/-- GET_MCTP_VERSION_SUPPORT: one version entry, whose value the manual does not state (log entry 28). -/
def getVersions (s : State) : State :=
  if anchorUp s then
    { ctlReply 4 0 (1 :: (List.range 4).map fun i => Config.freeByte (s.free + i)) s with free := s.free + 4 }
  else s

/-- GET_MESSAGE_TYPE_SUPPORT: MCTP control and vendor defined. -/
def getTypes (s : State) : State := if anchorUp s then ctlReply 5 0 [2, 0x00, 0x7E] s else s

/-! ## Vendor-defined messages (R593) -/

/-- A vendor-defined response: the PCI vendor identifier, command, status and data. -/
def vendorReply (cmd status : Nat) (data : List Byte) (s : State) : State :=
  emit (.mctp (natLe 1 0x7E ++ [0x1F, 0x3B] ++ natLe 1 cmd ++ natLe 1 status ++ data)) s

/-- Registers of the panel-status block as bytes. -/
def mirror (s : State) (offs : List Nat) : List Byte := offs.flatMap fun o => natLe 4 (panelWord s (0x100000 + o)).toNat

/-- A readout of the register mirror: answered once an endpoint identifier is assigned; all but GET_STATE are BUSY until
CO0 ends. -/
def readout (cmd : Nat) (offs : List Nat) (s : State) : State :=
  if !anchorUp s || s.pins.eid.isNone then s
  else if cmd ≠ 1 ∧ !herusUp s then vendorReply cmd rsBusy [] s
  else vendorReply cmd rsOk (mirror s offs) s

/-- COOLANT: Herus takes it up as a P1 request of an additional mailbox (R594), with the checks of COOLANT_REPORT and the
same effect; BUSY until CO7 ends.  That mailbox follows PF1's in the order of its class, so PF0's turn comes next, as after PF1. -/
def coolantMsg (tmem tcmp : W16) (s : State) : State :=
  if !anchorUp s || s.pins.eid.isNone then s
  else
    match checkReq { fn := 64, tag := 0 } 0x42 (natLe 2 tmem.toNat ++ natLe 2 tcmp.toNat) s with
    | some r => vendorReply 0x10 r.status [] s
    | none =>
      let s1 := coolantReport tmem tcmp { s with served := tabPut 64 s.served 1 64 }
      vendorReply 0x10 rsOk (intLe 2 (clampInlet tmem) ++ intLe 2 (clampInlet tcmp) ++ natLe 4 s1.thm.cap) s1

/-! ## JTAG (R597) -/

/-- Whether the port reads as BYPASS only: ANC-N is out after a takeover. -/
def bypassOnly (s : State) : Bool := s.grid.anchorS || s.boot.ancNOut

/-- Change the pins. -/
def modPins (g : Pins → Pins) (s : State) : State := { s with pins := g s.pins }

/-- BYPASS: selecting it captures 0; the bit held leaves and the next one enters. -/
def jtagBypassShift (tdi : Bool) (s : State) : State :=
  if s.boot.supplyLost then s
  else
    emit (.jtag [s.pins.jtagIr == 0 && s.pins.jtagBypass])
      (modPins (fun p => { p with jtagIr := 0, jtagBypass := tdi, driven := none }) s)

/-- SAMPLE/PRELOAD: the boundary register takes the levels given. -/
def jtagSample (l : List Bool) (s : State) : State :=
  if bypassOnly s then jtagBypassShift false s
  else if s.boot.supplyLost then s
  else emit (.jtag l) (modPins (fun p => { p with jtagIr := 1, boundary := l, driven := none }) s)

/-- EXTEST: the pins are driven only while PANEL_RST_N is asserted; else it acts as BYPASS. -/
def jtagExtest (l : List Bool) (s : State) : State :=
  if bypassOnly s || !s.boot.heldRst then jtagBypassShift false s
  else if s.boot.supplyLost then s
  else emit (.jtag l) (modPins (fun p => { p with jtagIr := 2, boundary := l, driven := some l }) s)

/-! ## Meanings -/

/-- SET_ENDPOINT_ID (R592). -/
def execSetEndpointId (eid : Byte) (s : State) : Ans := done (Instr.setEndpointId eid).wf (setEid eid s)

/-- GET_ENDPOINT_ID (R592). -/
def execGetEndpointId (s : State) : Ans := done Instr.getEndpointId.wf (getEid s)

/-- GET_MCTP_VERSION_SUPPORT (R592). -/
def execGetMctpVersionSupport (s : State) : Ans := done Instr.getMctpVersionSupport.wf (getVersions s)

/-- GET_MESSAGE_TYPE_SUPPORT (R592). -/
def execGetMessageTypeSupport (s : State) : Ans := done Instr.getMessageTypeSupport.wf (getTypes s)

/-- GET_STATE (R593): PS_STATE, BOOT_STATUS, BOOT_ATTEMPTS, BOOT_FAIL. -/
def execGetState (s : State) : Ans := done Instr.getState.wf (readout 1 [0x00, 0x04, 0x08, 0x0C] s)

/-- GET_POWER (R593): PS_POWER, PS_THERMAL. -/
def execGetPower (s : State) : Ans := done Instr.getPower.wf (readout 2 [0x30, 0x34] s)

/-- GET_TIME (R593): PS_TIME. -/
def execGetTime (s : State) : Ans := done Instr.getTime.wf (readout 3 [0x10, 0x14] s)

/-- GET_FAULT (R593): PS_FAULT_NEXT, PS_FAULT_LAST. -/
def execGetFault (s : State) : Ans := done Instr.getFault.wf (readout 4 [0x28, 0x2C] s)

/-- COOLANT (R593, R594). -/
def execCoolant (tmem tcmp : W16) (s : State) : Ans := done (Instr.coolant tmem tcmp).wf (coolantMsg tmem tcmp s)

/-- BYPASS (R597). -/
def execBypass (tdi : Bool) (s : State) : Ans := done (Instr.bypass tdi).wf (jtagBypassShift tdi s)

/-- SAMPLE_PRELOAD (R597). -/
def execSamplePreload (pins : List Bool) (s : State) : Ans := done (Instr.samplePreload pins).wf (jtagSample pins s)

/-- EXTEST (R597). -/
def execExtest (pins : List Bool) (s : State) : Ans := done (Instr.extest pins).wf (jtagExtest pins s)

end Sys2Proof.Machine
end

