-- ==== Sys2Proof/Machine/RoundEvents.lean ====
section
/-! DEFINITION. Meanings of the events that fire knots, abort rounds or can stop the pattern (R177, R186,
R200, R224, R266, R351), and of the events of park memory (R367 to R370, R404). -/

namespace Sys2Proof.Machine

open Sys2Proof

/-! ## Knots (R155, R186, R187, R196) -/

/-- Whether every live die of a logical site has arrived at the lodestar. -/
def allArrived (s : State) : Bool := (siteDies s).all fun d => s.lode.arrivals.contains d || !dieLive s d

/-- Whether the lodestar is in a stitch at which an arrival is in time: one before F + LIMIT (R200). -/
def inLimit (s : State) : Bool := decide ((stitchNow s - s.pat.first).toNat < knotLimit (runImg s) s.pat.sect)

/-- ARRIVE: the arrival of a die that has arrived at the knot of the section in progress, sent at a stitch start after that (R186); one that
comes too late is none (R200). -/
def arriveAt (die : Nat) (kidx : BitVec 12) (s : State) : State :=
  let x := dieOf s die
  if s.pat.running.isSome && s.pat.inSect && kidx.toNat == s.pat.sect && x.arrived == some kidx && x.count != x.arrivedIn &&
      inLimit s then
    { s with lode := { s.lode with
        arrivals := setIns die s.lode.arrivals
        arrivedAt := if s.lode.arrivals.contains die then s.lode.arrivedAt else stitchNow s } }
  else s

/-- The stitch in which the knot of the section in progress fires once every live die has arrived (R186): that of the last arrival, but in
a set section not before F + LEN (R197; DEDUCED, log entry 137). -/
def fireStitch (s : State) : BitVec 48 :=
  let end_ := s.pat.first + BitVec.ofNat 48 (bitsOf (imgSection (runImg s) s.pat.sect) 91 72)
  if imgIsSet (runImg s) s.pat.sect && (stitchAhead end_ s.lode.arrivedAt).isSome then end_ else s.lode.arrivedAt

/-- A knot within a round fires at K: the next section follows at K + OFFSET. -/
def innerKnot (k : BitVec 48) (s : State) : State :=
  let n := k + BitVec.ofNat 48 (knotOffset (runImg s) s.pat.sect)
  modeCommit n { s with
    lode := { s.lode with arrivals := [] }
    dies := tabMap {} (fun x => { x with arrived := none }) s.dies
    pat := { s.pat with sect := s.pat.sect + 1, first := n, inSect := false } }

/-- FIRE: the knot of the section in progress fires in its stitch once every live die has arrived; the round-ending one
commits the round and begins the next (R43, R186, R196). -/
def fireKnot (k : BitVec 48) (kidx : BitVec 12) (env : BoundaryEnv) (s : State) : State :=
  if s.pat.running.isSome && s.pat.inSect && s.rnd.active && kidx.toNat == s.pat.sect && allArrived s &&
      k == fireStitch s && k == stitchNow s then
    (if lastKnot s kidx.toNat then
      endRound k env { s with lode := { s.lode with arrivals := [] }, dies := tabMap {} (fun x => { x with arrived := none }) s.dies }
     else innerKnot k s)
  else s

/-- The stream cores of a cluster go on into a section (R120). -/
def coreEnter (c : Core) : Core := { c with knot := none, last := none, next := none, loops := [] }

/-- The first budgeted cycle of a section whose first stitch is `first`, in a cluster whose die is in stitch `count` (R120). -/
def enterCycle (b : Nat) (first count : BitVec 48) (base : Nat) : Nat :=
  match stitchAhead first count with
  | some n => base + b * n
  | none => base - b * (count - first).toNat

/-- A cluster goes on into a section. -/
def cluEnter (b : Nat) (first count : BitVec 48) (c : Cluster) : Cluster :=
  { cluMapCores coreEnter c with pausedSet := false, enter := enterCycle b first count c.base }

/-- Whether the pending swap is a change of mode that is due at a stitch. -/
def modeDue (t : BitVec 48) (s : State) : Bool :=
  match s.swp with
  | some w => w.sent && w.target == some t && (match w.kind with | .mode _ => true | _ => false)
  | none => false

/-- SECTION_START: the first stitch of the section that a knot named has come; the cores go on, and what the
knot gated takes effect (R187). -/
def startSection (s : State) : State :=
  if s.pat.running.isSome && s.rnd.active && !s.pat.inSect && stitchNow s == s.pat.first then
    let s1 := (siteDies s).foldl (fun s d => (List.range 4).foldl (fun s k =>
      modClu d k (cluEnter (budget s) s.pat.first (dieOf s d).count) s) s)
      { s with pat := { s.pat with inSect := true } }
    leanNow 0 (if modeDue s.pat.first s1 then swapAtTarget s1 else s1)
  else s

/-! ## Faults and aborts (R200, R224, R225, R229, R266) -/

/-- The first stream core of a die that is not at its knot, as cluster, core and next micro-op. -/
def lateCore (s : State) (d : Nat) : Option (Nat × Nat × Nat) :=
  (List.range 32).findSome? fun j =>
    let c := cluCore (cluOf s d (j / 8)) (j % 8)
    if c.knot.isSome then none else some (j / 8, j % 8, c.uop)

/-- The record KTO of a die that has not arrived. -/
def ktoRec (s : State) (d : Nat) : FaultRec :=
  let c := (lateCore s d).getD (0, 0, 0)
  { code := 0x04, detail := BitVec.ofNat 16 ((unmetCond s d s.pat.sect).getD 2), addr := BitVec.ofNat 32 s.pat.sect
    sect := BitVec.ofNat 12 s.pat.sect, clu := BitVec.ofNat 2 c.1, sc := BitVec.ofNat 3 c.2.1
    uop := BitVec.ofNat 13 c.2.2 }

/-- KNOT_TIMEOUT: stitch F + LIMIT has come and some live die has not arrived (R200). -/
def knotTimeout (s : State) : State :=
  let late := (siteDies s).filter fun d => dieLive s d && !s.lode.arrivals.contains d
  if s.pat.running.isSome && s.pat.inSect && s.rnd.active && !late.isEmpty &&
      (stitchNow s - s.pat.first).toNat == knotLimit (runImg s) s.pat.sect then
    abortPatternFault (late.foldl (fun s d => addPatFault d (ktoRec s d) s) s)
  else s

/-- FAULT: a die reports a fault on the sync chain: pattern faults abort under R225, timebase faults under
R163. -/
def faultFrame (code : Byte) (s : State) : State :=
  if code.toNat ≤ 6 then abortPatternFault s else abortRound 2 s

/-- ABORT: the round is aborted with a sync cause (R266); the sessions whose state was found poisoned fail
first (R363). -/
def abortFrame (cause : BitVec 12) (bad : List Nat) (s : State) : State :=
  let live := bad.filter fun i => (sessOf s i).state != .free
  let s1 := raiseOwners (live.map fun i => (sessOf s i).tenant) (live.foldl (fun s i => failSession i s) s)
  match cause.toNat with
  | 1 => abortPatternFault s1
  | 4 => stopPattern s1
  | n => abortRound n s1

/-! ## Waiting for pages, and park memory -/

/-- PAGE_WAIT_TIMEOUT: a request that has waited for pages for 1 s completes with NOSPACE (R352). -/
def pageTimeout (t : Nat) (usertag : W64) (s : State) : State :=
  match s.rnd.reqs.find? fun r => r.tenant == t && r.d.usertag == usertag && r.waitPages with
  | some r => flushCq (finishReq r stNoSpace 0 s)
  | none => s

/-- PARK_COPY_DONE: every write of a copy is acknowledged; its move commits at the next boundary, or at
once while no round runs (R367, R368). -/
def copyDone (i : Nat) (s : State) : State :=
  match jobOf s i false with
  | none => s
  | some (p, _) =>
    let s1 := modPort p (fun q => { q with
      jobs := q.jobs.map fun x => if x.index = i ∧ !x.unpark then { x with done := true } else x }) s
    if s1.rnd.active then s1 else commitMoves s1

/-! ## Meanings -/

/-- ARRIVE (R186). -/
def execArrive (die : Nat) (kidx : BitVec 12) (s : State) : Ans :=
  done (Instr.arrive die kidx).wf (arriveAt die kidx s)

/-- FIRE (R186). -/
def execFire (k : BitVec 48) (kidx : BitVec 12) (env : BoundaryEnv) (s : State) : Ans :=
  done (Instr.fire k kidx env).wf (duties (fireKnot k kidx env s))

/-- SECTION_START (R187, R196). -/
def execSectionStart (s : State) : Ans := done Instr.sectionStart.wf (startSection s)

/-- KNOT_TIMEOUT (R200). -/
def execKnotTimeout (s : State) : Ans := done Instr.knotTimeout.wf (duties (knotTimeout s))

/-- FAULT (R224, R163). -/
def execFault (die : Nat) (code : Byte) (s : State) : Ans :=
  done (Instr.fault die code).wf (duties (faultFrame code s))

/-- ABORT (R266). -/
def execAbort (cause : BitVec 12) (failed : List Nat) (s : State) : Ans :=
  done (Instr.abort cause failed).wf (duties (abortFrame cause failed s))

/-- IDLE_SNAPSHOT (R351). -/
def execIdleSnapshot (s : State) : Ans := done Instr.idleSnapshot.wf (if roundsUp s then duties (idleSnapshot s) else s)

/-- PAGE_WAIT_TIMEOUT (R352). -/
def execPageWaitTimeout (tenant : Nat) (usertag : W64) (s : State) : Ans :=
  done (Instr.pageWaitTimeout tenant usertag).wf (pageTimeout tenant usertag s)

/-- TBS (R177). -/
def execTbs (s : State) : Ans := done Instr.tbs.wf (duties (tbsFault s))

/-- PARK_COPY_DONE (R367). -/
def execParkCopyDone (index : Nat) (s : State) : Ans :=
  done (Instr.parkCopyDone index).wf (duties (copyDone index s))

/-- UNPARK_DONE (R369). -/
def execUnparkDone (index : Nat) (s : State) : Ans :=
  done (Instr.unparkDone index).wf (duties (unparkDone index s))

/-- PARK_TRANSFER_FAIL (R370, R405). -/
def execParkTransferFail (index : Nat) (poison : Bool) (s : State) : Ans :=
  done (Instr.parkTransferFail index poison).wf (duties (flushCq (transferFail index poison s)))

/-- PARK_PORT_DOWN (R404, R405). -/
def execParkPortDown (port : Nat) (s : State) : Ans :=
  done (Instr.parkPortDown port).wf (duties (portDown port s))

/-- FREE_FLIT_ROUTE (R252 to R258). -/
def execFreeFlitRoute (die slot : Nat) (s : State) : Ans :=
  done (Instr.freeFlitRoute die slot).wf (duties (freeRoute stackServe die slot s))

/-- RETRANSMIT_TIMEOUT (R254). -/
def execRetransmitTimeout (die : Nat) (msg : BitVec 12) (off : BitVec 17) (s : State) : Ans :=
  done (Instr.retransmitTimeout die msg off).wf (duties (retransmit die msg off s))

/-- RAW_FLIT_RECEIVE (R288, R289). -/
def execRawFlitReceive (die port : Nat) (payload : List Byte) (header tail : BitVec 128) (s : State) : Ans :=
  done (Instr.rawFlitReceive die port payload header tail).wf (duties (rawReceive die port (rawFlit payload header tail) s))

/-- LINK_FAULT (R286, R287, R291). -/
def execLinkFault (die port : Nat) (env : LadderEnv) (rep : RepairEnv) (s : State) : Ans :=
  done (Instr.linkFault die port env rep).wf (duties (linkFault die port env rep s))

/-- RETRAIN_REQUEST (R292, R293). -/
def execRetrainRequest (die port : Nat) (kind : SideReq) (met : RequestMet) (s : State) : Ans :=
  done (Instr.retrainRequest die port kind met).wf (duties (retrainRequest die port kind met.own met.env met.rep s))

/-- MEM_READ (R307, R313, R317). -/
def execMemRead (paddr : BitVec 34) (rank : W16) (cls : BitVec 4) (read : ReadIn) (s : State) : Ans :=
  done (Instr.memRead paddr rank cls read).wf (duties (memReadOp paddr rank cls read.tag read.found s))

/-- DM_TRANSFER_COMPLETE (R150). -/
def execDmTransferComplete (rank clu sc idx : Nat) (s : State) : Ans :=
  done (Instr.dmTransferComplete rank clu sc idx).wf (duties (dmComplete rank clu sc idx s))

/-- STACK_OUT (R315, R316, R320). -/
def execStackOut (course col : Nat) (cause : StackCause) (env : RepairEnv) (s : State) : Ans :=
  done (Instr.stackOut course col cause env).wf (duties (stackOut course col cause env s))

/-- REFRESH_RATE_CHANGE (R324, R315). -/
def execRefreshRateChange (course col temp : Nat) (s : State) : Ans :=
  done (Instr.refreshRateChange course col temp).wf (duties (refreshChange course col temp s))

end Sys2Proof.Machine
end

