-- ==== Sys2Proof/Machine/TimeEvents.lean ====
section
/-! DEFINITION. Meanings of the timebase events (R158 to R177, R265) and of the events of swaps and timers
(R189, R190). -/

namespace Sys2Proof.Machine

open Sys2Proof

/-! ## Stitches and tick hold -/

/-- Stopped clusters that nothing holds go on, and count the cycles from their own stop to the resume (R122, R173, R195). -/
def thawAll (s : State) : State :=
  (List.range 144).foldl (fun s d => (List.range 4).foldl (fun s k =>
    if (cluOf s d k).pausedSet then modClu d k (cluResume s d (dieOf s d).ref.toNat) s else s) s) s

/-- STITCH_START (R158, R176), and a lean entry that is due at it (R181). -/
def execStitchStart (die : Nat) (s : State) : Ans :=
  done (Instr.stitchStart die).wf (if s.lode.frozen then s else leanPoint die (stitchStart die s))

/-- HOLD_LINE (R170, R195). -/
def execHoldLine (die : Nat) (left : List (Nat × Nat)) (s : State) : Ans :=
  done (Instr.holdLine die left).wf (holdLine die left s)

/-- MARK (R161 to R163). -/
def execMark (die : Nat) (count : BitVec 48) (phaseErr : Int) (s : State) : Ans :=
  done (Instr.mark die count phaseErr).wf (mark die count phaseErr s)

/-- SYNC_FRAME_RECEIVE (R265). -/
def execSyncFrameReceive (die : Nat) (frame : BitVec 80) (s : State) : Ans :=
  done (Instr.syncFrameReceive die frame).wf (syncFrame die frame s)

/-- TBU (R169). -/
def execTbu (rank clu : Nat) (s : State) : Ans := done (Instr.tbu rank clu).wf (tbuFault rank clu s)

/-- EXTEND (R170): the extension by one quantum. -/
def execExtend (quantum : BitVec 12) (s : State) : Ans := done (Instr.extend quantum).wf (extend s)

/-- REPORT (R170). -/
def execReport (die : Nat) (s : State) : Ans := done (Instr.report die).wf (report die s)

/-- FREQ (R172, R174). -/
def execFreq (die : Nat) (s : State) : Ans := done (Instr.freq die).wf (freq die s)

/-- FREEZE (R172). -/
def execFreeze (point : BitVec 48) (s : State) : Ans := done (Instr.freeze point).wf (freeze point s)

/-- FREEZE_POINT (R172). -/
def execFreezePoint (s : State) : Ans := done Instr.freezePoint.wf (freezePoint s)

/-- RELEASE (R173). -/
def execRelease (die : Nat) (s : State) : Ans := done (Instr.release die).wf (release die s)

/-- RESUME (R173). -/
def execResume (point : BitVec 48) (s : State) : Ans := done (Instr.resume point).wf (resume point s)

/-- RESUME_POINT (R173): time goes on, and so do the paused clusters that nothing holds. -/
def execResumePoint (s : State) : Ans :=
  done Instr.resumePoint.wf (thawAll (resumePoint s))

/-! ## Swaps and timers -/

/-- A change of a tenant's window that waits for no round boundary: no pattern runs (R222, R443). -/
def windowNow (s : State) : State := if s.pat.running.isNone then windowSwap s else s

/-- NACK (R190). -/
def execNack (die : Nat) (s : State) : Ans := done (Instr.nack die).wf (nack die s)

/-- SWAP (R190). -/
def execSwap (target : BitVec 48) (s : State) : Ans := done (Instr.swap target).wf (swapFrame target s)

/-- WITHHOLD (R190). -/
def execWithhold (target : BitVec 48) (s : State) : Ans :=
  done (Instr.withhold target).wf (withhold target s)

/-- ARM_ANSWER (R190). -/
def execArmAnswer (die : Nat) (ready : Bool) (s : State) : Ans :=
  done (Instr.armAnswer die ready).wf (windowNow (armAnswer die ready s))

/-- ARM_TIMEOUT (R190, R193). -/
def execArmTimeout (s : State) : Ans := done Instr.armTimeout.wf (armTimeout s)

/-- SWAP_AT_TARGET (R190, R192). -/
def execSwapAtTarget (s : State) : Ans := done Instr.swapAtTarget.wf (swapAtTarget s)

/-- TIMER_FIRE (R189). -/
def execTimerFire (fn timer : Nat) (s : State) : Ans :=
  done (Instr.timerFire fn timer).wf (timerFire fn timer false s)

end Sys2Proof.Machine
end

