-- ==== Sys2Proof/Machine/Control.lean ====
section
/-! DEFINITION. The control micro-ops on one cluster (R124 to R128). -/

namespace Sys2Proof.Machine

open Sys2Proof

/-- Operand B of a control micro-op: I[SRCB] + IMM, modulo 2^32 (R125). -/
def ctlB (k : Core) (f : CtlF) : W32 := coreIdx k f.srcb.toNat + f.imm

/-- The word address WADDR + I[IXA] (R125). -/
def ctlWord (k : Core) (f : CtlF) : Nat := ixAdd f.waddr.toNat (coreIdx k f.ixa.toNat)

/-- The ALU operations (R125). -/
def aluOp (op : Nat) (a b : W32) : W32 :=
  match op with
  | 0 => a + b
  | 1 => a - b
  | 2 => a * b
  | 3 => a <<< (b.toNat % 32)
  | 4 => a >>> (b.toNat % 32)
  | 5 => a &&& b
  | 6 => a ||| b
  | 7 => a ^^^ b
  | 8 => if a.toNat ≤ b.toNat then a else b
  | _ => if a.toNat ≤ b.toNat then b else a

/-- The comparisons of MASK (R125). -/
def maskCmp (op : Nat) (a b : W32) : Bool :=
  match op with
  | 0 => a == b
  | 1 => a != b
  | 2 => decide (a.toNat < b.toNat)
  | 3 => decide (b.toNat ≤ a.toNat)
  | 4 => decide (a.toInt < b.toInt)
  | _ => decide (b.toInt ≤ a.toInt)

/-- NOP: no action. -/
def opNop (_x : Ctx) (_f : CtlF) (c : Cluster) : Cluster × List Pf := (c, [])

/-- SETI. -/
def opSeti (x : Ctx) (f : CtlF) (c : Cluster) : Cluster × List Pf :=
  (cluPend c [{ cycle := x.now + 1, eff := .idx x.sc f.dst.toNat f.imm }], [])

/-- ALU. -/
def opAlu (x : Ctx) (f : CtlF) (c : Cluster) : Cluster × List Pf :=
  let k := cluCore c x.sc
  let v := aluOp f.subop.toNat (coreIdx k f.srca.toNat) (ctlB k f)
  (cluPend c [{ cycle := x.now + 1, eff := .idx x.sc f.dst.toNat v }], [])

/-- LDW. -/
def opLdw (x : Ctx) (f : CtlF) (c : Cluster) : Cluster × List Pf :=
  let k := cluCore c x.sc
  let wa := ctlWord k f
  if !bytesOk k false (wa * 4) 4 then (c, [pfAdr 0 wa])
  else
    match claimAll x.sc ((granulesOf (wa * 4) 4).map fun g => (x.now, g)) c.claims with
    | .inr pf => (c, [pf])
    | .inl cl =>
      (cluPend { c with claims := cl }
        [{ cycle := x.now + 4, eff := .idx x.sc f.dst.toNat (memWord c.mem (wa * 4)) }], [])

/-- STW: the granule is written at issue + 2 and can be read from issue + 3. -/
def opStw (x : Ctx) (f : CtlF) (c : Cluster) : Cluster × List Pf :=
  let k := cluCore c x.sc
  let wa := ctlWord k f
  if !bytesOk k true (wa * 4) 4 then (c, [pfAdr 0 wa])
  else
    match claimAll x.sc ((granulesOf (wa * 4) 4).map fun g => (x.now + 2, g)) c.claims with
    | .inr pf => (c, [pf])
    | .inl cl =>
      (cluPend { c with claims := cl }
        [{ cycle := x.now + 3,
           eff := .mem (cellsAt (wa * 4) (natLe 4 (coreIdx k f.srca.toNat).toNat)) }], [])

/-- MASK: an MMA or MDR that samples in the cycle the result becomes readable does not see it (R127),
so the effect shows one cycle later. -/
def opMask (x : Ctx) (f : CtlF) (c : Cluster) : Cluster × List Pf :=
  let k := cluCore c x.sc
  let wa := ctlWord k f
  if !bytesOk k false (wa * 4) 1024 then (c, [pfAdr 0 wa])
  else
    match claimAll x.sc ((granulesOf (wa * 4) 1024).map fun g => (x.now, g)) c.claims with
    | .inr pf => (c, [pf])
    | .inl cl =>
      let b := ctlB k f
      let bits := (List.range 256).map fun i =>
        maskCmp f.subop.toNat (memWord c.mem (wa * 4 + 4 * i)) b
      (cluPend { c with claims := cl }
        [{ cycle := x.now + 7, eff := .mask x.sc f.dst.toNat (BitVec.ofNat 256 (bitsNat bits)) }], [])

/-- LOOP (R126), applied after the core's position has moved past it.  The stack has four levels (R117); a fifth, which staging lets
no image reach, pushes the outermost out (DESIGN CHOICE, log entry 129). -/
def opLoop (x : Ctx) (f : CtlF) (c : Cluster) : Cluster × List Pf :=
  let k := cluCore c x.sc
  let n := if f.srca = 0 then f.imm else coreIdx k f.srca.toNat
  let skip := advance (k.uop - 1 + f.body.toNat) k.loops
  let skipped := cluSetCore c x.sc { k with uop := skip.1, loops := skip.2 }
  if f.srca ≠ 0 ∧ f.imm.toNat < n.toNat then (skipped, [pfAdr 2 n.toNat])
  else if n = 0 then (skipped, [])
  else
    (cluSetCore c x.sc { k with
      loops := ({ first := k.uop, len := f.body.toNat, left := n.toNat - 1 } :: k.loops).take 4 }, [])

/-- SYW (R122, R128): consume the counter, or pause; in a set section the whole cluster stops and sends
a freeze request (R172). -/
def opSyw (x : Ctx) (f : CtlF) (c : Cluster) : Cluster × List Pf :=
  let k := cluCore c x.sc
  let r := f.srca.toNat
  if f.imm.toNat ≤ (coreCt k r).toNat then
    (cluSetCore c x.sc (coreSetCt k r (coreCt k r - f.imm)), [])
  else
    let c1 := cluSetCore c x.sc { k with paused := some (r, f.imm) }
    (if x.setSec then cluPause x.ref c1 else c1, [])

end Sys2Proof.Machine
end

