-- ==== Sys2Proof/Machine/Matrix.lean ====
section
/-! DEFINITION. The matrix micro-ops MTL, MMA and MDR on one cluster (R98 to R114).  Each gives the
cluster after issue and the pattern faults it raises. -/

namespace Sys2Proof.Machine

open Sys2Proof

/-- The weight format of a WFMT code (R99). -/
def wfmtOf (c : Nat) : ElemFmt :=
  match c with
  | 0 => .e2m1 | 1 => .e2m3 | 2 => .e3m2 | 3 => .e4m3 | 4 => .e5m2 | 5 => .mxint8 | _ => .t5

/-- The activation format of an AFMT code (R102). -/
def afmtOf (c : Nat) : ElemFmt :=
  match c with
  | 0 => .e4m3 | 1 => .e5m2 | _ => .mxint8

/-- Cycles between activation rows (R95). -/
def rowRate (wf : ElemFmt) : Nat :=
  match wf with
  | .e2m1 => 1 | .t5 => 1 | _ => 2

/-- Element bytes of a tile (R86, R87). -/
def tileBytes (wf : ElemFmt) (ncol kblk : Nat) : Nat :=
  match wf with
  | .t5 => t5Bytes (ncol * kblk * 32)
  | _ => ncol * kblk * 4 * elemW wf

/-- Scale bytes of a tile outside its element array. -/
def tileScaleBytes (wf : ElemFmt) (ncol kblk : Nat) : Nat :=
  match wf with
  | .t5 => 0
  | _ => ncol * kblk

/-- OVR with the budgeted cycles outstanding, when an occupancy passes the end of the budget without a
tick hold (R113). -/
def ovrCheck (x : Ctx) (fin : Nat) : List Pf :=
  if x.hold || decide (fin ≤ x.limit) then []
  else [{ code := 0x02, detail := BitVec.ofNat 16 (fin - x.limit) }]

/-- Whether work of cycle `t` is still done: work past the end of the budget is cut off (R176). -/
def inBudget (x : Ctx) (t : Nat) : Bool := x.hold || decide (t < x.limit)

/-- One group of 512 bytes of a tile's array: cycle, byte offset, byte count. -/
def tileGroups (start total : Nat) : List (Nat × Nat × Nat) :=
  (List.range (ceilDiv total 512)).map fun j => (start + j, j * 512, min 512 (total - j * 512))

/-- MTL (R99, R100): replace the content of a tile buffer.  Of the weight-port cycles of R100 the first four access no memory, the next
read the element array and the last the scale array (DEDUCED, log entry 127). -/
def opMtl (x : Ctx) (f : MtlF) (c : Cluster) : Cluster × List Pf :=
  let k := cluCore c x.sc
  let wf := wfmtOf f.wfmt.toNat
  let ncol := f.ncolm1.toNat + 1
  let kblk := f.kblk.toNat
  let ea := ixAdd f.eaddr.toNat (coreIdx k 15)
  let sa := ixAdd f.saddr.toNat (coreIdx k 15)
  let eb := tileBytes wf ncol kblk
  let sb := tileScaleBytes wf ncol kblk
  if !bytesOk k false (ea * 64) eb then (c, [pfAdr 0 ea])
  else if !bytesOk k false (sa * 64) sb then (c, [pfAdr 0 sa])
  else
    let m := c.mx
    let b := if f.buf then m.buf1 else m.buf0
    let start := max x.now (max m.wFree b.used)
    let ge := tileGroups (start + 4) eb
    let gs := tileGroups (start + 4 + ceilDiv eb 512) sb
    let fin := start + 4 + ceilDiv eb 512 + ceilDiv sb 512
    let acc := (ge.flatMap fun g => (granulesOf (ea * 64 + g.2.1) g.2.2).map fun n => (g.1, n)) ++
      gs.flatMap fun g => (granulesOf (sa * 64 + g.2.1) g.2.2).map fun n => (g.1, n)
    match claimAll 8 acc c.claims with
    | .inr pf => (c, [pf])
    | .inl cl =>
      let done := x.hold || decide (fin ≤ x.limit)
      let b' : TileBuf := { b with
        ncol := if done then ncol else 0, kblk := kblk, wfmt := wf, ready := fin }
      let m' := { m with
        wFree := fin
        waitCount := m.waitCount + BitVec.ofNat 32 (start - x.now)
        buf0 := if f.buf then m.buf0 else b'
        buf1 := if f.buf then b' else m.buf1 }
      let rd := fun (scales : Bool) (total base : Nat) (g : Nat × Nat × Nat) =>
        ({ cycle := g.1, reads := true,
           eff := .mtlRead f.buf scales g.2.1 total (base + g.2.1) g.2.2 } : Pend)
      let ps := (ge.filter fun g => inBudget x g.1).map (rd false eb (ea * 64)) ++
        (gs.filter fun g => inBudget x g.1).map (rd true sb (sa * 64))
      (cluPend { c with mx := m', claims := cl } ps, ovrCheck x fin)

/-- The units of 256 accumulator entries that a row of a geometry covers. -/
def rowUnits (ternary : Bool) (r : Nat) : List Nat := if ternary then [2 * r, 2 * r + 1] else [r]

/-- The cycles at which rows are taken: each at least `step` after the one before, and not before the
cycle its entries allow (R111, R112). -/
def rowTimes (step : Nat) (allow : Nat → Nat) : Nat → List Nat → List Nat
  | _, [] => []
  | t, r :: rs =>
    let u := max t (allow r)
    u :: rowTimes step allow (u + step) rs

/-- MMA (R102 to R106): stream activation rows through a tile.  The first live row carries the weight-side events, which are raised once
(R106).  On a buffer with no loaded column, which has no weight format, the rate is that of the format the buffer held last (E2M1 when none) and
the geometry in force stays (DESIGN CHOICE, log entry 126). -/
def opMma (x : Ctx) (f : MmaF) (c : Cluster) : Cluster × List Pf :=
  let k := cluCore c x.sc
  let m := c.mx
  let b := if f.buf then m.buf1 else m.buf0
  let tern := if b.ncol = 0 then m.ternary else b.wfmt == .t5
  let p := rowRate b.wfmt
  let rows := f.rowsm1.toNat + 1
  let r0 := f.arow0.toNat
  let aa := ixAdd f.aaddr.toNat (coreIdx k 15)
  let sa := ixAdd f.asaddr.toNat (coreIdx k 15)
  if geomRows tern < r0 + rows then (c, [pfAdr 4 (r0 + rows - 1)])
  else if !bytesOk k false (aa * 64) (256 * rows) then (c, [pfAdr 0 aa])
  else if !bytesOk k false (sa * 64) (8 * rows) then (c, [pfAdr 0 sa])
  else
    let mask := coreMask k f.masksel.toNat
    let start := max x.now (max m.aFree b.ready)
    let rs := (List.range rows).map (· + r0)
    let allow := fun r => ((rowUnits tern r).map fun u => tabGet 0 m.rowRead u - 19).foldl max 0
    let ts := rowTimes p allow start rs
    let fin := ts.foldl max start + p
    let rt := (List.range rows).zip ts
    let acc := rt.flatMap fun q =>
      (List.range 4).map (fun j => (q.2, aa + 4 * q.1 + j)) ++ [(q.2, sa + q.1 / 8)]
    match claimAll 9 acc c.claims with
    | .inr pf => (c, [pf])
    | .inl cl =>
      let b' := { b with used := max b.used (fin - p + 1) }
      let rr := rt.foldl (fun t q => (rowUnits tern (r0 + q.1)).foldl
        (fun t u => tabPut 0 t u (q.2 + 20)) t) m.rowReady
      let m' := { m with
        aFree := fin
        ternary := tern
        rowReady := rr
        waitCount := m.waitCount + BitVec.ofNat 32 (fin - (x.now + p * rows))
        busyCount := m.busyCount + BitVec.ofNat 32 (p * rows)
        buf0 := if f.buf then m.buf0 else b'
        buf1 := if f.buf then b' else m.buf1 }
      let ps := if b.ncol = 0 then []
        else (rt.filter fun q => mask.getLsbD q.1 && inBudget x q.2).zipIdx.map fun (q, j) =>
          ({ cycle := q.2, reads := true,
             eff := .mmaRow f.buf (j == 0) (r0 + q.1) (aa * 64 + 256 * q.1) (sa * 64 + 8 * q.1)
               (afmtOf f.afmt.toNat) f.zero b.ncol b.kblk b.wfmt } : Pend)
      (cluPend { c with mx := m', claims := cl } ps, ovrCheck x fin)

/-- Drain cycles per row (R109). -/
def drainQ (mode : Nat) (ternary : Bool) : Nat :=
  (if mode = 2 then 3 else 1) * (if ternary then 2 else 1)

/-- MDR (R107 to R109): drain accumulator rows of the geometry in force.  A masked row takes its cycles and holds the vector lanes in
them, and claims no bank; the range that is checked runs from the first row to the end of the last, rows that are masked and the gaps of the
stride among it (DESIGN CHOICE, log entry 128). -/
def opMdr (x : Ctx) (f : MdrF) (c : Cluster) : Cluster × List Pf :=
  let k := cluCore c x.sc
  let m := c.mx
  let tern := m.ternary
  let mode := f.dmode.toNat
  let cols := geomCols tern
  let q := drainQ mode tern
  let rows := f.rowsm1.toNat + 1
  let r0 := f.drow0.toNat
  let da := ixAdd f.daddr.toNat (coreIdx k 15)
  let stride := f.dstride.toNat
  let rowBytes := cols * (if mode = 2 then 12 else 4)
  if geomRows tern < r0 + rows then (c, [pfAdr 4 (r0 + rows - 1)])
  else if !bytesOk k true (da * 64) ((rows - 1) * stride * 64 + rowBytes) then (c, [pfAdr 0 da])
  else
    let mask := coreMask k f.masksel.toNat
    let start := max x.now m.dFree
    let rs := (List.range rows).map (· + r0)
    let allow := fun r => ((rowUnits tern r).map fun u => tabGet 0 m.rowReady u).foldl max 0
    let ts := rowTimes q allow (start + 4) rs
    let fin := ts.foldl max (start + 4) + q
    let rt := (List.range rows).zip ts
    let live := rt.filter fun y => mask.getLsbD y.1 && inBudget x y.2
    let acc := live.flatMap fun y =>
      (List.range q).flatMap fun j =>
        (List.range 16).map fun g => (y.2 + 8 - q + j, da + y.1 * stride + 16 * j + g)
    match claimAll 10 acc c.claims with
    | .inr pf => (c, [pf])
    | .inl cl =>
      let rr := rt.foldl (fun t y => (rowUnits tern (r0 + y.1)).foldl
        (fun t u => tabPut 0 t u y.2) t) m.rowRead
      let m' := { m with
        dFree := fin
        rowRead := rr
        waitCount := m.waitCount + BitVec.ofNat 32 (fin - (x.now + 4 + q * rows)) }
      let lanes := if mode = 2 then []
        else rt.flatMap fun y => (List.range q).map (· + y.2)
      let ps := live.map fun y =>
        ({ cycle := y.2, reads := true,
           eff := .mdrRow (r0 + y.1) cols mode f.clr ((da + y.1 * stride) * 64) } : Pend)
      (cluPend { c with mx := m', claims := cl, drain := c.drain ++ lanes } ps, ovrCheck x fin)

end Sys2Proof.Machine
end

