-- ==== Sys2Proof/Machine/Special.lean ====
section
/-! DEFINITION. The special functions of the vector engine (R139, R140): the tables hold the RNE
binary32 values of the exact quantities the rule names. -/

namespace Sys2Proof.Machine

open Sys2Proof

/-- `T[j]` of EXP2: RNE binary32 of 2^(j/64). -/
def exp2T : List W32 :=
  [0x3F800000, 0x3F8164D2, 0x3F82CD87, 0x3F843A29, 0x3F85AAC3, 0x3F871F62, 0x3F88980F, 0x3F8A14D5,
   0x3F8B95C2, 0x3F8D1ADF, 0x3F8EA43A, 0x3F9031DC, 0x3F91C3D3, 0x3F935A2B, 0x3F94F4F0, 0x3F96942D] ++
  [0x3F9837F0, 0x3F99E046, 0x3F9B8D3A, 0x3F9D3EDA, 0x3F9EF532, 0x3FA0B051, 0x3FA27043, 0x3FA43516,
   0x3FA5FED7, 0x3FA7CD94, 0x3FA9A15B, 0x3FAB7A3A, 0x3FAD583F, 0x3FAF3B79, 0x3FB123F6, 0x3FB311C4] ++
  [0x3FB504F3, 0x3FB6FD92, 0x3FB8FBAF, 0x3FBAFF5B, 0x3FBD08A4, 0x3FBF179A, 0x3FC12C4D, 0x3FC346CD,
   0x3FC5672A, 0x3FC78D75, 0x3FC9B9BE, 0x3FCBEC15, 0x3FCE248C, 0x3FD06334, 0x3FD2A81E, 0x3FD4F35B] ++
  [0x3FD744FD, 0x3FD99D16, 0x3FDBFBB8, 0x3FDE60F5, 0x3FE0CCDF, 0x3FE33F89, 0x3FE5B907, 0x3FE8396A,
   0x3FEAC0C7, 0x3FED4F30, 0x3FEFE4BA, 0x3FF28177, 0x3FF5257D, 0x3FF7D0DF, 0x3FFA83B3, 0x3FFD3E0C]

/-- `L[j]` of LOG2: RNE binary32 of log2 (1 + j/64). -/
def log2L : List W32 :=
  [0x00000000, 0x3CB73CB4, 0x3D35D69C, 0x3D8759C5, 0x3DB31FB8, 0x3DDE4212, 0x3E0462C4, 0x3E19574F,
   0x3E2E00D2, 0x3E42615F, 0x3E567AF1, 0x3E6A4F72, 0x3E7DE0B6, 0x3E88983F, 0x3E92203D, 0x3E9B8926] ++
  [0x3EA4D3C2, 0x3EAE00D2, 0x3EB7110E, 0x3EC0052B, 0x3EC8DDD4, 0x3ED19BB0, 0x3EDA3F60, 0x3EE2C97D,
   0x3EEB3A9F, 0x3EF39355, 0x3EFBD42B, 0x3F01FED4, 0x3F060828, 0x3F0A0650, 0x3F0DF989, 0x3F11E20F] ++
  [0x3F15C01A, 0x3F1993E3, 0x3F1D5DA0, 0x3F211D84, 0x3F24D3C2, 0x3F28808C, 0x3F2C2411, 0x3F2FBE80,
   0x3F335004, 0x3F36D8CB, 0x3F3A58FF, 0x3F3DD0C8, 0x3F41404F, 0x3F44A7BA, 0x3F480731, 0x3F4B5ED7] ++
  [0x3F4EAED0, 0x3F51F740, 0x3F553848, 0x3F587209, 0x3F5BA4A4, 0x3F5ED039, 0x3F61F4E5, 0x3F6512C7,
   0x3F6829FB, 0x3F6B3A9F, 0x3F6E44CD, 0x3F7148A1, 0x3F744636, 0x3F773DA4, 0x3F7A2F04, 0x3F7D1A71]

/-- `Q[j]` of LOG2: RNE binary32 of 1/(1 + j/64). -/
def log2Q : List W32 :=
  [0x3F800000, 0x3F7C0FC1, 0x3F783E10, 0x3F74898D, 0x3F70F0F1, 0x3F6D7304, 0x3F6A0EA1, 0x3F66C2B4,
   0x3F638E39, 0x3F607038, 0x3F5D67C9, 0x3F5A740E, 0x3F579436, 0x3F54C77B, 0x3F520D21, 0x3F4F6475] ++
  [0x3F4CCCCD, 0x3F4A4588, 0x3F47CE0C, 0x3F4565C8, 0x3F430C31, 0x3F40C0C1, 0x3F3E82FA, 0x3F3C5264,
   0x3F3A2E8C, 0x3F381703, 0x3F360B61, 0x3F340B41, 0x3F321643, 0x3F302C0B, 0x3F2E4C41, 0x3F2C7692] ++
  [0x3F2AAAAB, 0x3F28E83F, 0x3F272F05, 0x3F257EB5, 0x3F23D70A, 0x3F2237C3, 0x3F20A0A1, 0x3F1F1166,
   0x3F1D89D9, 0x3F1C09C1, 0x3F1A90E8, 0x3F191F1A, 0x3F17B426, 0x3F164FDA, 0x3F14F209, 0x3F139A86] ++
  [0x3F124925, 0x3F10FDBC, 0x3F0FB824, 0x3F0E7835, 0x3F0D3DCB, 0x3F0C08C1, 0x3F0AD8F3, 0x3F09AE41,
   0x3F088889, 0x3F0767AB, 0x3F064B8A, 0x3F053408, 0x3F042108, 0x3F03126F, 0x3F020821, 0x3F010204]

/-- `T[j]` of RCP: RNE binary32 of 1/(1 + (2j + 1)/128). -/
def rcpT : List W32 :=
  [0x3F7E03F8, 0x3F7A232D, 0x3F76603E, 0x3F72B9D6, 0x3F6F2EB7, 0x3F6BBDB3, 0x3F6865AC, 0x3F652598,
   0x3F61FC78, 0x3F5EE95C, 0x3F5BEB62, 0x3F5901B2, 0x3F562B81, 0x3F53680D, 0x3F50B6A0, 0x3F4E168A] ++
  [0x3F4B8728, 0x3F4907DA, 0x3F46980C, 0x3F443730, 0x3F41E4BC, 0x3F3FA030, 0x3F3D6910, 0x3F3B3EE7,
   0x3F392144, 0x3F370FBB, 0x3F3509E7, 0x3F330F63, 0x3F311FD4, 0x3F2F3ADE, 0x3F2D602B, 0x3F2B8F6A] ++
  [0x3F29C84A, 0x3F280A81, 0x3F2655C4, 0x3F24A9CF, 0x3F23065E, 0x3F216B31, 0x3F1FD80A, 0x3F1E4CAD,
   0x3F1CC8E1, 0x3F1B4C70, 0x3F19D723, 0x3F1868C8, 0x3F17012E, 0x3F15A025, 0x3F144581, 0x3F12F114] ++
  [0x3F11A2B4, 0x3F105A38, 0x3F0F177A, 0x3F0DDA52, 0x3F0CA29C, 0x3F0B7034, 0x3F0A42F8, 0x3F091AC7,
   0x3F07F781, 0x3F06D905, 0x3F05BF37, 0x3F04A9FA, 0x3F039930, 0x3F028CC0, 0x3F01848E, 0x3F008081]

/-- `T[j]` of RSQRT: RNE binary32 of 1/sqrt(1 + (2j + 1)/64). -/
def rsqrtT : List W32 :=
  [0x3F7E05EC, 0x3F7A33F9, 0x3F768CDC, 0x3F730D8A, 0x3F6FB345, 0x3F6C7B90, 0x3F69642A, 0x3F666B02,
   0x3F638E39, 0x3F60CC16, 0x3F5E2305, 0x3F5B9193, 0x3F59166B, 0x3F56B051, 0x3F545E22, 0x3F521ED0] ++
  [0x3F4FF162, 0x3F4DD4ED, 0x3F4BC89B, 0x3F49CBA2, 0x3F47DD45, 0x3F45FCD6, 0x3F4429AF, 0x3F426337,
   0x3F40A8DE, 0x3F3EFA1C, 0x3F3D5671, 0x3F3BBD67, 0x3F3A2E8C, 0x3F38A975, 0x3F372DBF, 0x3F35BB09] ++
  [0x3F3450FC, 0x3F32EF41, 0x3F319589, 0x3F304387, 0x3F2EF8F2, 0x3F2DB587, 0x3F2C7904, 0x3F2B432A,
   0x3F2A13C0, 0x3F28EA8C, 0x3F27C759, 0x3F26A9F4, 0x3F25922C, 0x3F247FD3, 0x3F2372BD, 0x3F226ABE] ++
  [0x3F2167AF, 0x3F206968, 0x3F1F6FC4, 0x3F1E7AA0, 0x3F1D89D9, 0x3F1C9D4E, 0x3F1BB4E1, 0x3F1AD073,
   0x3F19EFE6, 0x3F191320, 0x3F183A05, 0x3F17647C, 0x3F16926C, 0x3F15C3BC, 0x3F14F857, 0x3F143026] ++
  [0x3F136B13, 0x3F12A90B, 0x3F11E9F9, 0x3F112DCA, 0x3F10746D, 0x3F0FBDCE, 0x3F0F09DD, 0x3F0E5889,
   0x3F0DA9C2, 0x3F0CFD79, 0x3F0C539F, 0x3F0BAC25, 0x3F0B06FD, 0x3F0A641A, 0x3F09C36D, 0x3F0924EC] ++
  [0x3F088889, 0x3F07EE37, 0x3F0755ED, 0x3F06BF9E, 0x3F062B40, 0x3F0598C7, 0x3F05082A, 0x3F04795F,
   0x3F03EC5C, 0x3F036117, 0x3F02D788, 0x3F024FA6, 0x3F01C967, 0x3F0144C4, 0x3F00C1B4, 0x3F004030]

/-- Entry `j` of a table. -/
def tabAt (l : List W32) (j : Nat) : W32 := (l.drop j).headD 0

/-- RN of a sum and of a product of exact values. -/
def rnAdd (a b : Dy) : W32 × Flags := rn (dyAdd a b)
/-- RN of a product. -/
def rnMul (a b : Dy) (zneg : Bool := false) : W32 × Flags := rn (dyMul a b) zneg

/-- Horner evaluation: from the innermost coefficient outwards, each product by `r` and each sum rounded;
the coefficients come innermost first. -/
def horner (r : Dy) : List W32 → W32 × Flags
  | [] => (0, 0)
  | c :: cs => cs.foldl (fun acc d =>
      let p := rnMul r (dy32 acc.1)
      let s := rnAdd (dy32 d) (dy32 p.1)
      (s.1, acc.2 ||| p.2 ||| s.2)) (c, 0)

/-- EXP2 (R139 FUNC 0) of a binary32 code. -/
def exp2f (w : W32) : W32 × Flags :=
  let a := rd32 w
  let d := dy32 a.1
  let n := dyFloor d
  let f := dyAdd d ⟨-n, 0⟩
  let j := dyFloor ⟨f.m, f.e + 6⟩
  let r := dyAdd f ⟨-j, -6⟩
  -- p = 1 + r(c1 + r(c2 + r·c3))
  let p := horner r [0x3D635847, 0x3E75FDF0, 0x3F317218, 0x3F800000]
  let y := rnMul (dy32 (tabAt exp2T j.toNat)) (dy32 p.1)
  let z := scale32 y.1 n
  if 128 ≤ n then (max32 false, a.2 ||| flagOv)
  else (z.1, a.2 ||| p.2 ||| y.2 ||| z.2)

/-- Exponent and 24-bit significand of a binary32 code that is not zero. -/
def parts32 (w : W32) : Int × Nat :=
  ((bitsOf w.toNat 30 23 : Int) - 127, 2 ^ 23 + bitsOf w.toNat 22 0)

/-- LOG2 (R139 FUNC 1). -/
def log2f (w : W32) : W32 × Flags :=
  let a := rd32 w
  if (dy32 a.1).m = 0 then (max32 true, a.2 ||| flagOv)
  else if neg32 a.1 then (max32 true, a.2 ||| flagIv)
  else
    let pt := parts32 a.1
    let j := (pt.2 - 2 ^ 23) / 2 ^ 17
    let v : Dy := ⟨((pt.2 - 2 ^ 23 - j * 2 ^ 17 : Nat) : Int), -23⟩
    let u := rnMul v (dy32 (tabAt log2Q j))
    -- p = u(d1 + u(d2 + u(d3 + u·d4)))
    let h := horner (dy32 u.1) [0xBEB8AA3B, 0x3EF6384F, 0xBF38AA3B, 0x3FB8AA3B]
    let p := rnMul (dy32 u.1) (dy32 h.1)
    let e := rnAdd ⟨pt.1, 0⟩ (dy32 (tabAt log2L j))
    let y := rnAdd (dy32 e.1) (dy32 p.1)
    (y.1, a.2 ||| u.2 ||| h.2 ||| p.2 ||| e.2 ||| y.2)

/-- RCP (R139 FUNC 2). -/
def rcpf (w : W32) : W32 × Flags :=
  let a := rd32 w
  let s := neg32 a.1
  if (dy32 a.1).m = 0 then (max32 s, a.2 ||| flagOv)
  else
    let pt := parts32 a.1
    let m : Dy := ⟨pt.2, -23⟩
    let t := dy32 (tabAt rcpT ((pt.2 - 2 ^ 23) / 2 ^ 17))
    let mt := rnMul m t
    let d := rnAdd ⟨1, 0⟩ (dyNeg (dy32 mt.1))
    -- p = d(1 + d(1 + d))
    let h := horner (dy32 d.1) [0x3F800000, 0x3F800000, 0x3F800000]
    let p := rnMul (dy32 d.1) (dy32 h.1)
    let tp := rnMul t (dy32 p.1)
    let y := rnAdd t (dy32 tp.1)
    let z := scale32 (if s then y.1 ^^^ 0x80000000 else y.1) (-pt.1)
    (z.1, a.2 ||| mt.2 ||| d.2 ||| h.2 ||| p.2 ||| tp.2 ||| y.2 ||| z.2)

/-- RSQRT (R139 FUNC 3). -/
def rsqrtf (w : W32) : W32 × Flags :=
  let a := rd32 w
  let s := neg32 a.1
  if (dy32 a.1).m = 0 then (max32 s, a.2 ||| flagOv)
  else if s then (max32 false, a.2 ||| flagIv)
  else
    let pt := parts32 a.1
    let e := pt.1 / 2
    -- m in [1, 4) in units of 2^-23
    let mm := if pt.1 % 2 = 0 then pt.2 else 2 * pt.2
    let m : Dy := ⟨mm, -23⟩
    let t := dy32 (tabAt rsqrtT ((mm - 2 ^ 23) / 2 ^ 18))
    let m1 := rnMul m t
    let m2 := rnMul (dy32 m1.1) t
    let d := rnAdd ⟨1, 0⟩ (dyNeg (dy32 m2.1))
    -- p = d(1/2 + d(3/8 + d·5/16))
    let h := horner (dy32 d.1) [0x3EA00000, 0x3EC00000, 0x3F000000]
    let p := rnMul (dy32 d.1) (dy32 h.1)
    let tp := rnMul t (dy32 p.1)
    let y := rnAdd t (dy32 tp.1)
    let z := scale32 y.1 (-e)
    (z.1, a.2 ||| m1.2 ||| m2.2 ||| d.2 ||| h.2 ||| p.2 ||| tp.2 ||| y.2 ||| z.2)

/-- VSF by its function code. -/
def vsfFn (f : Nat) (w : W32) : W32 × Flags :=
  match f with
  | 0 => exp2f w
  | 1 => log2f w
  | 2 => rcpf w
  | _ => rsqrtf w

/-- VSMX EXP of one lane: EXP2(RN(RN(a - b) × scale)) (R140). -/
def smxExp (a b scale : W32) : W32 × Flags :=
  let d := sub32 a b
  let p := mul32 d.1 scale
  let e := exp2f p.1
  (e.1, d.2 ||| p.2 ||| e.2)

/-- The ten rounds of the sampling generator (R146). -/
def sgenRounds : Nat → W32 → W32 → W32 → W32 → W32 → W32 → W32 × W32
  | 0, _, _, a, _, c, _ => (a, c)
  | n + 1, k0, k1, a, b, c, d =>
    let p := a.toNat * 0xE817FB2D
    let q := c.toNat * 0xB5AD4ECB
    let na := BitVec.ofNat 32 (q / 2 ^ 32) ^^^ b ^^^ k0
    let nb := (BitVec.ofNat 32 q).rotateLeft 11
    let nc := BitVec.ofNat 32 (p / 2 ^ 32) ^^^ d ^^^ k1
    let nd := (BitVec.ofNat 32 p).rotateLeft 5
    sgenRounds n (k0 + 0x7F4A7C15) (k1 + 0x94D049BB) na nb nc nd

/-- The sampling generator (R146). -/
def sgen (k0 k1 pos step draw : W32) : W32 :=
  let r := sgenRounds 10 k0 k1 pos step draw 0x4F1BBCDD
  r.1 ^^^ r.2

end Sys2Proof.Machine
end

