-- ==== Sys2Proof/Machine/Vector.lean ====
section
/-! DEFINITION. The vector micro-ops on one cluster (R135 to R145, R147). -/

namespace Sys2Proof.Machine

open Sys2Proof

/-! ## Operands -/

/-- Active lanes of a vector micro-op. -/
def vecN (f : VecF) : Nat := f.lenm1.toNat + 1

/-- Lane of operand A. -/
def vecA (k : Core) (f : VecF) (l : Nat) : W32 := coreLane k f.srca.toNat l

/-- Lane of operand B: V[SRCB], or IMM in every lane (BSRC). -/
def vecB (k : Core) (f : VecF) (l : Nat) : W32 := if f.bsrc then f.imm else coreLane k f.srcb.toNat l

/-- Lane of operand C. -/
def vecC (k : Core) (f : VecF) (l : Nat) : W32 := coreLane k f.srcc.toNat l

/-- The granule address MADDR + I[IXA]. -/
def vecAddr (k : Core) (f : VecF) : Nat := ixAdd f.maddr.toNat (coreIdx k f.ixa.toNat)

/-- BCL of a vector micro-op whose unit is occupied or whose lanes a drain holds (R130).  A vector micro-op that is also out of its
windows raises BCL and not ADR, an order that the manual leaves open (DESIGN CHOICE, log entry 33). -/
def vecGate (x : Ctx) (c : Cluster) : Option Pf :=
  if x.now < (cluCore c x.sc).vbusy then some (pfBcl 1 x.sc x.sc 0)
  else if c.drain.contains x.now then some (pfBcl 2 10 x.sc 0)
  else none

/-- Occupy the vector unit of the issuing core for `n` cycles. -/
def vecOccupy (x : Ctx) (n : Nat) (c : Cluster) : Cluster :=
  cluSetCore c x.sc { cluCore c x.sc with vbusy := x.now + n }

/-- A result written to lanes of a register, readable after `lat` cycles, with the flags it raised. -/
def vecOut (x : Ctx) (lat dst : Nat) (l : List (Nat × W32)) (fl : Flags) (c : Cluster) : Cluster :=
  cluPend c [{ cycle := x.now + lat, eff := .flags 0 fl },
    { cycle := x.now + lat, eff := .lanes x.sc dst l }]

/-- A lane-wise result over the active lanes. -/
def vecMap (f : VecF) (g : Nat → W32 × Flags) : List (Nat × W32) × Flags :=
  let r := (List.range (vecN f)).map fun l => (l, g l)
  (r.map fun p => (p.1, p.2.1), flagsUnion (r.map fun p => p.2.2))

/-! ## Vector memory (R136) -/

/-- Bytes per lane of VLD and VST. -/
def laneBytes (t : Nat) : Nat := if t = 1 then 1 else if t = 2 then 2 else 4

/-- VLD. -/
def opVld (x : Ctx) (f : VecF) (c : Cluster) : Cluster × List Pf :=
  let k := cluCore c x.sc
  let ga := vecAddr k f
  let w := laneBytes f.type.toNat
  match vecGate x c with
  | some pf => (c, [pf])
  | none =>
    if !bytesOk k false (ga * 64) (vecN f * w) then (c, [pfAdr 0 ga])
    else
      match claimAll x.sc ((granulesOf (ga * 64) (vecN f * w)).map fun g => (x.now, g)) c.claims with
      | .inr pf => (c, [pf])
      | .inl cl =>
        let l := (List.range (vecN f)).map fun i =>
          (i, BitVec.ofNat 32 (leNat (memRead c.mem (ga * 64 + i * w) w)))
        (cluPend { c with claims := cl } [{ cycle := x.now + 5, eff := .lanes x.sc f.dst.toNat l }], [])

/-- VST: the granules are written at issue + 2 and can be read from issue + 3. -/
def opVst (x : Ctx) (f : VecF) (c : Cluster) : Cluster × List Pf :=
  let k := cluCore c x.sc
  let ga := vecAddr k f
  let w := laneBytes f.type.toNat
  match vecGate x c with
  | some pf => (c, [pf])
  | none =>
    if !bytesOk k true (ga * 64) (vecN f * w) then (c, [pfAdr 0 ga])
    else
      match claimAll x.sc ((granulesOf (ga * 64) (vecN f * w)).map fun g => (x.now + 2, g)) c.claims with
      | .inr pf => (c, [pf])
      | .inl cl =>
        let bytes := (List.range (vecN f)).flatMap fun i => natLe w (vecA k f i).toNat
        (cluPend { c with claims := cl } [{ cycle := x.now + 3, eff := .mem (cellsAt (ga * 64) bytes) }], [])

/-! ## VEW (R137) -/

/-- One lane of a binary32 VEW. -/
def vewF32 (fn : Nat) (a b c : W32) : W32 × Flags :=
  match fn with
  | 0x00 => add32 a b
  | 0x01 => sub32 a b
  | 0x02 => mul32 a b
  | 0x03 => fma32 a b c
  | 0x04 => min32 a b
  | 0x05 => max32f a b
  | 0x06 => abs32 a
  | 0x07 => neg32c a
  | 0x08 => cmp32 0 a b
  | 0x09 => cmp32 1 a b
  | _ => cmp32 2 a b

/-- One lane of an integer VEW at width `w`. -/
def vewInt (fn w : Nat) (sat : Bool) (a b : W32) : W32 × Flags :=
  let x := laneInt w a
  let y := laneInt w b
  let sh := b.toNat % w
  let out := fun v => (intOut w false v).1
  match fn with
  | 0x00 => intOut w sat (x + y)
  | 0x01 => intOut w sat (x - y)
  | 0x02 => intOut w sat (x * y)
  | 0x04 => (out (min x y), 0)
  | 0x05 => (out (max x y), 0)
  | 0x06 => intOut w sat (if x < 0 then -x else x)
  | 0x07 => intOut w sat (-x)
  | 0x08 => (if y < x then 1 else 0, 0)
  | 0x09 => (if y ≤ x then 1 else 0, 0)
  | 0x0A => (if x = y then 1 else 0, 0)
  | 0x10 => (out (x * (2 : Int) ^ sh), 0)
  | 0x11 => (out (x >>> sh), 0)
  | 0x12 => (out (laneInt w (a &&& b)), 0)
  | 0x13 => (out (laneInt w (a ||| b)), 0)
  | _ => (out (laneInt w (a ^^^ b)), 0)

/-- One lane of VEW.  SEL tests the bits of c, so a binary32 -0.0 selects a (DEDUCED, log entry 37). -/
def vewLane (k : Core) (f : VecF) (l : Nat) : W32 × Flags :=
  let a := vecA k f l
  let b := vecB k f l
  match f.func.toNat with
  | 0x0B => (if vecC k f l = 0 then b else a, 0)
  | 0x0C => (a, 0)
  | 0x0D => (vecA k f (f.imm.toNat % 64), 0)
  | 0x0E => (vecA k f (b.toNat % 64), 0)
  | fn =>
    if f.type = 0 then vewF32 fn a b (vecC k f l)
    else vewInt fn (typeW f.type.toNat) f.mod a b

/-- VEW. -/
def opVew (x : Ctx) (f : VecF) (c : Cluster) : Cluster × List Pf :=
  match vecGate x c with
  | some pf => (c, [pf])
  | none =>
    let r := vecMap f (vewLane (cluCore c x.sc) f)
    (vecOut x (if f.func = 3 then 8 else 4) f.dst.toNat r.1 r.2 (vecOccupy x 1 c), [])

/-! ## VRD (R138) -/

/-- One level of the fixed tree: neighbours combined. -/
def treeLevel (op : W32 → W32 → W32 × Flags) : List (Option W32) → List (Option W32) × Flags
  | a :: b :: l =>
    let t := treeLevel op l
    match a, b with
    | some u, some v => let r := op u v; (some r.1 :: t.1, r.2 ||| t.2)
    | some u, none => (some u :: t.1, t.2)
    | none, v => (v :: t.1, t.2)
  | l => (l, 0)

/-- The tree over 64 leaves; a leaf that is left out is `none`. -/
def treeReduce (op : W32 → W32 → W32 × Flags) (l : List (Option W32)) : W32 × Flags :=
  let step := fun (s : List (Option W32) × Flags) =>
    let t := treeLevel op s.1
    (t.1, s.2 ||| t.2)
  let r := step (step (step (step (step (step (l, 0))))))
  match r.1 with
  | some v :: _ => (v, r.2)
  | _ => (0, r.2)

/-- Sum, maximum and minimum by TYPE; integer sums wrap. -/
def redOp (fn type : Nat) (a b : W32) : W32 × Flags :=
  if type = 0 then
    (match fn with
    | 0 => add32 a b
    | 1 => max32f a b
    | _ => min32 a b)
  else
    (match fn with
    | 0 => vewInt 0x00 (typeW type) false a b
    | 1 => vewInt 0x05 (typeW type) false a b
    | _ => vewInt 0x04 (typeW type) false a b)

/-- The leaves of a reduction: an inactive lane counts as +0 for SUM and is left out otherwise; a single
leaf is read as every input is. -/
def redLeaves (k : Core) (f : VecF) (sum : Bool) : List (Option W32) × Flags :=
  let r := (List.range 64).map fun l =>
    if l < vecN f then
      (let v := vecA k f l
       if f.type = 0 then (some (rd32 v).1, (rd32 v).2) else (some (intOut (typeW f.type.toNat) false (laneInt (typeW f.type.toNat) v)).1, 0))
    else (if sum then some 0 else none, flagNone)
  (r.map Prod.fst, flagsUnion (r.map Prod.snd))

/-- SUM, MAX and MIN over the active lanes, with MOD accumulating onto lane 0 of V[DST] last. -/
def vrdReduce (k : Core) (f : VecF) : W32 × Flags :=
  let fn := f.func.toNat
  let lv := redLeaves k f (fn == 0)
  let r := treeReduce (redOp fn f.type.toNat) lv.1
  if f.mod then
    let a := redOp fn f.type.toNat (coreLane k f.dst.toNat 0) r.1
    (a.1, lv.2 ||| r.2 ||| a.2)
  else (r.1, lv.2 ||| r.2)

/-- SCAN: running sums in ascending lane order; lane 0 is read as every input is. -/
def vrdScan (type : Nat) : Option W32 → List W32 → List (W32 × Flags)
  | _, [] => []
  | none, a :: l =>
    let v := if type = 0 then rd32 a else intOut (typeW type) false (laneInt (typeW type) a)
    v :: vrdScan type (some v.1) l
  | some p, a :: l =>
    let v := redOp 0 type p a
    v :: vrdScan type (some v.1) l

/-- FIRST: the lowest active lane that is not zero, or LENM1. -/
def vrdFirst (k : Core) (f : VecF) : W32 :=
  BitVec.ofNat 32 (((List.range (vecN f)).find? fun l => vecA k f l != 0).getD f.lenm1.toNat)

/-- ARGMAX: the lowest active lane that holds the maximum, with the flags of reading. -/
def vrdArgmax (k : Core) (f : VecF) : W32 × Flags :=
  let lv := redLeaves k f false
  let m := treeReduce (redOp 1 f.type.toNat) lv.1
  let i := ((List.range (vecN f)).find? fun l => (lv.1.drop l).headD none == some m.1).getD 0
  (BitVec.ofNat 32 i, lv.2 ||| m.2)

/-- VRD. -/
def opVrd (x : Ctx) (f : VecF) (c : Cluster) : Cluster × List Pf :=
  match vecGate x c with
  | some pf => (c, [pf])
  | none =>
    let k := cluCore c x.sc
    let c1 := vecOccupy x 1 c
    let d := f.dst.toNat
    match f.func.toNat with
    | 3 =>
      let r := vrdScan f.type.toNat none ((List.range (vecN f)).map (vecA k f))
      (vecOut x 12 d (r.zipIdx.map fun p => (p.2, p.1.1)) (flagsUnion (r.map Prod.snd)) c1, [])
    | 4 => (vecOut x 8 d [(0, vrdFirst k f)] 0 c1, [])
    | 5 =>
      let r := vrdArgmax k f
      (vecOut x 8 d [(0, r.1)] r.2 c1, [])
    | _ =>
      let r := vrdReduce k f
      (vecOut x 10 d [(0, r.1)] r.2 c1, [])

/-! ## VSF, VSMX, VNRM (R139 to R141) -/

/-- VSF. -/
def opVsf (x : Ctx) (f : VecF) (c : Cluster) : Cluster × List Pf :=
  match vecGate x c with
  | some pf => (c, [pf])
  | none =>
    let k := cluCore c x.sc
    let r := vecMap f fun l => vsfFn f.func.toNat (vecA k f l)
    (vecOut x 14 f.dst.toNat r.1 r.2 (vecOccupy x 1 c), [])

/-- VSMX: EXP against lane 0 of V[SRCB], or RESCALE by EXP2(RN(RN(b0 - c0) × IMM)).  b0 is lane 0 of V[SRCB] also with BSRC set, since IMM is the
scale (DEDUCED, log entry 130). -/
def opVsmx (x : Ctx) (f : VecF) (c : Cluster) : Cluster × List Pf :=
  match vecGate x c with
  | some pf => (c, [pf])
  | none =>
    let k := cluCore c x.sc
    let b0 := coreLane k f.srcb.toNat 0
    let r :=
      if f.func = 0 then vecMap f fun l => smxExp (vecA k f l) b0 f.imm
      else
        let g := smxExp b0 (vecC k f 0) f.imm
        let m := vecMap f fun l => mul32 (vecA k f l) g.1
        (m.1, m.2 ||| g.2)
    (vecOut x 20 f.dst.toNat r.1 r.2 (vecOccupy x 1 c), [])

/-- VNRM: SSQ by the tree of R138, or SCALE. -/
def opVnrm (x : Ctx) (f : VecF) (c : Cluster) : Cluster × List Pf :=
  match vecGate x c with
  | some pf => (c, [pf])
  | none =>
    let k := cluCore c x.sc
    let c1 := vecOccupy x 1 c
    if f.func = 0 then
      let sq := (List.range 64).map fun l =>
        if l < vecN f then mul32 (vecA k f l) (vecA k f l) else ((0 : W32), flagNone)
      let t := treeReduce add32 (sq.map fun p => some p.1)
      let fl := flagsUnion (sq.map Prod.snd) ||| t.2
      let r := if f.mod then
          (let a := add32 (coreLane k f.dst.toNat 0) t.1
           (a.1, fl ||| a.2))
        else (t.1, fl)
      (vecOut x 12 f.dst.toNat [(0, r.1)] r.2 c1, [])
    else
      let r := vecMap f fun l =>
        let p := mul32 (vecA k f l) (vecB k f 0)
        let q := mul32 p.1 (vecC k f l)
        (q.1, p.2 ||| q.2)
      (vecOut x 8 f.dst.toNat r.1 r.2 c1, [])

/-! ## VTOPK (R142) -/

/-- A micro-op that reads in several cycles from its issue on, and what it does then (R131). -/
def cluGather (now : Nat) (op : GatherOp) (l : List Piece) (c : Cluster) : Cluster :=
  if l.isEmpty then c else cluPend c [{ cycle := now, reads := true, eff := .gather op l [] [] }]

/-- Accesses of granules that take `per` a cycle from cycle `t` on (R131). -/
def byCycle (t per : Nat) (l : List Nat) : Accesses := l.zipIdx.map fun p => (t + p.2 / per, p.1)

/-- VTOPK: 64 candidates are read in each cycle from the issue on (R131). -/
def opVtopk (x : Ctx) (f : VecF) (c : Cluster) : Cluster × List Pf :=
  let k := cluCore c x.sc
  let ga := vecAddr k f
  let kk := vecN f
  let n := (coreIdx k (f.srcb.toNat % 16) + f.imm).toNat
  let w := if f.func = 0 then 4 else 8
  match vecGate x c with
  | some pf => (c, [pf])
  | none =>
    if 65536 < n then (c, [pfAdr 3 n])
    else if !bytesOk k false (ga * 64) (n * w) then (c, [pfAdr 0 ga])
    else
      let cyc := ceilDiv n 64
      let acc := (List.range cyc).flatMap fun j =>
        (granulesOf (ga * 64 + j * 64 * w) (min (64 * w) ((n - j * 64) * w))).map fun g => (x.now + j, g)
      match claimAll x.sc acc c.claims with
      | .inr pf => (c, [pf])
      | .inl cl =>
        let op : GatherOp := .topk x.sc f.dst.toNat kk (f.func != 0) (coreIdx k (f.srca.toNat % 16))
        (cluGather x.now op ((piecesOf (ga * 64) (n * w) (64 * w)).map fun p => (p, (0, 0)))
          (vecOccupy x (cyc + kk) { c with claims := cl }), [])

/-! ## VRNG (R147) -/

/-- VRNG. -/
def opVrng (x : Ctx) (f : VecF) (c : Cluster) : Cluster × List Pf :=
  let k := cluCore c x.sc
  let ga := vecAddr k f
  match vecGate x c with
  | some pf => (c, [pf])
  | none =>
    if !bytesOk k false (ga * 64) 1024 then (c, [pfAdr 0 ga])
    else
      match claimAll x.sc ((granulesOf (ga * 64) 1024).map fun g => (x.now, g)) c.claims with
      | .inr pf => (c, [pf])
      | .inl cl =>
        let r := vecMap f fun l =>
          let a := ga * 64 + 16 * l
          let w := sgen (memWord c.mem a) (memWord c.mem (a + 4)) (memWord c.mem (a + 8))
            (memWord c.mem (a + 12)) f.imm
          if f.func = 0 then rn ⟨(w.toNat / 256 : Nat), -24⟩ else (w, 0)
        (vecOut x 16 f.dst.toNat r.1 0 (vecOccupy x 1 { c with claims := cl }), [])

/-! ## CVT (R143, R144) -/

/-- The MX format of a CVT code from 6 to 11. -/
def cvtMx (code : Nat) : ElemFmt :=
  match code with
  | 6 => .e4m3 | 7 => .e5m2 | 8 => .e2m3 | 9 => .e3m2 | 10 => .e2m1 | _ => .mxint8

/-- Width of an integer CVT code from 3 to 5. -/
def cvtIntW (code : Nat) : Nat := if code = 3 then 8 else if code = 4 then 16 else 32

/-- One lane of a register to register CVT. -/
def cvtLane (src dst : Nat) (rtz : Bool) (a : W32) : W32 × Flags :=
  if src = 0 then
    (if dst = 1 then cvt32to16 rtz a
     else if dst = 2 then cvt32toB16 rtz a
     else cvt32toInt (cvtIntW dst) rtz a)
  else if src = 1 then rd16to32 (a.toNat % 65536)
  else if src = 2 then rd32 (BitVec.ofNat 32 (a.toNat % 65536 * 65536))
  else if dst = 0 then cvtIntTo32 (cvtIntW src) rtz a
  else intOut (cvtIntW dst) true (laneInt (cvtIntW src) a)

/-- Register to register CVT. -/
def cvtReg (x : Ctx) (f : VecF) (c : Cluster) (src dst : Nat) : Cluster × List Pf :=
  let k := cluCore c x.sc
  let r := vecMap f fun l => cvtLane src dst f.rnd (vecA k f l)
  (vecOut x 6 f.dst.toNat r.1 r.2 (vecOccupy x 1 c), [])

/-- The byte address of the elements of an MX operand: MADDR × 64 + I[IXA] × 8w, modulo 2^32 (R133, R143). -/
def mxElems (k : Core) (f : VecF) (w : Nat) : Nat := (f.maddr.toNat * 64 + (coreIdx k f.ixa.toNat).toNat * 8 * w) % 2 ^ 32

/-- CVT from an MX format in memory. -/
def cvtFromMx (x : Ctx) (f : VecF) (c : Cluster) (fm : ElemFmt) : Cluster × List Pf :=
  let k := cluCore c x.sc
  let i := coreIdx k f.ixa.toNat
  let w := elemW fm
  let ea := mxElems k f w
  let sa := (f.imm + 2 * i).toNat
  let eb := ceilDiv (vecN f * w) 8
  let sb := ceilDiv (vecN f) 32
  if !bytesOk k false ea eb then (c, [pfAdr 0 (ea / 64)])
  else if !bytesOk k false sa sb then (c, [pfAdr 0 sa])
  else
    match claimAll x.sc ((granulesOf ea eb ++ granulesOf sa sb).map fun g => (x.now, g)) c.claims with
    | .inr pf => (c, [pf])
    | .inl cl =>
      let el := memRead c.mem ea eb
      let sc := memRead c.mem sa sb
      let bad := flagsUnion (sc.map fun s => flagIf (s == 0xFF) flagIv)
      let r := vecMap f fun l => mxTo32 fm ((sc.drop (l / 32)).headD 0) (packedElem w el l)
      (vecOut x 8 f.dst.toNat r.1 (r.2 ||| bad) (vecOccupy x 1 { c with claims := cl }), [])

/-- CVT from T5 in memory: lane `l` takes element 64 × I[IXA] + l of the tensor.  The micro-op names no length of the tensor, so its packs are
taken to be full (DEDUCED, log entry 38). -/
def cvtFromT5 (x : Ctx) (f : VecF) (c : Cluster) : Cluster × List Pf :=
  let k := cluCore c x.sc
  let e0 := 64 * (coreIdx k f.ixa.toNat).toNat
  let ba := f.maddr.toNat * 64
  let ea := ba + t5ElemOff e0
  let eb := t5ElemOff (e0 + vecN f - 1) + 1 - t5ElemOff e0
  let sa := ba + e0 / 65536 * 14132 + 13108 + e0 % 65536 / 64
  if !bytesOk k false ea eb then (c, [pfAdr 0 (ea / 64)])
  else if !bytesOk k false sa 1 then (c, [pfAdr 0 (sa / 64)])
  else
    match claimAll x.sc ((granulesOf ea eb ++ granulesOf sa 1).map fun g => (x.now, g)) c.claims with
    | .inr pf => (c, [pf])
    | .inl cl =>
      let s := memGet c.mem sa
      let byteOf := fun l => memGet c.mem (ba + t5ElemOff (e0 + l))
      let bad := flagIf (s == 0xFF) flagIv |||
        flagsUnion ((memRead c.mem ea eb).map fun b => flagIf (!t5Valid b) flagIv)
      let r := vecMap f fun l => t5To32 s (byteOf l) ((e0 + l) % 65536 % 5)
      (vecOut x 8 f.dst.toNat r.1 (r.2 ||| bad) (vecOccupy x 1 { c with claims := cl }), [])

/-- The bytes of the 64 values of an ACC56 form: 12 granules, four a cycle, whatever the active lanes are (R143). -/
def accSpan : Nat := 768

/-- CVT from ACC56 in memory: 64 values, read over three cycles from the issue on; the active lanes are written. -/
def cvtFromAcc (x : Ctx) (f : VecF) (c : Cluster) : Cluster × List Pf :=
  let k := cluCore c x.sc
  let ga := vecAddr k f
  if !bytesOk k false (ga * 64) accSpan then (c, [pfAdr 0 ga])
  else
    match claimAll x.sc (byCycle x.now 4 (granulesOf (ga * 64) accSpan)) c.claims with
    | .inr pf => (c, [pf])
    | .inl cl =>
      (cluGather x.now (.acc32 x.sc f.dst.toNat (vecN f) f.rnd) ((piecesOf (ga * 64) accSpan 256).map fun p => (p, (0, 0)))
        (vecOccupy x 3 { c with claims := cl }), [])

/-- CVT to an MX format in memory: one or two whole blocks (R74). -/
def cvtToMx (x : Ctx) (f : VecF) (c : Cluster) (fm : ElemFmt) : Cluster × List Pf :=
  let k := cluCore c x.sc
  let i := coreIdx k f.ixa.toNat
  let w := elemW fm
  let ea := mxElems k f w
  let sa := (f.imm + 2 * i).toNat
  let nb := ceilDiv (vecN f) 32
  let eb := nb * 4 * w
  if !bytesOk k true ea eb then (c, [pfAdr 0 (ea / 64)])
  else if !bytesOk k true sa nb then (c, [pfAdr 0 sa])
  else
    match claimAll x.sc ((granulesOf ea eb ++ granulesOf sa nb).map fun g => (x.now + 7, g)) c.claims with
    | .inr pf => (c, [pf])
    | .inl cl =>
      let bl := (List.range nb).map fun b =>
        encBlock fm f.mod f.rnd ((List.range 32).map fun l => vecA k f (32 * b + l))
      let cells := cellsAt ea (bl.flatMap fun b => packElems w b.2.1) ++
        cellsAt sa (bl.map fun b => b.1)
      (cluPend (vecOccupy x 1 { c with claims := cl }) [
        { cycle := x.now + 8, eff := .flags 0 (flagsUnion (bl.map fun b => b.2.2)) },
        { cycle := x.now + 8, eff := .mem cells }], [])

/-- The merge 13 → 13 (R144): the accumulator step on each pair, with the matrix engine's flags; 24 granules are read over three cycles
from the issue on, and 12 are written over issue + 10 to issue + 12 (R143). -/
def cvtMerge (x : Ctx) (f : VecF) (c : Cluster) : Cluster × List Pf :=
  let k := cluCore c x.sc
  let i := coreIdx k f.ixa.toNat
  let ga := ixAdd f.maddr.toNat i
  let gb := ixAdd f.imm.toNat i
  if !(bytesOk k false (ga * 64) accSpan && bytesOk k true (ga * 64) accSpan) then (c, [pfAdr 0 ga])
  else if !bytesOk k false (gb * 64) accSpan then (c, [pfAdr 0 gb])
  else
    match claimAll x.sc (byCycle x.now 4 (granulesOf (ga * 64) accSpan) ++ byCycle x.now 4 (granulesOf (gb * 64) accSpan) ++
        byCycle (x.now + 10) 4 (granulesOf (ga * 64) accSpan)) c.claims with
    | .inr pf => (c, [pf])
    | .inl cl =>
      (cluGather x.now (.merge (ga * 64) (vecN f)) ((piecesOf (ga * 64) accSpan 256).zip (piecesOf (gb * 64) accSpan 256))
        (vecOccupy x 3 { c with claims := cl }), [])

/-- CVT (R143). -/
def opCvt (x : Ctx) (f : VecF) (c : Cluster) : Cluster × List Pf :=
  let src := f.func.toNat / 16
  let dst := f.func.toNat % 16
  match vecGate x c with
  | some pf => (c, [pf])
  | none =>
    if src = 13 then (if dst = 13 then cvtMerge x f c else cvtFromAcc x f c)
    else if src = 12 then cvtFromT5 x f c
    else if 6 ≤ src then cvtFromMx x f c (cvtMx src)
    else if 6 ≤ dst then cvtToMx x f c (cvtMx dst)
    else cvtReg x f c src dst

/-! ## VFLG (R145) -/

/-- The flags of the two engines at the end of a cycle: what the results written in it raised stands (R145). -/
def flagsAtEnd (now : Nat) (c : Cluster) : Flags × Flags := ((settle (now + 1) c).mflags, (settle (now + 1) c).vflags)

/-- VFLG.  An event of the same cycle as a clear leaves the flag set (R77): its effect shows in the cycle
after, so the clear acts on what earlier cycles set. -/
def opVflg (x : Ctx) (f : VecF) (c : Cluster) : Cluster × List Pf :=
  let k := cluCore c x.sc
  let ga := vecAddr k f
  match vecGate x c with
  | some pf => (c, [pf])
  | none =>
    if f.func = 0 then (vecOccupy x 1 { c with mflags := 0 }, [])
    else if f.func = 1 then (vecOccupy x 1 { c with vflags := 0 }, [])
    else if !bytesOk k true (ga * 64) 4 then (c, [pfAdr 0 ga])
    else
      let fl := flagsAtEnd x.now c
      (cluPend (vecOccupy x 1 c)
        [{ cycle := x.now + 2,
           eff := .mem (cellsAt (ga * 64) (natLe 4 (flagPair fl.1 fl.2).toNat)) }], [])

end Sys2Proof.Machine
end

