-- ==== Sys2Proof/Machine/Uops.lean ====
section
/-! DEFINITION. The micro-ops (R123), each issued by its stream core, and the events of transfers and
knots that belong to them. -/

namespace Sys2Proof.Machine

open Sys2Proof

/-- NOP (R125). -/
def execNop (i : Issue) (f : CtlF) (s : State) : Ans :=
  done (Instr.nop i f).wf (issueUop i (.ctl .nop f) (onCluster (opNop · f)) s)

/-- LOOP (R126). -/
def execLoop (i : Issue) (f : CtlF) (s : State) : Ans :=
  done (Instr.loop i f).wf (issueUop i (.ctl .loop f) (onCluster (opLoop · f)) s)

/-- SETI (R125). -/
def execSeti (i : Issue) (f : CtlF) (s : State) : Ans :=
  done (Instr.seti i f).wf (issueUop i (.ctl .seti f) (onCluster (opSeti · f)) s)

/-- ALU (R125). -/
def execAlu (i : Issue) (f : CtlF) (s : State) : Ans :=
  done (Instr.alu i f).wf (issueUop i (.ctl .alu f) (onCluster (opAlu · f)) s)

/-- LDW (R125). -/
def execLdw (i : Issue) (f : CtlF) (s : State) : Ans :=
  done (Instr.ldw i f).wf (issueUop i (.ctl .ldw f) (onCluster (opLdw · f)) s)

/-- STW (R125). -/
def execStw (i : Issue) (f : CtlF) (s : State) : Ans :=
  done (Instr.stw i f).wf (issueUop i (.ctl .stw f) (onCluster (opStw · f)) s)

/-- MASK (R125, R127). -/
def execMask (i : Issue) (f : CtlF) (s : State) : Ans :=
  done (Instr.mask i f).wf (issueUop i (.ctl .mask f) (onCluster (opMask · f)) s)

/-- SYW (R128). -/
def execSyw (i : Issue) (f : CtlF) (s : State) : Ans :=
  done (Instr.syw i f).wf (issueUop i (.ctl .syw f) (onCluster (opSyw · f)) s)

/-- VLD (R136). -/
def execVld (i : Issue) (f : VecF) (s : State) : Ans :=
  done (Instr.vld i f).wf (issueUop i (.vec .vld f) (onCluster (opVld · f)) s)

/-- VST (R136). -/
def execVst (i : Issue) (f : VecF) (s : State) : Ans :=
  done (Instr.vst i f).wf (issueUop i (.vec .vst f) (onCluster (opVst · f)) s)

/-- VEW (R137). -/
def execVew (i : Issue) (f : VecF) (s : State) : Ans :=
  done (Instr.vew i f).wf (issueUop i (.vec .vew f) (onCluster (opVew · f)) s)

/-- VRD (R138). -/
def execVrd (i : Issue) (f : VecF) (s : State) : Ans :=
  done (Instr.vrd i f).wf (issueUop i (.vec .vrd f) (onCluster (opVrd · f)) s)

/-- VSF (R139). -/
def execVsf (i : Issue) (f : VecF) (s : State) : Ans :=
  done (Instr.vsf i f).wf (issueUop i (.vec .vsf f) (onCluster (opVsf · f)) s)

/-- VSMX (R140). -/
def execVsmx (i : Issue) (f : VecF) (s : State) : Ans :=
  done (Instr.vsmx i f).wf (issueUop i (.vec .vsmx f) (onCluster (opVsmx · f)) s)

/-- VNRM (R141). -/
def execVnrm (i : Issue) (f : VecF) (s : State) : Ans :=
  done (Instr.vnrm i f).wf (issueUop i (.vec .vnrm f) (onCluster (opVnrm · f)) s)

/-- VTOPK (R142). -/
def execVtopk (i : Issue) (f : VecF) (s : State) : Ans :=
  done (Instr.vtopk i f).wf (issueUop i (.vec .vtopk f) (onCluster (opVtopk · f)) s)

/-- VRNG (R147). -/
def execVrng (i : Issue) (f : VecF) (s : State) : Ans :=
  done (Instr.vrng i f).wf (issueUop i (.vec .vrng f) (onCluster (opVrng · f)) s)

/-- CVT (R143, R144). -/
def execCvt (i : Issue) (f : VecF) (s : State) : Ans :=
  done (Instr.cvt i f).wf (issueUop i (.vec .cvt f) (onCluster (opCvt · f)) s)

/-- VFLG (R145). -/
def execVflg (i : Issue) (f : VecF) (s : State) : Ans :=
  done (Instr.vflg i f).wf (issueUop i (.vec .vflg f) (onCluster (opVflg · f)) s)

/-- MTL (R100). -/
def execMtl (i : Issue) (f : MtlF) (s : State) : Ans :=
  done (Instr.mtl i f).wf (issueUop i (.mtl f) (onCluster (opMtl · f)) s)

/-- MMA (R103). -/
def execMma (i : Issue) (f : MmaF) (s : State) : Ans :=
  done (Instr.mma i f).wf (issueUop i (.mma f) (onCluster (opMma · f)) s)

/-- MDR (R108). -/
def execMdr (i : Issue) (f : MdrF) (s : State) : Ans :=
  done (Instr.mdr i f).wf (issueUop i (.mdr f) (onCluster (opMdr · f)) s)

/-- DMR (R150). -/
def execDmr (i : Issue) (f : DmF) (s : State) : Ans :=
  done (Instr.dmr i f).wf (issueUop i (.dm false f) (actDm false f) s)

/-- DMW (R150). -/
def execDmw (i : Issue) (f : DmF) (s : State) : Ans :=
  done (Instr.dmw i f).wf (issueUop i (.dm true f) (actDm true f) s)

/-- SSN (R152). -/
def execSsn (i : Issue) (f : FmF) (s : State) : Ans :=
  done (Instr.ssn i f).wf (issueUop i (.fm .ssn f) (onCluster (opSsn · f)) s)

/-- SRV (R152). -/
def execSrv (i : Issue) (f : FmF) (s : State) : Ans :=
  done (Instr.srv i f).wf (issueUop i (.fm .srv f) (actSrv f) s)

/-- FSN (R153). -/
def execFsn (i : Issue) (f : FmF) (s : State) : Ans :=
  done (Instr.fsn i f).wf (issueUop i (.fm .fsn f) (actFsn f) s)

/-- FRV (R153). -/
def execFrv (i : Issue) (f : FmF) (s : State) : Ans :=
  done (Instr.frv i f).wf (issueUop i (.fm .frv f) (actFrv f) s)

/-- KNOT (R155). -/
def execKnot (i : Issue) (kidx : BitVec 12) (s : State) : Ans :=
  done (Instr.knot i kidx).wf (issueUop i (.knot kidx) (actKnot kidx) s)

/-- SYW_SATISFIED (R122). -/
def execSywSatisfied (i : Issue) (s : State) : Ans := done (Instr.sywSatisfied i).wf (sywDone i s)

/-- FREE_MESSAGE_COMPLETE (R153). -/
def execFreeMessageComplete (rank clu sc idx : Nat) (s : State) : Ans :=
  done (Instr.freeMessageComplete rank clu sc idx).wf (freeComplete rank clu sc idx s)

/-- DIE_ARRIVAL (R155). -/
def execDieArrival (die : Nat) (s : State) : Ans := done (Instr.dieArrival die).wf (dieArrive die s)

end Sys2Proof.Machine
end

