-- ==== Sys2Proof/Machine/Dispatch.lean ====
section
/-! DEFINITION. The dispatch: each command of the table of operations and events to its meaning. -/

namespace Sys2Proof.Machine

open Sys2Proof

/-- The effect of a command on everything but the queue. -/
def exec (i : Instr) (s : State) : Host.Outcome State Fault Refusal :=
  match i with
  | .identify q => Sys2Proof.Machine.execIdentify q s
  | .statusRead q => Sys2Proof.Machine.execStatusRead q s
  | .interfaceCaps q => Sys2Proof.Machine.execInterfaceCaps q s
  | .licenceInstall q => Sys2Proof.Machine.execLicenceInstall q s
  | .licenceRead q => Sys2Proof.Machine.execLicenceRead q s
  | .patternStage q => Sys2Proof.Machine.execPatternStage q s
  | .patternCommit q => Sys2Proof.Machine.execPatternCommit q s
  | .patternStart q => Sys2Proof.Machine.execPatternStart q s
  | .patternStop q form => Sys2Proof.Machine.execPatternStop q form s
  | .weightsIntakeOpen q base len woff => Sys2Proof.Machine.execWeightsIntakeOpen q base len woff s
  | .weightsIntakeClose q => Sys2Proof.Machine.execWeightsIntakeClose q s
  | .setWrite q scope item count entries => Sys2Proof.Machine.execSetWrite q scope item count entries s
  | .setSwapAt q target => Sys2Proof.Machine.execSetSwapAt q target s
  | .setRead q die which item => Sys2Proof.Machine.execSetRead q die which item s
  | .modeSet q mode => Sys2Proof.Machine.execModeSet q mode s
  | .powerCapSet q cap => Sys2Proof.Machine.execPowerCapSet q cap s
  | .powerRead q => Sys2Proof.Machine.execPowerRead q s
  | .coolantReport q tmem tcmp => Sys2Proof.Machine.execCoolantReport q tmem tcmp s
  | .thermalRead q => Sys2Proof.Machine.execThermalRead q s
  | .healthRead q scope port index => Sys2Proof.Machine.execHealthRead q scope port index s
  | .darnRead q => Sys2Proof.Machine.execDarnRead q s
  | .repairPolicySet q impaired scoremin repeats => Sys2Proof.Machine.execRepairPolicySet q impaired scoremin repeats s
  | .siteRetire q course wale => Sys2Proof.Machine.execSiteRetire q course wale s
  | .faultLogRead q first max => Sys2Proof.Machine.execFaultLogRead q first max s
  | .flagsRead q => Sys2Proof.Machine.execFlagsRead q s
  | .flagsClear q mask => Sys2Proof.Machine.execFlagsClear q mask s
  | .tenantConfigure q cfg => Sys2Proof.Machine.execTenantConfigure q cfg s
  | .tenantReset q tenant => Sys2Proof.Machine.execTenantReset q tenant s
  | .shaperSet q tenant shaper rate depth => Sys2Proof.Machine.execShaperSet q tenant shaper rate depth s
  | .sessionExport q handle => Sys2Proof.Machine.execSessionExport q handle s
  | .sessionImport q tenant => Sys2Proof.Machine.execSessionImport q tenant s
  | .tailLogRead q handle first => Sys2Proof.Machine.execTailLogRead q handle first s
  | .roundFence q action => Sys2Proof.Machine.execRoundFence q action s
  | .resetFabric q => Sys2Proof.Machine.execResetFabric q s
  | .resetWarm q => Sys2Proof.Machine.execResetWarm q s
  | .bindOff q round sess => Sys2Proof.Machine.execBindOff q round sess s
  | .timeRead q => Sys2Proof.Machine.execTimeRead q s
  | .timerArm q timer action target => Sys2Proof.Machine.execTimerArm q timer action target s
  | .linkRead q die port => Sys2Proof.Machine.execLinkRead q die port s
  | .linkRetrain q die port form => Sys2Proof.Machine.execLinkRetrain q die port form s
  | .memoryScrubSet q period rebuild course col => Sys2Proof.Machine.execMemoryScrubSet q period rebuild course col s
  | .memoryStatus q => Sys2Proof.Machine.execMemoryStatus q s
  | .firmwareStage q => Sys2Proof.Machine.execFirmwareStage q s
  | .firmwareActivate q when_ => Sys2Proof.Machine.execFirmwareActivate q when_ s
  | .mailboxTakeUp env => Sys2Proof.Machine.execMailboxTakeUp env s
  | .ringOpen r d => Sys2Proof.Machine.execRingOpen r d s
  | .ringAppend r d => Sys2Proof.Machine.execRingAppend r d s
  | .ringStep r d => Sys2Proof.Machine.execRingStep r d s
  | .ringDraft r d => Sys2Proof.Machine.execRingDraft r d s
  | .ringCancel r d => Sys2Proof.Machine.execRingCancel r d s
  | .ringClose r d => Sys2Proof.Machine.execRingClose r d s
  | .ringPark r d => Sys2Proof.Machine.execRingPark r d s
  | .ringUnpark r d => Sys2Proof.Machine.execRingUnpark r d s
  | .doorbellWrite fn pair tail head => Sys2Proof.Machine.execDoorbellWrite fn pair tail head s
  | .tokenArrayArrived tenant usertag toks => Sys2Proof.Machine.execTokenArrayArrived tenant usertag toks s
  | .intCauseClear fn mask => Sys2Proof.Machine.execIntCauseClear fn mask s
  | .registerWrite fn off data => Sys2Proof.Machine.execRegisterWrite fn off data s
  | .misalignedAccess fn off len write => Sys2Proof.Machine.execMisalignedAccess fn off len write s
  | .pairLoRead fn off len => Sys2Proof.Machine.execPairLoRead fn off len s
  | .busMasterEnable fn en => Sys2Proof.Machine.execBusMasterEnable fn en s
  | .hostPortReset port kind => Sys2Proof.Machine.execHostPortReset port kind s
  | .vfFlr vf => Sys2Proof.Machine.execVfFlr vf s
  | .apertureWrite off data => Sys2Proof.Machine.execApertureWrite off data s
  | .apertureRead off len => Sys2Proof.Machine.execApertureRead off len s
  | .nop ix f => Sys2Proof.Machine.execNop ix f s
  | .loop ix f => Sys2Proof.Machine.execLoop ix f s
  | .seti ix f => Sys2Proof.Machine.execSeti ix f s
  | .alu ix f => Sys2Proof.Machine.execAlu ix f s
  | .ldw ix f => Sys2Proof.Machine.execLdw ix f s
  | .stw ix f => Sys2Proof.Machine.execStw ix f s
  | .mask ix f => Sys2Proof.Machine.execMask ix f s
  | .syw ix f => Sys2Proof.Machine.execSyw ix f s
  | .sywSatisfied ix => Sys2Proof.Machine.execSywSatisfied ix s
  | .vld ix f => Sys2Proof.Machine.execVld ix f s
  | .vst ix f => Sys2Proof.Machine.execVst ix f s
  | .vew ix f => Sys2Proof.Machine.execVew ix f s
  | .vrd ix f => Sys2Proof.Machine.execVrd ix f s
  | .vsf ix f => Sys2Proof.Machine.execVsf ix f s
  | .vsmx ix f => Sys2Proof.Machine.execVsmx ix f s
  | .vnrm ix f => Sys2Proof.Machine.execVnrm ix f s
  | .vtopk ix f => Sys2Proof.Machine.execVtopk ix f s
  | .vrng ix f => Sys2Proof.Machine.execVrng ix f s
  | .cvt ix f => Sys2Proof.Machine.execCvt ix f s
  | .vflg ix f => Sys2Proof.Machine.execVflg ix f s
  | .mtl ix f => Sys2Proof.Machine.execMtl ix f s
  | .mma ix f => Sys2Proof.Machine.execMma ix f s
  | .mdr ix f => Sys2Proof.Machine.execMdr ix f s
  | .dmr ix f => Sys2Proof.Machine.execDmr ix f s
  | .dmw ix f => Sys2Proof.Machine.execDmw ix f s
  | .ssn ix f => Sys2Proof.Machine.execSsn ix f s
  | .srv ix f => Sys2Proof.Machine.execSrv ix f s
  | .fsn ix f => Sys2Proof.Machine.execFsn ix f s
  | .frv ix f => Sys2Proof.Machine.execFrv ix f s
  | .knot ix kidx => Sys2Proof.Machine.execKnot ix kidx s
  | .dmTransferComplete rank clu sc idx => Sys2Proof.Machine.execDmTransferComplete rank clu sc idx s
  | .freeMessageComplete rank clu sc idx => Sys2Proof.Machine.execFreeMessageComplete rank clu sc idx s
  | .dieArrival die => Sys2Proof.Machine.execDieArrival die s
  | .stitchStart die => Sys2Proof.Machine.execStitchStart die s
  | .holdLine die left => Sys2Proof.Machine.execHoldLine die left s
  | .mark die count phaseErr => Sys2Proof.Machine.execMark die count phaseErr s
  | .syncFrameReceive die frame => Sys2Proof.Machine.execSyncFrameReceive die frame s
  | .tbu rank clu => Sys2Proof.Machine.execTbu rank clu s
  | .tbs => Sys2Proof.Machine.execTbs s
  | .extend quantum => Sys2Proof.Machine.execExtend quantum s
  | .report die => Sys2Proof.Machine.execReport die s
  | .freq die => Sys2Proof.Machine.execFreq die s
  | .freeze point => Sys2Proof.Machine.execFreeze point s
  | .freezePoint => Sys2Proof.Machine.execFreezePoint s
  | .release die => Sys2Proof.Machine.execRelease die s
  | .resume point => Sys2Proof.Machine.execResume point s
  | .resumePoint => Sys2Proof.Machine.execResumePoint s
  | .arrive die kidx => Sys2Proof.Machine.execArrive die kidx s
  | .fire k kidx env => Sys2Proof.Machine.execFire k kidx env s
  | .sectionStart => Sys2Proof.Machine.execSectionStart s
  | .knotTimeout => Sys2Proof.Machine.execKnotTimeout s
  | .fault die code => Sys2Proof.Machine.execFault die code s
  | .abort cause failed => Sys2Proof.Machine.execAbort cause failed s
  | .idleSnapshot => Sys2Proof.Machine.execIdleSnapshot s
  | .pageWaitTimeout tenant usertag => Sys2Proof.Machine.execPageWaitTimeout tenant usertag s
  | .parkCopyDone index => Sys2Proof.Machine.execParkCopyDone index s
  | .unparkDone index => Sys2Proof.Machine.execUnparkDone index s
  | .parkTransferFail index poison => Sys2Proof.Machine.execParkTransferFail index poison s
  | .parkPortDown port => Sys2Proof.Machine.execParkPortDown port s
  | .setFlitForward die port slot f => Sys2Proof.Machine.execSetFlitForward die port slot f s
  | .setFlitLanding rank slot f => Sys2Proof.Machine.execSetFlitLanding rank slot f s
  | .freeFlitRoute die slot => Sys2Proof.Machine.execFreeFlitRoute die slot s
  | .freeFlitAck die drank dclass recs ece => Sys2Proof.Machine.execFreeFlitAck die drank dclass recs ece s
  | .ackTimer die srank msg => Sys2Proof.Machine.execAckTimer die srank msg s
  | .retransmitTimeout die msg off => Sys2Proof.Machine.execRetransmitTimeout die msg off s
  | .controlPacket die port bytes => Sys2Proof.Machine.execControlPacket die port bytes s
  | .controlResend die port seq => Sys2Proof.Machine.execControlResend die port seq s
  | .syncPathSwitch die => Sys2Proof.Machine.execSyncPathSwitch die s
  | .timingLinkLost die loss => Sys2Proof.Machine.execTimingLinkLost die loss s
  | .nack die => Sys2Proof.Machine.execNack die s
  | .swap target => Sys2Proof.Machine.execSwap target s
  | .withhold target => Sys2Proof.Machine.execWithhold target s
  | .armAnswer die ready => Sys2Proof.Machine.execArmAnswer die ready s
  | .armTimeout => Sys2Proof.Machine.execArmTimeout s
  | .swapAtTarget => Sys2Proof.Machine.execSwapAtTarget s
  | .timerFire fn timer => Sys2Proof.Machine.execTimerFire fn timer s
  | .axustFrameReceive die port frame => Sys2Proof.Machine.execAxustFrameReceive die port frame s
  | .replayTimeout die port due => Sys2Proof.Machine.execReplayTimeout die port due s
  | .linkFault die port env rep => Sys2Proof.Machine.execLinkFault die port env rep s
  | .rawFlitReceive die port payload header tail => Sys2Proof.Machine.execRawFlitReceive die port payload header tail s
  | .retrainRequest die port kind met => Sys2Proof.Machine.execRetrainRequest die port kind met s
  | .keepaliveLost die port => Sys2Proof.Machine.execKeepaliveLost die port s
  | .standbyCheck die port found => Sys2Proof.Machine.execStandbyCheck die port found s
  | .memRead paddr rank cls read => Sys2Proof.Machine.execMemRead paddr rank cls read s
  | .memWrite paddr mask data => Sys2Proof.Machine.execMemWrite paddr mask data s
  | .stackOut course col cause env => Sys2Proof.Machine.execStackOut course col cause env s
  | .scrubVisit visit => Sys2Proof.Machine.execScrubVisit visit s
  | .refreshRateChange course col temp => Sys2Proof.Machine.execRefreshRateChange course col temp s
  | .stackRebuildDone course col => Sys2Proof.Machine.execStackRebuildDone course col s
  | .coldReset env => Sys2Proof.Machine.execColdReset env s
  | .panelRstAssert => Sys2Proof.Machine.execPanelRstAssert s
  | .warmReset env => Sys2Proof.Machine.execWarmReset env s
  | .coursePowerTimeout course => Sys2Proof.Machine.execCoursePowerTimeout course s
  | .backoffExpiry env => Sys2Proof.Machine.execBackoffExpiry env s
  | .flashHandoverTimeout => Sys2Proof.Machine.execFlashHandoverTimeout s
  | .anchorTakeover cause => Sys2Proof.Machine.execAnchorTakeover cause s
  | .herusBindOff => Sys2Proof.Machine.execHerusBindOff s
  | .clusterOvercurrent course wale clu env => Sys2Proof.Machine.execClusterOvercurrent course wale clu env s
  | .regulatorFault course wale clu kind env => Sys2Proof.Machine.execRegulatorFault course wale clu kind env s
  | .dieSilent course wale env => Sys2Proof.Machine.execDieSilent course wale env s
  | .courseLoss course cause env => Sys2Proof.Machine.execCourseLoss course cause env s
  | .healthScoring minute => Sys2Proof.Machine.execHealthScoring minute s
  | .pwrWarnAssert => Sys2Proof.Machine.execPwrWarnAssert s
  | .pwrWarnDeassert => Sys2Proof.Machine.execPwrWarnDeassert s
  | .forcedLeanPoint => Sys2Proof.Machine.execForcedLeanPoint s
  | .pwrGoodDeassert course ns railsOk env => Sys2Proof.Machine.execPwrGoodDeassert course ns railsOk env s
  | .courseCurrentLimit course m env => Sys2Proof.Machine.execCourseCurrentLimit course m env s
  | .memoryRailFault course rail env => Sys2Proof.Machine.execMemoryRailFault course rail env s
  | .ringSupplyLoss => Sys2Proof.Machine.execRingSupplyLoss s
  | .refclkLoss die => Sys2Proof.Machine.execRefclkLoss die s
  | .marginTrim warns => Sys2Proof.Machine.execMarginTrim warns s
  | .capControl d => Sys2Proof.Machine.execCapControl d s
  | .throttleStep temps raise => Sys2Proof.Machine.execThrottleStep temps raise s
  | .thermalTrip die temp => Sys2Proof.Machine.execThermalTrip die temp s
  | .resistanceMeasure compPower memPower hotC hotM steadyC steadyM => Sys2Proof.Machine.execResistanceMeasure compPower memPower hotC hotM steadyC steadyM s
  | .thermalCycleSample temps => Sys2Proof.Machine.execThermalCycleSample temps s
  | .healthFlashWrite => Sys2Proof.Machine.execHealthFlashWrite s
  | .setEndpointId eid => Sys2Proof.Machine.execSetEndpointId eid s
  | .getEndpointId => Sys2Proof.Machine.execGetEndpointId s
  | .getMctpVersionSupport => Sys2Proof.Machine.execGetMctpVersionSupport s
  | .getMessageTypeSupport => Sys2Proof.Machine.execGetMessageTypeSupport s
  | .getState => Sys2Proof.Machine.execGetState s
  | .getPower => Sys2Proof.Machine.execGetPower s
  | .getTime => Sys2Proof.Machine.execGetTime s
  | .getFault => Sys2Proof.Machine.execGetFault s
  | .coolant tmem tcmp => Sys2Proof.Machine.execCoolant tmem tcmp s
  | .bypass tdi => Sys2Proof.Machine.execBypass tdi s
  | .samplePreload pins => Sys2Proof.Machine.execSamplePreload pins s
  | .extest pins => Sys2Proof.Machine.execExtest pins s
  | .pwrGoodAssert course => Sys2Proof.Machine.execPwrGoodAssert course s
  | .hostPerstNDeassert port => Sys2Proof.Machine.execHostPerstNDeassert port s
  | .standbyAnchorFailure => Sys2Proof.Machine.execStandbyAnchorFailure s
  | .soleAnchorFailure => Sys2Proof.Machine.execSoleAnchorFailure s
  | .thermAlertChange env => Sys2Proof.Machine.execThermAlertChange env s
  | .hostMemoryReadFailed r => Sys2Proof.Machine.execHostMemoryReadFailed r s
  | .vfEnableChange enable numvfs => Sys2Proof.Machine.execVfEnableChange enable numvfs s

end Sys2Proof.Machine
end

