-- ==== Sys2Proof/Safety.lean ====
section
/-! DEFINITION. The terms in which claims about the panel are stated: what counts as a safe run, and the conditions under
which a command has its whole effect. -/

namespace Sys2Proof.Machine

open Sys2Proof

/-! ## Safe runs -/

/-- A state is sound when panel memory is in its canonical form and no pending command is ill-formed. -/
def State.sound (s : State) : Prop := Memory.wf s.pmem.data ∧ s.pending.all Instr.wf = true

/-- A run of `n` steps from a state is safe when none of its steps ends in a fault or a refusal. -/
def safeRun : Nat → State → Prop
  | 0, _ => True
  | n + 1, s => ∃ t, step s = .next t ∧ safeRun n t

/-! ## Micro-ops -/

/-- The issuing cluster once the core has moved past its micro-op. -/
def movedOn (i : Issue) (s : State) : Cluster :=
  cluSetCore (issueClu i s) i.sc (coreIssued (cluCore (issueClu i s) i.sc) (issueCtx i s).now)

/-- The state with another issuing cluster; nothing else differs. -/
def withIssue (i : Issue) (c : Cluster) (s : State) : State := modClu (issueCtx i s).die i.clu (fun _ => c) s

/-- The issuing core, past its micro-op. -/
def movedCore (i : Issue) (s : State) : Core := cluCore (movedOn i s) i.sc

/-- The budgeted cycle of issue. -/
def issueNow (i : Issue) (s : State) : Nat := (issueCtx i s).now

/-- The command by which a place issues a micro-op. -/
def uopCommand (i : Issue) : Uop → Instr
  | .ctl .nop f => .nop i f
  | .ctl .loop f => .loop i f
  | .ctl .seti f => .seti i f
  | .ctl .alu f => .alu i f
  | .ctl .ldw f => .ldw i f
  | .ctl .stw f => .stw i f
  | .ctl .mask f => .mask i f
  | .ctl .syw f => .syw i f
  | .vec .vld f => .vld i f
  | .vec .vst f => .vst i f
  | .vec .vew f => .vew i f
  | .vec .vrd f => .vrd i f
  | .vec .vsf f => .vsf i f
  | .vec .vsmx f => .vsmx i f
  | .vec .vnrm f => .vnrm i f
  | .vec .vtopk f => .vtopk i f
  | .vec .vrng f => .vrng i f
  | .vec .cvt f => .cvt i f
  | .vec .vflg f => .vflg i f
  | .mtl f => .mtl i f
  | .mma f => .mma i f
  | .mdr f => .mdr i f
  | .dm false f => .dmr i f
  | .dm true f => .dmw i f
  | .fm .ssn f => .ssn i f
  | .fm .srv f => .srv i f
  | .fm .fsn f => .fsn i f
  | .fm .frv f => .frv i f
  | .knot k => .knot i k

/-- The command of a micro-op is well formed, and its micro-op is the one that the issuing core's store holds at the core's place
(R1, R120). -/
def placed (i : Issue) (u : Uop) (s : State) : Prop := (uopCommand i u).wf = true ∧ stored i u s = true

/-! ## Mailbox requests -/

/-- A request of a function reaches Herus: its port is up, the function exists, no request of it is outstanding, and Herus runs
(R411, R412, R462). -/
def reachesHerus (q : MbReq) (s : State) : Prop :=
  fnReached s q.fn = true ∧ (fnOf s q.fn).mb.own = false ∧ herusUp s = true

/-- The state in which Herus has taken a request up (R408, R411, R417, R419): the request area and the tag are written, OWN and TAKEN are
set, the function is the one served last in its class, and the backlog suspends or resumes scoring. -/
def takenUp (op : Nat) (q : MbReq) (l : List (Nat × List Byte)) (s : State) : State :=
  { s with
    fns := tabMod {} s.fns q.fn fun x => { x with mb := { x.mb with
      req := wordsOf (reqBytes op q l), tag := q.tag, own := true, taken := true, cls := classOf op } }
    served := tabPut 64 s.served (classOf op) q.fn
    hlt := { s.hlt with
      stale := if 1000 < q.env.wait then true else if q.env.wait < 250 then false else s.hlt.stale } }

/-- The state in which a request stands in its function's mailbox (R408, R411): the request area and the tag are written, and OWN is set. -/
def submitted (op : Nat) (q : MbReq) (l : List (Nat × List Byte)) (s : State) : State :=
  { s with
    fns := tabMod {} s.fns q.fn fun x => { x with mb := { x.mb with
      req := wordsOf (reqBytes op q l), tag := q.tag, own := true, taken := false, cls := classOf op } } }

/-- A request that reaches Herus, is the one taken up next (R417), and passes the checks of R421. -/
def accepted (op : Nat) (q : MbReq) (l : List (Nat × List Byte)) (s : State) : Prop :=
  reachesHerus q s ∧ nextUp (submitted op q l s) = some q.fn ∧ checkReq q op (params l) (takenUp op q l s) = none

/-- The answer of a command that completes with a response: the response is written, and the panel's own duties follow. -/
def answers (op : Nat) (q : MbReq) (r : Rsp) (s : State) : Ans := .next (duties (respond op q r s))

/-- The answer of a command that stays outstanding. -/
def waits (s : State) : Ans := .next (duties s)

/-- The panel has nothing of its own to do: no long command waits, no bind-off, planned repair, swap or tenant reset is under way. -/
def quiet (s : State) : Prop :=
  (∀ f, (fnOf s f).mb.long = none) ∧ s.boot.binding = none ∧ s.hlt.planned = [] ∧ s.swp = none ∧
    ∀ p ∈ s.ten, p.2.resetting = false

end Sys2Proof.Machine
end

