-- ==== Sys2Proof/Certificates/Slice0/Obligations.lean ====
section
/-! DEFINITION. The statements about the panel for the provers.  Each is a proposition; nothing is proved here. -/

open Sys2Proof Sys2Proof.Machine

/-! ## The block as a whole -/

/-- A step is the command at the front of the queue run on the state with the queue's rest; on an empty queue the panel idles (log entry 7). -/
def Obligations.FrontCommand : Prop :=
  (∀ (s : State) (c : Instr) (q : List Instr), s.pending = c :: q → step s = exec c { s with pending := q }) ∧
  ∀ s : State, s.pending = [] → step s = .next s

/-- What reset leaves (R474, R410, R334, R337, R441, R439, R387, R391, R160, R326): the boot registers at their reset values, every mailbox
without a request and with RSPTAG 0xFFFF_FFFF, every session FREE in generation 1, no fault record, the default repair policy, every tenant
with its default parameters, stitch count and epoch 0, panel memory reading as 0 without poison; and the state is sound. -/
def Obligations.ResetState : Prop :=
  let s := State.reset
  State.sound s ∧ s.pending = [] ∧
  panelWord s 0x100004 = 0 ∧ panelWord s 0x100008 = 0x00010000 ∧ panelWord s 0x10000C = 0xFF000000 ∧
  (∀ f, (fnOf s f).mb.own = false ∧ (fnOf s f).mb.tag = 0 ∧ (fnOf s f).mb.rsptag = 0xFFFFFFFF ∧ (fnOf s f).mb.head = 0 ∧
    (fnOf s f).mb.tail = 0 ∧ (fnOf s f).mb.lost = 0) ∧
  (∀ i, (sessOf s i).state = .free ∧ (sessOf s i).gen = 1) ∧
  s.flog.recs = [] ∧ s.flog.next = 0 ∧ s.hlt.impaired = 0 ∧ s.hlt.scoreMin = 0 ∧ s.hlt.repeats = 4 ∧
  (∀ t, (tenOf s t).quota = 0 ∧ (tenOf s t).age = 0 ∧ (tenOf s t).win.len = 0 ∧ (∀ p, (ringOf s t p).en = false) ∧
    (tenOf s t).prompt.rate = 0xFFFFFFFF ∧ (tenOf s t).prompt.depth = 1048576 ∧
    (tenOf s t).gener.rate = 0xFFFFFFFF ∧ (tenOf s t).gener.depth = 1048576) ∧
  (∀ d, (dieOf s d).count = 0 ∧ (dieOf s d).epoch = 0) ∧
  (∀ a, memGet s.pmem.data a = 0) ∧ ∀ u, poisonOf s u = 0

/-- A command whose operands no part of the panel can have is refused as ill-formed; a well-formed command answers a next state: none faults and
none is refused. -/
def Obligations.RefusalsAndFaults : Prop :=
  ∀ (c : Instr) (s : State),
    (c.wf = false → exec c s = .refused .illFormed) ∧
    (c.wf = true → ∃ t, exec c s = .next t)

/-- Every step keeps the state sound: panel memory stays in its canonical form and no ill-formed command comes into the queue. -/
def Obligations.SoundnessKept : Prop :=
  ∀ s t : State, State.sound s → step s = .next t → State.sound t

/-! ## Descriptors (chapters 03 and 04) -/

/-- A micro-op written as a descriptor (R99, R102, R107, R124, R135, R149, R151, R154) is read back as itself, and a descriptor that is read as
a micro-op is the one that this micro-op is written as, so a RSVD field that is not 0 is refused (R20). -/
def Obligations.DescriptorRoundTrip : Prop :=
  (∀ u : Uop, decodeUop (encodeUop u) = some u) ∧ ∀ (b : BitVec 128) (u : Uop), decodeUop b = some u → encodeUop u = b

/-! ## Formats (chapter 02) -/

/-- Special codes of MX elements (R48, R49). An MXINT8 code is a two's-complement integer in units of 2^-6, 0x80 being -2.0, and no convert
writes 0x80: a negative element is at least -127. An E4M3 or E5M2 NaN reads as zero with the invalid flag, an E5M2 infinity as plus or minus
57,344 with the overflow flag, a negative-zero code of any format as zero, and no other code sets a flag. -/
def Obligations.SpecialElements : Prop :=
  (elemQ .mxint8 = -6 ∧ (∀ code, code < 256 → elemSig .mxint8 code = ((BitVec.ofNat 8 code).toInt, 0)) ∧
    elemSig .mxint8 0x80 = (-128, 0)) ∧
  (∀ (rtz : Bool) (x : Int) (d : Dy), -127 ≤ (BitVec.ofNat 8 (encElem .mxint8 rtz x d).1).toInt) ∧
  (∀ (fit rtz : Bool) (l : List W32), 0x80 ∉ (encBlock .mxint8 fit rtz l).2.1) ∧
  (∀ code, code ∈ [0x7F, 0xFF] → elemSig .e4m3 code = (0, flagIv)) ∧
  (∀ code, code ∈ [0x7D, 0x7E, 0x7F, 0xFD, 0xFE, 0xFF] → elemSig .e5m2 code = (0, flagIv)) ∧
  elemQ .e5m2 = -16 ∧ elemSig .e5m2 0x7C = (57344 * 2 ^ 16, flagOv) ∧ elemSig .e5m2 0xFC = (-57344 * 2 ^ 16, flagOv) ∧
  elemSig .e2m1 0x8 = (0, 0) ∧ elemSig .e2m3 0x20 = (0, 0) ∧ elemSig .e3m2 0x20 = (0, 0) ∧ elemSig .e4m3 0x80 = (0, 0) ∧
  elemSig .e5m2 0x80 = (0, 0) ∧
  (∀ fm code, code < 2 ^ elemW fm → (elemSig fm code).2 ≠ 0 →
    fm = .e4m3 ∧ code % 128 = 0x7F ∨ fm = .e5m2 ∧ 0x7C ≤ code % 128)

/-! ## Micro-ops (chapters 03 and 04) -/

/-- Micro-ops that do not have their whole effect (R1, R34, R42, R120, R122, R125, R126, R130, R133, R229). One that cannot issue in its cycle,
or that is not the one its core's store holds at the core's place, changes nothing; LDW, STW or MASK at an address outside the core's
windows raises ADR with kind 0 and the word address, and one whose bank is claimed raises BCL, with no other effect than that the core moves
on; LOOP with a register count above IMM raises ADR with kind 2 and skips its body. -/
def Obligations.MicroOpFaults : Prop :=
  ∀ (i : Issue) (s : State),
    (∀ u, (uopCommand i u).wf = true → (issues i s && stored i u s) = false → exec (uopCommand i u) s = .next s) ∧
    (issues i s = true →
      let c := movedOn i s
      let k := movedCore i s
      let n := issueNow i s
      let fails := fun (pf : Pf) (c : Cluster) =>
        addPatFault (issueCtx i s).die (uopFault s (issueCtx i s) (cluCore (issueClu i s) i.sc).uop pf) (withIssue i c s)
      ∀ f : CtlF,
        let w := (f.waddr.toNat + (coreIdx k f.ixa.toNat).toNat) % 2 ^ 32
        (placed i (.ctl .ldw f) s →
          (bytesOk k false (w * 4) 4 = false → exec (.ldw i f) s = .next (fails (pfAdr 0 w) c)) ∧
          (bytesOk k false (w * 4) 4 = true → ∀ pf, claimAll i.sc ((granulesOf (w * 4) 4).map fun g => (n, g)) c.claims = .inr pf →
            exec (.ldw i f) s = .next (fails pf c))) ∧
        (placed i (.ctl .stw f) s →
          (bytesOk k true (w * 4) 4 = false → exec (.stw i f) s = .next (fails (pfAdr 0 w) c)) ∧
          (bytesOk k true (w * 4) 4 = true → ∀ pf, claimAll i.sc ((granulesOf (w * 4) 4).map fun g => (n + 2, g)) c.claims = .inr pf →
            exec (.stw i f) s = .next (fails pf c))) ∧
        (placed i (.ctl .mask f) s →
          (bytesOk k false (w * 4) 1024 = false → exec (.mask i f) s = .next (fails (pfAdr 0 w) c)) ∧
          (bytesOk k false (w * 4) 1024 = true →
            ∀ pf, claimAll i.sc ((granulesOf (w * 4) 1024).map fun g => (n, g)) c.claims = .inr pf →
            exec (.mask i f) s = .next (fails pf c))) ∧
        (placed i (.ctl .loop f) s → f.srca ≠ 0 → f.imm.toNat < (coreIdx k f.srca.toNat).toNat →
          let next := advance (k.uop - 1 + f.body.toNat) k.loops
          exec (.loop i f) s = .next (fails (pfAdr 2 (coreIdx k f.srca.toNat).toNat)
            (cluSetCore c i.sc { k with uop := next.1, loops := next.2 }))))

/-- NOP, SETI, ALU, LDW, STW and MASK, issued (R122, R125): the issuing core moves on, NOP does nothing else, and the others have the effects of
R125: SETI and ALU write an index register that can be read one cycle later, LDW four cycles later, STW writes the word's bytes
little-endian into cluster memory, seen from issue + 3, MASK compares 256 words of 4 bytes into a row mask that is sampled from the seventh
cycle on (R127: six cycles of latency, and not in the cycle in which it becomes readable). LDW, STW and MASK run so where the address lies
in a window of the core and no bank is claimed twice. Only the issuing cluster changes.  Completion is stated for: nop, seti, alu, ldw, stw,
mask. -/
def Obligations.ControlMicroOps : Prop :=
  ∀ (i : Issue) (f : CtlF) (s : State), issues i s = true →
    let c := movedOn i s
    let k := movedCore i s
    let n := issueNow i s
    let b := coreIdx k f.srcb.toNat + f.imm
    let a := (f.waddr.toNat + (coreIdx k f.ixa.toNat).toNat) % 2 ^ 32 * 4
    let pend := fun (c : Cluster) (cyc : Nat) (e : Eff) => withIssue i (cluPend c [{ cycle := cyc, eff := e }]) s
    (placed i (.ctl .nop f) s → exec (.nop i f) s = .next (withIssue i c s)) ∧
    (placed i (.ctl .seti f) s → exec (.seti i f) s = .next (pend c (n + 1) (.idx i.sc f.dst.toNat f.imm))) ∧
    (placed i (.ctl .alu f) s →
      exec (.alu i f) s = .next (pend c (n + 1) (.idx i.sc f.dst.toNat (aluOp f.subop.toNat (coreIdx k f.srca.toNat) b)))) ∧
    (placed i (.ctl .ldw f) s → bytesOk k false a 4 = true →
      ∀ cl, claimAll i.sc ((granulesOf a 4).map fun g => (n, g)) c.claims = .inl cl →
        exec (.ldw i f) s = .next (pend { c with claims := cl } (n + 4) (.idx i.sc f.dst.toNat (memWord c.mem a)))) ∧
    (placed i (.ctl .stw f) s → bytesOk k true a 4 = true →
      ∀ cl, claimAll i.sc ((granulesOf a 4).map fun g => (n + 2, g)) c.claims = .inl cl →
        exec (.stw i f) s = .next (pend { c with claims := cl } (n + 3)
          (.mem (cellsAt a (natLe 4 (coreIdx k f.srca.toNat).toNat))))) ∧
    (placed i (.ctl .mask f) s → bytesOk k false a 1024 = true →
      ∀ cl, claimAll i.sc ((granulesOf a 1024).map fun g => (n, g)) c.claims = .inl cl →
        exec (.mask i f) s = .next (pend { c with claims := cl } (n + 7) (.mask i.sc f.dst.toNat
          (BitVec.ofNat 256 (bitsNat ((List.range 256).map fun j => maskCmp f.subop.toNat (memWord c.mem (a + 4 * j)) b))))))

/-- LOOP (R126) and SYW (R122, R128), issued: LOOP with a pass count of 0 skips its body, else pushes a frame of BODY descriptors with count - 1
passes to come, where a count held in a register is not above IMM; the stack has four levels (R117), and a fifth, which staging refuses,
pushes the outermost out (the model's choice, log entry 129). SYW with the counter at IMM or more takes IMM from the counter, else pauses
its core and, in a set section, stops the whole cluster at the reference count of the cycle and counts a freeze request. Only the issuing
cluster changes.  Completion is stated for: loop, syw. -/
def Obligations.LoopAndSync : Prop :=
  ∀ (i : Issue) (f : CtlF) (s : State), issues i s = true →
    let c := movedOn i s
    let k := movedCore i s
    let n := if f.srca = 0 then f.imm else coreIdx k f.srca.toNat
    let next := advance (k.uop - 1 + f.body.toNat) k.loops
    let set := fun (g : Core) => withIssue i (cluSetCore c i.sc g) s
    (placed i (.ctl .loop f) s → n = 0 →
      exec (.loop i f) s = .next (set { k with uop := next.1, loops := next.2 })) ∧
    (placed i (.ctl .loop f) s → n ≠ 0 → (f.srca = 0 ∨ n.toNat ≤ f.imm.toNat) →
      exec (.loop i f) s = .next (set { k with
        loops := ({ first := k.uop, len := f.body.toNat, left := n.toNat - 1 } :: k.loops).take 4 })) ∧
    (placed i (.ctl .syw f) s → f.imm.toNat ≤ (coreCt k f.srca.toNat).toNat →
      exec (.syw i f) s = .next (set (coreSetCt k f.srca.toNat (coreCt k f.srca.toNat - f.imm)))) ∧
    (placed i (.ctl .syw f) s → (coreCt k f.srca.toNat).toNat < f.imm.toNat →
      let p := cluSetCore c i.sc { k with paused := some (f.srca.toNat, f.imm) }
      exec (.syw i f) s = .next (withIssue i (if inSetSection s
        then { p with pausedSet := true, freezeReqs := p.freezeReqs + 1, pausedAt := cycleRef s (issueCtx i s).die i.cyc } else p) s))

/-- The vector micro-ops that keep to the registers (R137 to R141), issued on a free vector unit in a cycle without a drain: VEW, VRD, VSF, VSMX
and VNRM occupy the unit for one cycle and write their lanes, with the flags they raised, after the latency of R148: VEW 4 cycles (8 for
FMA), VRD 12 for SCAN, 8 for FIRST and ARGMAX and 10 for SUM, MAX and MIN, VSF 14, VSMX 20, VNRM 12 for SSQ and 8 for SCALE. Only the
issuing cluster changes.  Completion is stated for: vew, vrd, vsf, vsmx, vnrm. -/
def Obligations.VectorRegisters : Prop :=
  ∀ (i : Issue) (f : VecF) (s : State), issues i s = true →
    let x := issueCtx i s
    let c := movedOn i s
    let k := movedCore i s
    let out := fun (lat : Nat) (l : List (Nat × W32)) (fl : Flags) =>
      withIssue i (vecOut x lat f.dst.toNat l fl (vecOccupy x 1 c)) s
    vecGate x c = none →
    (placed i (.vec .vew f) s →
      let r := vecMap f (vewLane k f)
      exec (.vew i f) s = .next (out (if f.func = 3 then 8 else 4) r.1 r.2)) ∧
    (placed i (.vec .vrd f) s → f.func = 3 →
      let r := vrdScan f.type.toNat none ((List.range (vecN f)).map (vecA k f))
      exec (.vrd i f) s = .next (out 12 (r.zipIdx.map fun p => (p.2, p.1.1)) (flagsUnion (r.map Prod.snd)))) ∧
    (placed i (.vec .vrd f) s → f.func = 4 → exec (.vrd i f) s = .next (out 8 [(0, vrdFirst k f)] 0)) ∧
    (placed i (.vec .vrd f) s → f.func = 5 →
      exec (.vrd i f) s = .next (out 8 [(0, (vrdArgmax k f).1)] (vrdArgmax k f).2)) ∧
    (placed i (.vec .vrd f) s → f.func.toNat ≤ 2 →
      exec (.vrd i f) s = .next (out 10 [(0, (vrdReduce k f).1)] (vrdReduce k f).2)) ∧
    (placed i (.vec .vsf f) s →
      let r := vecMap f fun l => vsfFn f.func.toNat (vecA k f l)
      exec (.vsf i f) s = .next (out 14 r.1 r.2)) ∧
    (placed i (.vec .vsmx f) s → f.func = 0 →
      let r := vecMap f fun l => smxExp (vecA k f l) (coreLane k f.srcb.toNat 0) f.imm
      exec (.vsmx i f) s = .next (out 20 r.1 r.2)) ∧
    (placed i (.vec .vsmx f) s → f.func ≠ 0 →
      let g := smxExp (coreLane k f.srcb.toNat 0) (vecC k f 0) f.imm
      let m := vecMap f fun l => mul32 (vecA k f l) g.1
      exec (.vsmx i f) s = .next (out 20 m.1 (m.2 ||| g.2))) ∧
    (placed i (.vec .vnrm f) s → f.func ≠ 0 →
      let r := vecMap f fun l =>
        ((mul32 (mul32 (vecA k f l) (vecB k f 0)).1 (vecC k f l)).1,
          (mul32 (vecA k f l) (vecB k f 0)).2 ||| (mul32 (mul32 (vecA k f l) (vecB k f 0)).1 (vecC k f l)).2)
      exec (.vnrm i f) s = .next (out 8 r.1 r.2)) ∧
    (placed i (.vec .vnrm f) s → f.func = 0 →
      let sq := (List.range 64).map fun l => if l < vecN f then mul32 (vecA k f l) (vecA k f l) else ((0 : W32), flagNone)
      let t := treeReduce add32 (sq.map fun p => some p.1)
      let fl := flagsUnion (sq.map Prod.snd) ||| t.2
      exec (.vnrm i f) s = .next (if f.mod
        then out 12 [(0, (add32 (coreLane k f.dst.toNat 0) t.1).1)] (fl ||| (add32 (coreLane k f.dst.toNat 0) t.1).2)
        else out 12 [(0, t.1)] fl))

/-- The vector micro-ops that touch cluster memory (R136, R142, R144, R145, R147), issued on a free unit with their bytes in a window and no
bank claimed twice. VLD fills lanes from zero-extended little-endian bytes five cycles later; VST writes the low bytes of its lanes, seen
from issue + 3; VTOPK reads 64 candidates a cycle from its issue on, and after the last read writes values and indices of the best; VRNG
writes the samples of its four-word counters; VFLG clears the flags of the matrix or the vector engine or stores the flag word as it stands
at the end of its cycle; CVT between registers writes converted lanes after six cycles. Only the issuing cluster changes.  Completion is
stated for: vld, vst, vtopk, vrng, cvt, vflg.  Completion is stated for: vld, vst, vtopk, vrng, cvt, vflg. -/
def Obligations.VectorMemory : Prop :=
  ∀ (i : Issue) (f : VecF) (s : State), issues i s = true →
    let x := issueCtx i s
    let c := movedOn i s
    let k := movedCore i s
    let n := issueNow i s
    let a := vecAddr k f * 64
    let w := laneBytes f.type.toNat
    vecGate x c = none →
    (placed i (.vec .vld f) s → bytesOk k false a (vecN f * w) = true →
      ∀ cl, claimAll i.sc ((granulesOf a (vecN f * w)).map fun g => (n, g)) c.claims = .inl cl →
        exec (.vld i f) s = .next (withIssue i (cluPend { c with claims := cl } [{
          cycle := n + 5, eff := .lanes i.sc f.dst.toNat ((List.range (vecN f)).map fun j =>
            (j, BitVec.ofNat 32 (leNat (memRead c.mem (a + j * w) w)))) }]) s)) ∧
    (placed i (.vec .vst f) s → bytesOk k true a (vecN f * w) = true →
      ∀ cl, claimAll i.sc ((granulesOf a (vecN f * w)).map fun g => (n + 2, g)) c.claims = .inl cl →
        exec (.vst i f) s = .next (withIssue i (cluPend { c with claims := cl } [{
          cycle := n + 3, eff := .mem (cellsAt a ((List.range (vecN f)).flatMap fun j => natLe w (vecA k f j).toNat)) }]) s)) ∧
    (placed i (.vec .vrng f) s → bytesOk k false a 1024 = true →
      ∀ cl, claimAll i.sc ((granulesOf a 1024).map fun g => (n, g)) c.claims = .inl cl →
        exec (.vrng i f) s = .next (withIssue i (vecOut x 16 f.dst.toNat (vecMap f fun l =>
          let g := sgen (memWord c.mem (a + 16 * l)) (memWord c.mem (a + 16 * l + 4)) (memWord c.mem (a + 16 * l + 8))
            (memWord c.mem (a + 16 * l + 12)) f.imm
          if f.func = 0 then rn ⟨(g.toNat / 256 : Nat), -24⟩ else (g, 0)).1 0 (vecOccupy x 1 { c with claims := cl })) s)) ∧
    (placed i (.vec .vflg f) s → f.func = 0 →
      exec (.vflg i f) s = .next (withIssue i (vecOccupy x 1 { c with mflags := 0 }) s)) ∧
    (placed i (.vec .vflg f) s → f.func = 1 →
      exec (.vflg i f) s = .next (withIssue i (vecOccupy x 1 { c with vflags := 0 }) s)) ∧
    (placed i (.vec .vflg f) s → f.func = 2 → bytesOk k true a 4 = true →
      let e := settle (n + 1) c
      exec (.vflg i f) s = .next (withIssue i (cluPend (vecOccupy x 1 c) [{
        cycle := n + 2, eff := .mem (cellsAt a (natLe 4 (flagPair e.mflags e.vflags).toNat)) }]) s)) ∧
    (placed i (.vec .cvt f) s → f.func.toNat / 16 ≤ 5 → f.func.toNat % 16 ≤ 5 →
      let r := vecMap f fun l => cvtLane (f.func.toNat / 16) (f.func.toNat % 16) f.rnd (vecA k f l)
      exec (.cvt i f) s = .next (withIssue i (vecOut x 6 f.dst.toNat r.1 r.2 (vecOccupy x 1 c)) s)) ∧
    (placed i (.vec .vtopk f) s →
      let m := (coreIdx k (f.srcb.toNat % 16) + f.imm).toNat
      let e := if f.func = 0 then 4 else 8
      let cyc := ceilDiv m 64
      let base := coreIdx k (f.srca.toNat % 16)
      let op := GatherOp.topk i.sc f.dst.toNat (vecN f) (f.func != 0) base
      m ≤ 65536 → bytesOk k false a (m * e) = true →
      ∀ cl, claimAll i.sc ((List.range cyc).flatMap fun j =>
          (granulesOf (a + j * 64 * e) (min (64 * e) ((m - j * 64) * e))).map fun g => (n + j, g)) c.claims = .inl cl →
        exec (.vtopk i f) s = .next (withIssue i (cluGather n op
          ((List.range cyc).map fun j => ((a + j * (64 * e), min (64 * e) (m * e - j * (64 * e))), (0, 0)))
          (vecOccupy x (cyc + vecN f) { c with claims := cl })) s) ∧
        ∀ (t : Nat) (l : List Byte),
          let cand := (List.range (l.length / e)).map fun j =>
            ((rd32 (wordAt l (j * e))).1, if f.func = 0 then base + BitVec.ofNat 32 j else wordAt l (j * e + 4))
          let best := (topk (vecN f) cand).zipIdx
          gatherEnd t op l [] = [
            { cycle := t + vecN f + 7, eff := .flags 0 (flagsUnion ((List.range (l.length / e)).map fun j => (rd32 (wordAt l (j * e))).2)) },
            { cycle := t + vecN f + 7, eff := .lanes i.sc f.dst.toNat (best.map fun p => (p.2, p.1.1)) },
            { cycle := t + vecN f + 7, eff := .lanes i.sc (f.dst.toNat + 1) (best.map fun p => (p.2, p.1.2)) }])


/-- CVT between registers and memory (R72, R74, R143, R144), issued on a free vector unit with its bytes in a window and no bank claimed twice:
from an MX format or T5 the lanes are written eight cycles later, to an MX format one or two whole blocks are written to memory eight cycles
later. From ACC56, and in the merge 13 to 13, the unit is busy for three cycles, in each of which four granules of each operand are read;
after the last read, two cycles past the issue, the lanes come eight cycles later, and the merge sets the matrix engine's flags of its
accumulator steps in the cycles nine to eleven later and writes the values eleven later, that is at issue + 10 to 12 and readable at issue +
13. Only the issuing cluster changes.  Completion is stated for: cvt. -/
def Obligations.ConvertMemory : Prop :=
  ∀ (i : Issue) (f : VecF) (s : State), issues i s = true → placed i (.vec .cvt f) s →
    let x := issueCtx i s
    let c := movedOn i s
    let k := movedCore i s
    let n := issueNow i s
    let src := f.func.toNat / 16
    let dst := f.func.toNat % 16
    let j := coreIdx k f.ixa.toNat
    let sa := (f.imm + 2 * j).toNat
    let busy := fun (t : Nat) (cl : List (Nat × Nat × Nat)) => vecOccupy x t { c with claims := cl }
    let claims := fun (l : List (Nat × Nat)) (cl : List (Nat × Nat × Nat)) => claimAll i.sc l c.claims = .inl cl
    let byQuad := fun (t ga b : Nat) => (granulesOf (ga * 64) b).zipIdx.map fun p => (t + p.2 / 4, p.1)
    vecGate x c = none →
    (6 ≤ src → src ≤ 11 →
      let w := elemW (cvtMx src)
      let ea := (f.maddr.toNat * 64 + j.toNat * 8 * w) % 2 ^ 32
      let eb := ceilDiv (vecN f * w) 8
      let sb := ceilDiv (vecN f) 32
      bytesOk k false ea eb = true → bytesOk k false sa sb = true →
      ∀ cl, claims ((granulesOf ea eb ++ granulesOf sa sb).map fun g => (n, g)) cl →
        let sc := memRead c.mem sa sb
        let r := vecMap f fun l => mxTo32 (cvtMx src) ((sc.drop (l / 32)).headD 0) (packedElem w (memRead c.mem ea eb) l)
        exec (.cvt i f) s = .next (withIssue i (vecOut x 8 f.dst.toNat r.1
          (r.2 ||| flagsUnion (sc.map fun b => flagIf (b == 0xFF) flagIv)) (busy 1 cl)) s)) ∧
    (src = 12 →
      let e0 := 64 * j.toNat
      let ba := f.maddr.toNat * 64
      let ea := ba + t5ElemOff e0
      let eb := t5ElemOff (e0 + vecN f - 1) + 1 - t5ElemOff e0
      let ta := ba + e0 / 65536 * 14132 + 13108 + e0 % 65536 / 64
      bytesOk k false ea eb = true → bytesOk k false ta 1 = true →
      ∀ cl, claims ((granulesOf ea eb ++ granulesOf ta 1).map fun g => (n, g)) cl →
        let r := vecMap f fun l => t5To32 (memGet c.mem ta) (memGet c.mem (ba + t5ElemOff (e0 + l))) ((e0 + l) % 65536 % 5)
        exec (.cvt i f) s = .next (withIssue i (vecOut x 8 f.dst.toNat r.1
          (r.2 ||| (flagIf (memGet c.mem ta == 0xFF) flagIv |||
            flagsUnion ((memRead c.mem ea eb).map fun b => flagIf (!t5Valid b) flagIv))) (busy 1 cl)) s)) ∧
    (src = 13 → dst ≠ 13 →
      let ga := vecAddr k f
      let op := GatherOp.acc32 i.sc f.dst.toNat (vecN f) f.rnd
      bytesOk k false (ga * 64) 768 = true →
      ∀ cl, claims (byQuad n ga 768) cl →
        exec (.cvt i f) s = .next (withIssue i (cluGather n op
          ((List.range 3).map fun j => ((ga * 64 + j * 256, 256), (0, 0))) (busy 3 cl)) s) ∧
        ∀ (t : Nat) (l : List Byte),
          let r := (List.range (vecN f)).map fun j => accTo32 f.rnd (accOfBytes ((l.drop (12 * j)).take 12))
          gatherEnd t op l [] = [{ cycle := t + 8, eff := .flags 0 (flagsUnion (r.map Prod.snd)) },
            { cycle := t + 8, eff := .lanes i.sc f.dst.toNat (r.zipIdx.map fun p => (p.2, p.1.1)) }]) ∧
    (src ≤ 5 → 6 ≤ dst →
      let fm := cvtMx dst
      let ea := (f.maddr.toNat * 64 + j.toNat * 8 * elemW fm) % 2 ^ 32
      let nb := ceilDiv (vecN f) 32
      bytesOk k true ea (nb * 4 * elemW fm) = true → bytesOk k true sa nb = true →
      ∀ cl, claims ((granulesOf ea (nb * 4 * elemW fm) ++ granulesOf sa nb).map fun g => (n + 7, g)) cl →
        let bl := (List.range nb).map fun b => encBlock fm f.mod f.rnd ((List.range 32).map fun l => vecA k f (32 * b + l))
        exec (.cvt i f) s = .next (withIssue i (cluPend (busy 1 cl) [
          { cycle := n + 8, eff := .flags 0 (flagsUnion (bl.map fun b => b.2.2)) },
          { cycle := n + 8, eff := .mem (cellsAt ea (bl.flatMap fun b => packElems (elemW fm) b.2.1) ++
              cellsAt sa (bl.map fun b => b.1)) }]) s)) ∧
    (src = 13 → dst = 13 →
      let ga := ixAdd f.maddr.toNat j
      let gb := ixAdd f.imm.toNat j
      let op := GatherOp.merge (ga * 64) (vecN f)
      bytesOk k false (ga * 64) 768 = true → bytesOk k true (ga * 64) 768 = true → bytesOk k false (gb * 64) 768 = true →
      ∀ cl, claims (byQuad n ga 768 ++ byQuad n gb 768 ++ byQuad (n + 10) ga 768) cl →
        exec (.cvt i f) s = .next (withIssue i (cluGather n op
          ((List.range 3).map fun j => ((ga * 64 + j * 256, 256), (gb * 64 + j * 256, 256))) (busy 3 cl)) s) ∧
        ∀ (t : Nat) (l m : List Byte),
          let st := (List.range (vecN f)).map fun j =>
            accStep (accOfBytes ((l.drop (12 * j)).take 12)) (accOfBytes ((m.drop (12 * j)).take 12))
          let fl := fun q => flagsUnion ((st.zipIdx.filter fun p => (12 * p.2 + 11) / 256 == q).map fun p => p.1.2)
          gatherEnd t op l m = [{ cycle := t + 9, eff := .flags (fl 0) 0 }, { cycle := t + 10, eff := .flags (fl 1) 0 },
            { cycle := t + 11, eff := .flags (fl 2) 0 },
            { cycle := t + 11, eff := .mem (cellsAt (ga * 64) (st.flatMap fun a => accBytes a.1)) }])

/-- MTL (R99, R100, R112), MMA (R102 to R106, R111, R112) and MDR (R107 to R109, R111), issued with their bytes in a window and no bank claimed
twice, and ending within the budget or under a tick hold. MTL starts when the weight port and the buffer are free, reads 512 bytes a cycle
from the fourth cycle on (the order of the accesses is the model's, log entry 127) and makes the tile usable after its last group; MMA
streams its unmasked rows at the rate of the weight format from the cycle in which the activation port and the tile are free, and a row can
be read 20 cycles later; its first unmasked row raises the events of the weights, once (R106). MDR drains its unmasked rows from the fourth
cycle on (what a masked row holds and which range is checked is the model's choice, log entry 128). The cycles each waited are counted. Only
the issuing cluster changes.  Completion is stated for: mtl, mma, mdr. -/
def Obligations.MatrixMicroOps : Prop :=
  ∀ (i : Issue) (s : State), issues i s = true →
    let x := issueCtx i s
    let c := movedOn i s
    let k := movedCore i s
    let m := c.mx
    let n := issueNow i s
    let ends := fun (t : Nat) => tickHold s = true ∨ t ≤ x.limit
    (∀ f : MtlF, placed i (.mtl f) s →
      let b := if f.buf then m.buf1 else m.buf0
      let kb := f.kblk.toNat
      let nc := f.ncolm1.toNat + 1
      let ea := ixAdd f.eaddr.toNat (coreIdx k 15) * 64
      let sa := ixAdd f.saddr.toNat (coreIdx k 15) * 64
      let eb := tileBytes (wfmtOf f.wfmt.toNat) nc kb
      let sb := tileScaleBytes (wfmtOf f.wfmt.toNat) nc kb
      let start := max n (max m.wFree b.used)
      let fin := start + 4 + ceilDiv eb 512 + ceilDiv sb 512
      let ge := tileGroups (start + 4) eb
      let gs := tileGroups (start + 4 + ceilDiv eb 512) sb
      let b' : TileBuf := { b with ncol := nc, kblk := kb, wfmt := wfmtOf f.wfmt.toNat, ready := fin }
      bytesOk k false ea eb = true → bytesOk k false sa sb = true → ends fin →
      ∀ cl, claimAll 8 ((ge.flatMap fun g => (granulesOf (ea + g.2.1) g.2.2).map fun y => (g.1, y)) ++
          gs.flatMap fun g => (granulesOf (sa + g.2.1) g.2.2).map fun y => (g.1, y)) c.claims = .inl cl →
        exec (.mtl i f) s = .next (withIssue i (cluPend { c with
          claims := cl
          mx := { m with
            wFree := fin, waitCount := m.waitCount + BitVec.ofNat 32 (start - n)
            buf0 := if f.buf then m.buf0 else b', buf1 := if f.buf then b' else m.buf1 } }
          (ge.map (fun g => { cycle := g.1, reads := true, eff := .mtlRead f.buf false g.2.1 eb (ea + g.2.1) g.2.2 }) ++
            gs.map fun g => { cycle := g.1, reads := true, eff := .mtlRead f.buf true g.2.1 sb (sa + g.2.1) g.2.2 })) s)) ∧
    (∀ f : MmaF, placed i (.mma f) s →
      let b := if f.buf then m.buf1 else m.buf0
      let p := rowRate b.wfmt
      let tern := if b.ncol = 0 then m.ternary else b.wfmt == .t5
      let rows := f.rowsm1.toNat + 1
      let r0 := f.arow0.toNat
      let aa := ixAdd f.aaddr.toNat (coreIdx k 15)
      let sa := ixAdd f.asaddr.toNat (coreIdx k 15)
      let allow := fun r => ((rowUnits tern r).map fun u => tabGet 0 m.rowRead u - 19).foldl max 0
      let start := max n (max m.aFree b.ready)
      let ts := rowTimes p allow start ((List.range rows).map (· + r0))
      let fin := ts.foldl max start + p
      let rt := (List.range rows).zip ts
      let b' := { b with used := max b.used (fin - p + 1) }
      r0 + rows ≤ geomRows tern → bytesOk k false (aa * 64) (256 * rows) = true → bytesOk k false (sa * 64) (8 * rows) = true →
      ends fin →
      ∀ cl, claimAll 9 (rt.flatMap fun q => (List.range 4).map (fun j => (q.2, aa + 4 * q.1 + j)) ++ [(q.2, sa + q.1 / 8)])
          c.claims = .inl cl →
        exec (.mma i f) s = .next (withIssue i (cluPend { c with
          claims := cl
          mx := { m with
            aFree := fin, ternary := tern
            rowReady := rt.foldl (fun t q => (rowUnits tern (r0 + q.1)).foldl (fun t u => tabPut 0 t u (q.2 + 20)) t) m.rowReady
            waitCount := m.waitCount + BitVec.ofNat 32 (fin - (n + p * rows))
            busyCount := m.busyCount + BitVec.ofNat 32 (p * rows)
            buf0 := if f.buf then m.buf0 else b', buf1 := if f.buf then b' else m.buf1 } }
          (if b.ncol = 0 then [] else
            (rt.filter fun q => (coreMask k f.masksel.toNat).getLsbD q.1 && inBudget x q.2).zipIdx.map fun (q, j) =>
              { cycle := q.2, reads := true
                eff := .mmaRow f.buf (j == 0) (r0 + q.1) (aa * 64 + 256 * q.1) (sa * 64 + 8 * q.1) (afmtOf f.afmt.toNat) f.zero
                  b.ncol b.kblk b.wfmt })) s)) ∧
    (∀ f : MdrF, placed i (.mdr f) s →
      let mode := f.dmode.toNat
      let cols := geomCols m.ternary
      let q := drainQ mode m.ternary
      let rows := f.rowsm1.toNat + 1
      let r0 := f.drow0.toNat
      let da := ixAdd f.daddr.toNat (coreIdx k 15)
      let allow := fun r => ((rowUnits m.ternary r).map fun u => tabGet 0 m.rowReady u).foldl max 0
      let start := max n m.dFree
      let ts := rowTimes q allow (start + 4) ((List.range rows).map (· + r0))
      let fin := ts.foldl max (start + 4) + q
      let rt := (List.range rows).zip ts
      let live := rt.filter fun y => (coreMask k f.masksel.toNat).getLsbD y.1 && inBudget x y.2
      r0 + rows ≤ geomRows m.ternary →
      bytesOk k true (da * 64) ((rows - 1) * f.dstride.toNat * 64 + cols * (if mode = 2 then 12 else 4)) = true → ends fin →
      ∀ cl, claimAll 10 (live.flatMap fun y => (List.range q).flatMap fun j => (List.range 16).map fun g =>
          (y.2 + 8 - q + j, da + y.1 * f.dstride.toNat + 16 * j + g)) c.claims = .inl cl →
        exec (.mdr i f) s = .next (withIssue i (cluPend { c with
          claims := cl
          drain := c.drain ++ (if mode = 2 then [] else rt.flatMap fun y => (List.range q).map (· + y.2))
          mx := { m with
            dFree := fin
            rowRead := rt.foldl (fun t y => (rowUnits m.ternary (r0 + y.1)).foldl (fun t u => tabPut 0 t u y.2) t) m.rowRead
            waitCount := m.waitCount + BitVec.ofNat 32 (fin - (n + 4 + q * rows)) } }
          (live.map fun y => { cycle := y.2, reads := true
                               eff := .mdrRow (r0 + y.1) cols mode f.clr ((da + y.1 * f.dstride.toNat) * 64) })) s))


/-! ## Transfers and knots (chapter 04) -/

/-- DMR, DMW, FSN and FRV (R149, R150, R153), issued with their granules in a cluster window and, for DMR and DMW, their units in a panel window
and in a stripe, and for FSN a destination that names an endpoint: the core holds one more outstanding transfer, under the die's next
message number and with the stitch of posting, and FRV writes the flits that the interface held for its tag. Nothing else changes. 
Completion is stated for: dmr, dmw, fsn, frv. -/
def Obligations.PostedTransfers : Prop :=
  ∀ (i : Issue) (s : State), issues i s = true →
    let x := issueCtx i s
    let k := movedCore i s
    let n := niOf s x.die
    let posted := fun (t : Xfer) =>
      withIssue i (cluSetCore (movedOn i s) i.sc { k with xfers := k.xfers ++ [{ t with msg := n.nextMsg, posted := (dieOf s x.die).count }] })
        (modNI x.die (fun y => { y with nextMsg := y.nextMsg + 1 }) s)
    (∀ f : DmF,
      let ga := dmCaddr k f
      let pa := (f.paddr.toNat + (coreIdx k f.pix.toNat).toNat) % 2 ^ 34
      let l := f.lenm1.toNat + 1
      inWindow k.pwin true pa l = true → unitExists (pa + l - 1) = true → flitsOk k false ga l = true → placed i (.dm true f) s →
        exec (.dmw i f) s = .next (posted { kind := .dmw, paddr := pa, caddr := ga, flits := l, ctr := f.ctr.toNat })) ∧
    (∀ f : DmF,
      let ga := dmCaddr k f
      let pa := (f.paddr.toNat + (coreIdx k f.pix.toNat).toNat) % 2 ^ 34
      let l := f.lenm1.toNat + 1
      inWindow k.pwin false pa l = true → unitExists (pa + l - 1) = true → flitsOk k true ga l = true → placed i (.dm false f) s →
        exec (.dmr i f) s = .next (posted {
          kind := .dmr, paddr := pa, caddr := ga, flits := l, ctr := f.ctr.toNat, carry := f.carry })) ∧
    (∀ f : FmF, flitsOk k false (fmCaddr k f) (f.lenm1.toNat + 1) = true → namesEndpoint s f.drank f.dclass = true →
      placed i (.fm .fsn f) s → exec (.fsn i f) s = .next (posted {
        kind := .fsn, caddr := fmCaddr k f, flits := f.lenm1.toNat + 1, ctr := f.ctr.toNat, tag := f.tag, drank := f.drank
        dclass := f.dclass })) ∧
    (∀ f : FmF, flitsOk k true (fmCaddr k f) (f.lenm1.toNat + 1) = true → placed i (.fm .frv f) s →
      let t := posted { kind := .frv, caddr := fmCaddr k f, flits := f.lenm1.toNat + 1, ctr := f.ctr.toNat, tag := f.tag }
      exec (.frv i f) s = .next ((heldFor n f.tag).foldl
        (fun u g => match findFrv u x.die g.hdr true with
          | some a => frvDeliver u x.die g true a
          | none => u)
        (modNI x.die (fun y => { y with held := y.held.filter fun g => !(heldFor n f.tag).contains g }) t)))

/-- SSN and SRV (R128, R152, R248, R249), issued with their granules in a window and no bank claimed twice. SSN reads flit `f` in cycle issue +
f, and that read hands it over for set-slot entry SLOT + f with the stitch count of its cluster. SRV reads landing entry SLOT + f in cycle
issue + f: those whose cycle lies in a later stitch wait for that stitch, and each of the others writes the payload of a full entry one
cycle after its own cycle and clears the full bit, an empty one raising LGR with its entry. Both add one to their counter, except counter 0,
in the cycle after the last flit. Nothing else changes.  Completion is stated for: ssn, srv. -/
def Obligations.SetTransfers : Prop :=
  (∀ (i : Issue) (f : FmF) (s : State), issues i s = true →
    let x := issueCtx i s
    let c := movedOn i s
    let k := movedCore i s
    let ga := fmCaddr k f
    let l := f.lenm1.toNat + 1
    let count : List Pend := if f.ctr = 0 then [] else [{ cycle := x.now + l, eff := .ct i.sc f.ctr.toNat }]
    ∀ cl, claimAll i.sc (flitAccesses x.now ga l) c.claims = .inl cl →
    (placed i (.fm .ssn f) s → flitsOk k false ga l = true →
      exec (.ssn i f) s = .next (withIssue i (cluPend { c with claims := cl } (((List.range l).map fun j =>
        { cycle := x.now + j, reads := true
          eff := .ssnRead (f.slot.toNat + j) ((ga + 4 * j) * 64) (x.ref + j * 2000 / x.sp) }) ++ count)) s)) ∧
    (placed i (.fm .srv f) s → flitsOk k true ga l = true →
      let jobs : List SrvJob := (List.range l).map fun j =>
        { cycle := x.now + j, ga := ga + 4 * j, entry := f.slot.toNat + j, sc := i.sc, uop := x.uop }
      let r := srvFlits x (jobs.filter fun j => decide (j.cycle < x.limit)) (withIssue i (cluPend { c with
        claims := cl, srvs := c.srvs ++ jobs.filter fun j => decide (x.limit ≤ j.cycle) } count) s)
      exec (.srv i f) s = .next
        (r.2.foldl (fun u pf => addPatFault x.die (uopFault s x (cluCore (issueClu i s) i.sc).uop pf) u) r.1))) ∧
  (∀ (c : Cluster) (t e a ref : Nat), effRun c t (.ssnRead e a ref) =
    ({ c with handed := tabPut {} c.handed e { stitch := c.count, ref := ref, payload := memRead c.mem a 256 } }, [])) ∧
  ∀ (x : Ctx) (j : SrvJob) (s : State),
    let p := bitsOf (landEntry (runImg s) x.rank j.entry) 63 52
    let l := tabGet [] (niOf s x.die).landing p
    (l ≠ [] → srvFlit x j s = (modNI x.die (fun m => { m with landing := tabPut [] m.landing p [] })
      (modClu x.die x.clu (fun c => cluPend c [{ cycle := j.cycle + 1, eff := .mem (cellsAt (j.ga * 64) l) }]) s), [])) ∧
    (l = [] → ∃ pf : Pf, srvFlit x j s = (s, [pf]) ∧ pf.code = 6 ∧ pf.entry = BitVec.ofNat 16 j.entry)

/-- KNOT (R122, R155), issued: the core stands at the knot. In a set section a cluster whose eight cores then stand at it while a transfer keeps
it there stops as a whole, at the reference count of the cycle, and counts a freeze request. SYW_SATISFIED (R122, R128, R195): a paused core
whose counter has reached its value takes the value from the counter, and its next micro-op is due DELAY after the present cycle, or after
the SYW's in a cluster that stood still; such a cluster, if nothing holds it any more and no freeze is named or in force, goes on and counts
the cycles of its pause. DIE_ARRIVAL (R155): a die whose four clusters stand at one knot, with no set flit to send or to read and no
transfer in the way, finishes its pipelines and has arrived, in the present stitch. Nothing else changes.  Completion is stated for:
sywSatisfied, knot, dieArrival. -/
def Obligations.KnotsAndPauses : Prop :=
  (∀ (i : Issue) (kidx : BitVec 12) (s : State), placed i (.knot kidx) s → issues i s = true →
    let c := cluSetCore (movedOn i s) i.sc { movedCore i s with knot := some kidx }
    exec (.knot i kidx) s = .next (withIssue i
      (if inSetSection s ∧ allAtKnot c ∧ knotXfers (kidx.toNat + 1 == imgNsect (runImg s)) c
        then { c with pausedSet := true, freezeReqs := c.freezeReqs + 1, pausedAt := cycleRef s (issueCtx i s).die i.cyc } else c) s)) ∧
  (∀ (i : Issue) (s : State) (r : Nat) (n : W32), (Instr.sywSatisfied i).wf = true →
    let d := physOf s.grid.skip i.rank
    let c := cluOf s d i.clu
    let k := cluCore c i.sc
    k.paused = some (r, n) → n.toNat ≤ (coreCt k r).toNat →
      let k' := { coreSetCt k r (coreCt k r - n) with
        paused := none, next := none, last := if c.pausedSet then k.last else some (c.base + i.cyc) }
      let c' := cluSetCore c i.sc k'
      exec (.sywSatisfied i) s = .next (modClu d i.clu (fun _ =>
        if c.pausedSet && !s.lode.frozen && s.lode.freezeAt.isNone && cluFreed s c' then { c' with
          pausedSet := false
          pauseCyc := c.pauseCyc + BitVec.ofNat 32 ((cycleRef s d i.cyc - c.pausedAt) * setPoint s d / 2000) } else c') s)) ∧
  (∀ (d : Nat) (s : State) (k : BitVec 12), (Instr.dieArrival d).wf = true → dieKnot s d = some k →
    (∀ j, j < 4 → (cluOf s d j).srvs = [] ∧ cluSending (cluOf s d j) = false ∧
      knotXfers (k.toNat + 1 == imgNsect (runImg s)) (cluOf s d j) = false) →
    (∀ p ∈ (niOf s d).retime, rankOf s.grid.skip d ≠ some p.2.hdr.srank.toNat) →
      exec (.dieArrival d) s = .next (modDie d (fun y => { y with arrived := some k, arrivedIn := y.count })
        ((List.range 4).foldl (fun t j => modClu d j settleAll t) s)))

/-- The end of a transfer (R36, R150, R153): DM_TRANSFER_COMPLETE and FREE_MESSAGE_COMPLETE take a transfer that has nothing left to move from
its core's list and add one to its counter; the cluster, if it stood still, goes on when nothing holds it, and after DM_TRANSFER_COMPLETE
the panel's own duties follow. A DMW still to be moved writes the bytes of its granules to its units after the earlier operations on them, a
DMR with no poisoned unit writes its units' bytes to its granules where no unit's data is beyond recovery, and both then end so. An FSN ends
when its destination can take what has not moved singly, which then reaches it, and not in the stitch that posted it; an FRV ends when every
flit of its message has come.  Completion is stated for: dmTransferComplete, freeMessageComplete. -/
def Obligations.TransferEnds : Prop :=
  ∀ (rank clu sc idx : Nat) (s : State) (t : Xfer), xferOk rank clu sc = true →
    let d := physOf s.grid.skip rank
    xferAt s d clu sc idx = some t →
    (t.moved = t.flits → (t.kind = .dmr ∨ t.kind = .dmw) →
      exec (.dmTransferComplete rank clu sc idx) s = .next (duties (endXfer d clu sc idx s))) ∧
    (t.kind = .dmw → t.moved ≠ t.flits →
      exec (.dmTransferComplete rank clu sc idx) s = .next (duties (endXfer d clu sc idx ((List.range t.flits).foldl (fun u o =>
        writeAfter (t.paddr + o) 0xF (memRead (cluOf u d clu).mem ((t.caddr + 4 * o) * 64) 256) u) s)))) ∧
    (t.kind = .dmr → t.moved ≠ t.flits →
      (∀ o, o < t.flits → poisonOf s (t.paddr + o) = 0) →
      ∃ u, exec (.dmTransferComplete rank clu sc idx) s = .next (duties (endXfer d clu sc idx u)) ∧
        ((∀ o, o < t.flits → unitGone s (t.paddr + o) = false) → (cluOf u d clu).mem = (List.range t.flits).foldl
          (fun m o => memWrite m ((t.caddr + 4 * o) * 64) (unitBytes s (t.paddr + o))) (cluOf s d clu).mem) ∧
        u.pmem.data = s.pmem.data ∧ u.pmem.poison = s.pmem.poison ∧ u.dies = s.dies ∧ u.nis = s.nis ∧ u.fns = s.fns) ∧
    (t.kind = .fsn → t.moved = t.flits →
      (t.dclass ≠ 0 ∨ (dieOf s d).count ≠ t.posted ∧ (niOf s (physOf s.grid.skip t.drank.toNat)).held.length ≤ 256) →
      exec (.freeMessageComplete rank clu sc idx) s = .next (endXfer d clu sc idx s)) ∧
    (t.kind = .fsn → t.moved ≠ t.flits → fsnFits s d clu rank t = true →
      exec (.freeMessageComplete rank clu sc idx) s = .next (endXfer d clu sc idx (fsnRest d clu rank t s))) ∧
    (∀ m : W16 × BitVec 4 × BitVec 12, t.kind = .frv → t.src = some m → 0 < t.moved →
      (∀ n, sentFlits s m = some n → ∃ y,
        (niOf s d).rx.find? (fun x => x.srank == m.1 && x.sclass == m.2.1 && x.msg == m.2.2) = some y ∧ n ≤ y.seen.length) →
      exec (.freeMessageComplete rank clu sc idx) s = .next (endXfer d clu sc idx s))


/-! ## The Herus mailbox (chapter 12) -/

/-- Commands that read identity, licence and time (R431, R432, R446), once accepted: the response carries the fields of R431, R432 and R446, and
nothing but the mailbox and the panel's own duties changes. TIME_READ answers the reference count of the present stitch's start, and zeros
before the lodestar has started.  Completion is stated for: identify, interfaceCaps, licenceRead, timeRead. -/
def Obligations.MailboxIdentity : Prop :=
  ∀ (q : MbReq) (s : State), fnOk q.fn = true →
    let lic := s.boot.lic
    (accepted 0x01 q [] s → exec (.identify q) s = answers 0x01 q (okRsp [
      (0, "CRD-P144".toList.map fun c => BitVec.ofNat 8 c.toNat), (0x10, fitBytes 16 Config.serial), (0x20, natLe 1 (licVariant lic)),
      (0x21, natLe 1 (b2n (s.boot.co3Done && s.boot.classB))), (0x22, natLe 2 3), (0x24, natLe 4 s.boot.fwver.toNat),
      (0x28, natLe 4 Config.hwRev.toNat), (0x2C, natLe 1 q.fn), (0x2D, natLe 1 (b2n s.grid.anchorS))]) (takenUp 0x01 q [] s)) ∧
    (accepted 0x03 q [] s → exec (.interfaceCaps q) s = answers 0x03 q (okRsp [
      (0, natLe 2 3), (4, (dieList ((mayIssue q.fn).map fun n => (n, 0))).1), (0x24, natLe 4 (licFeatures lic).toNat),
      (0x28, natLe 1 8), (0x29, natLe 1 31), (0x2A, natLe 1 8), (0x2C, natLe 4 (licSessions lic))]) (takenUp 0x03 q [] s)) ∧
    (accepted 0x11 q [] s → exec (.licenceRead q) s = answers 0x11 q (okRsp [
      (0, natLe 1 (b2n lic.isSome)), (1, natLe 1 (licVariant lic)), (4, natLe 4 (licFeatures lic).toNat), (8, natLe 4 (licSessions lic)),
      (0xC, natLe 4 (licSeqMax lic)), (0x10, natLe 8 ((lic.map Licence.licid).getD 0).toNat),
      (0x18, natLe 8 ((lic.map Licence.issued).getD 0).toNat)]) (takenUp 0x11 q [] s)) ∧
    (accepted 0x90 q [] s → s.boot.co3Done = true → exec (.timeRead q) s = answers 0x90 q (okRsp [
      (0, timeBytes s), (8, natLe 8 s.lode.startRef.toNat),
      (0x10, natLe 8 s.lode.stretched.toNat), (0x18, natLe 8 s.lode.added.toNat)]) (takenUp 0x90 q [] s)) ∧
    (accepted 0x90 q [] s → s.boot.co3Done = false →
      exec (.timeRead q) s = answers 0x90 q (okRsp []) (takenUp 0x90 q [] s))

/-- Commands that read the panel without changing it (R432, R436, R437, R439, R441, R442, R444, R447), once accepted with operands that name a
part: the response carries the fields named, among them the row each stripe's scrub visited last and the row a rebuild has reached, whose
speed is a free value (log entry 26); only the mailbox and the panel's own duties change.  Completion is stated for: statusRead, setRead,
thermalRead, darnRead, faultLogRead, flagsRead, tailLogRead, linkRead, memoryStatus. -/
def Obligations.MailboxReads : Prop :=
  ∀ (q : MbReq) (s : State), fnOk q.fn = true →
    (accepted 0x02 q [] s → exec (.statusRead q) s = answers 0x02 q (okRsp ([
      (0, natLe 1 (pstateOf s)), (1, natLe 1 (modeCode s.lode.mode)), (8, natLe 8 s.rnd.last.toNat), (0x10, timeBytes s)] ++
      (if isPf q.fn then statusPf s else []) ++
      (if hasTenant q.fn then [(0x98, natLe 4 (tenantSessions s q.fn).length), (0x9C, natLe 4 (tenOf s q.fn).quota),
        (0xA0, natLe 2 (tenOf s q.fn).epoch.toNat)] else []))) (takenUp 0x02 q [] s)) ∧
    (accepted 0x43 q [] s → exec (.thermalRead q) s = answers 0x43 q { okRsp [
      (0, natLe 1 (hotCompute s).2), (2, natLe 2 (hotCompute s).1), (4, natLe 1 (hotStack s).2), (6, natLe 2 (hotStack s).1),
      (8, natLe 2 (throttledDies s).length), (0xC, intLe 2 s.thm.tmem ++ intLe 2 s.thm.tcmp),
      (0x10, natLe 4 (milliK (resM s)) ++ natLe 4 (milliK (resC s))), (0x18, natLe 4 s.thm.cap)] with
      bulk := some ((List.range numDies).flatMap (thermalEntry s)) } (takenUp 0x43 q [] s)) ∧
    (accepted 0x51 q [] s → exec (.darnRead q) s = answers 0x51 q (okRsp [
      (0, (List.range 12).map fun w => BitVec.ofNat 8 (skipOf s.grid.skip w)),
      (0xC, (List.range 12).map fun w => BitVec.ofNat 8
        (b2n (skipOf s.grid.skip w != 11) + 2 * b2n (repairLinkBad s w) + 4 * b2n (noRepair s w))),
      (0x18, bitMap 24 fun d => decide (d < 144) && s.grid.retired.contains d), (0x30, bitMap 24 fun r => s.pat.running.isSome && s.grid.impaired.contains r),
      (0x48, natLe 1 (b2n (s.boot.pstate == 7))), (0x50, natLe 8 s.grid.changed.toNat)]) (takenUp 0x51 q [] s)) ∧
    (accepted 0x55 q [] s → exec (.flagsRead q) s = answers 0x55 q (okRsp [
      (0, natLe 1 s.rnd.panelFlags.toNat), (4, natLe 4 s.rnd.flagRound.toNat), (8, (siteDies s).map fun d => (dieOf s d).summary),
      (0x8C, (List.range 66).map fun i => BitVec.ofNat 8
        (physOf s.grid.skip (2 * i) / 12 + 16 * (physOf s.grid.skip (2 * i + 1) / 12)))]) (takenUp 0x55 q [] s)) ∧
    (accepted 0xB1 q [] s → exec (.memoryStatus q) s = answers 0xB1 q { okRsp [
      (0, (List.range 6).flatMap fun m => natLe 4 (stripeWord s m)), (0x18, natLe 2 s.pmem.period),
      (0x1C, natLe 4 (if s.pmem.rebuild.isSome then rebuildReached s else 0xFFFFFFFF)),
      (0x20, (List.range 6).flatMap fun m => natLe 4 (tabGet 0 s.pmem.scrubLast m))] with
      bulk := some ((List.range 72).flatMap fun i => natLe 4 (stackWord s (i / 6) (i % 6))) } (takenUp 0xB1 q [] s)) ∧
    (∀ (first : W64) (max : W32),
      let l := [(0, natLe 8 first.toNat), (8, natLe 4 max.toNat)]
      let next := s.flog.next.toNat
      let oldest := next - s.flog.recs.length
      let a := clampTo oldest next first.toNat
      let m := clampTo 1 4096 max.toNat
      let recs := (s.flog.recs.drop (a - oldest)).take m
      accepted 0x54 q l s → exec (.faultLogRead q first max) s = answers 0x54 q {
        applied (a == first.toNat && m == max.toNat) [(0, natLe 8 oldest), (8, natLe 8 next),
          (0x10, natLe 4 (if q.bulkv then min recs.length (q.blen.toNat / 32) else 0)), (0x14, natLe 4 oldest)] with
        bulk := some (recs.flatMap faultBytes) } (takenUp 0x54 q l s)) ∧
    (∀ (die : W16) (which item : Byte),
      let l := [(0, natLe 2 die.toNat), (2, natLe 1 which.toNat), (3, natLe 1 item.toNat)]
      let d := if die = 0xFFFF then anchorDie s else die.toNat
      let c := if which = 0 then (dieOf s d).active else (dieOf s d).shadow
      let held := entriesHeld d item.toNat c
      accepted 0x32 q l s → which.toNat ≤ 1 → 1 ≤ item.toNat → item.toNat ≤ 4 → (die.toNat < numDies ∨ die = 0xFFFF ∧ 3 ≤ item.toNat) →
        exec (.setRead q die which item) s = answers 0x32 q { okRsp [
          (0, natLe 1 (b2n ((dieOf s d).arm == .armed))), (1, natLe 1 held.length),
          (4, natLe 4 (Config.setChecksum ((List.range 4).flatMap fun i => (entriesHeld d (i + 1) c).flatten)).toNat),
          (8, natLe 8 (dieOf s d).lastSwap.toNat), (0x10, (held.take 8).flatten)] with bulk := some held.flatten } (takenUp 0x32 q l s)) ∧
    (∀ (die : W16) (port : Byte),
      let l := [(0, natLe 2 die.toNat), (2, natLe 1 port.toNat)]
      let ends := (endsOf die.toNat).filter fun e => port.toNat == 0xFF || e.2 == port.toNat
      accepted 0xA0 q l s → die.toNat < numDies → ends ≠ [] →
        exec (.linkRead q die port) s = answers 0xA0 q { okRsp [(0, natLe 1 ends.length),
          (4, (List.range 6).flatMap fun i => natLe 4
            (if ends.contains (die.toNat, i) then linkWord s die.toNat i (linkOf s die.toNat i) else 0))] with
          bulk := some (ends.flatMap fun e => endRecord s e.1 e.2) } (takenUp 0xA0 q l s)) ∧
    (∀ (handle first : W32) (i : Nat),
      let l := [(0, natLe 4 handle.toNat), (4, natLe 4 first.toNat)]
      let pos := (sessOf s i).tailpos
      let have_ := min pos.toNat (layNow s).tailLen
      let back := (pos - first).toNat
      let n := min have_ back
      accepted 0x72 q l s → sessionFor s q.fn handle = some i →
        exec (.tailLogRead q handle first) s = answers 0x72 q { okRsp [
          (0, natLe 4 pos.toNat), (4, natLe 4 (if q.bulkv then min n (q.blen.toNat / 64) else 0))] with
          clamped := decide (have_ < back)
          bulk := some ((List.range n).map fun k => pmRead s (tailAddr s i (pos - BitVec.ofNat 32 (n - k))) 64).flatten }
          (takenUp 0x72 q l s))

/-- Commands that read sensors and counters (R195, R437, R438), once accepted: HEALTH_READ with a scope that exists answers the records of its
scope and starts the largest phase error of the dies read anew; POWER_READ answers the means, caps, mode and rails, and the sensor readings,
which have no stated value, are fresh free values.  Completion is stated for: powerRead, healthRead. -/
def Obligations.MailboxSensors : Prop :=
  ∀ (q : MbReq) (s : State), fnOk q.fn = true →
    (∀ (scope port : Byte) (index : W16),
      let l := [(0, natLe 1 scope.toNat), (1, natLe 1 port.toNat), (2, natLe 2 index.toNat)]
      let t := takenUp 0x50 q l s
      let r := scopeRecords t scope.toNat port.toNat index.toNat
      accepted 0x50 q l s →
      (scope = 0 ∨ scope = 1 ∧ index.toNat < numDies ∨ scope = 2 ∧ index.toNat < numDies ∧ port.toNat ≤ 5 ∧
        (peer index.toNat port.toNat).isSome ∨ scope = 3 ∧ index.toNat < 12) →
        exec (.healthRead q scope port index) s = answers 0x50 q { okRsp [(0, natLe 4 r.2.length), (4, natLe 1 (b2n t.hlt.stale)),
          (8, natLe 4 ((refNow s - s.hlt.scoredAt).toNat / 2000000))] with bulk := some r.2.flatten }
          (modDies r.1 (fun x => { x with phaseMax := 0 }) t)) ∧
    (accepted 0x41 q [] s →
      let rd := fun i => natLe 2 (Config.reading s.free i)
      exec (.powerRead q) s = answers 0x41 q { okRsp [
        (0, natLe 4 s.pwr.draws.panel), (4, natLe 4 s.pwr.hostCap), (8, natLe 4 (effectiveCap s)), (0xC, natLe 1 (modeCode s.lode.mode)),
        (0xD, natLe 1 (b2n s.pwr.warn)), (0x10, (List.range 12).flatMap fun c => rd (576 + c)),
        (0x28, (List.range 12).flatMap fun c => rd (588 + c))] with
        bulk := some ((List.range 576).flatMap fun i => natLe 2 (railOf s (i / 4) (i % 4)) ++ rd i) }
        { takenUp 0x41 q [] s with free := s.free + 1 })

/-- Commands that set limits and policies (R189, R393, R437, R439, R446, R447), once accepted with codes in range: the value requested is
clamped to its range, the response carries what was applied, and CLAMPED is set when it differs; nothing else of the panel changes but what
the value governs. MEMORY_SCRUB_SET rebuilds a stack that is OUT and whose DRAM trains, with no pattern running. A timer armed with a target
that has passed fires at once and its event is flagged late.  Completion is stated for: powerCapSet, coolantReport, repairPolicySet,
shaperSet, timerArm, memoryScrubSet. -/
def Obligations.MailboxSettings : Prop :=
  ∀ (q : MbReq) (s : State), fnOk q.fn = true →
    (∀ cap : W32,
      let l := [(0, natLe 4 cap.toNat)]
      let c := min 11500 (max 2500 cap.toNat)
      let u := setHostCap c (takenUp 0x40 q l s)
      accepted 0x40 q l s → exec (.powerCapSet q cap) s = answers 0x40 q
        (applied (c == cap.toNat) [(0, natLe 4 c), (4, natLe 4 (effectiveCap u)), (8, natLe 4 u.thm.cap)]) u) ∧
    (∀ tmem tcmp : W16,
      let l := [(0, natLe 2 tmem.toNat), (2, natLe 2 tcmp.toNat)]
      let a := max 500 (min 5500 tmem.toInt)
      let b := max 500 (min 5500 tcmp.toInt)
      let u := reportCap (setCaps (modThm (fun y => { y with tmem := a, tcmp := b }) (takenUp 0x42 q l s)))
      accepted 0x42 q l s → exec (.coolantReport q tmem tcmp) s = answers 0x42 q
        (applied (a == tmem.toInt && b == tcmp.toInt) [(0, intLe 2 a), (2, intLe 2 b), (4, natLe 4 (milliK (resM u))),
          (8, natLe 4 (milliK (resC u))), (0xC, natLe 4 u.thm.cap)]) u) ∧
    (∀ impaired scoremin repeats : Byte,
      let l := [(0, natLe 1 impaired.toNat), (1, natLe 1 scoremin.toNat), (2, natLe 1 repeats.toNat)]
      let r := min 255 (max 1 repeats.toNat)
      let t := takenUp 0x52 q l s
      accepted 0x52 q l s → impaired.toNat ≤ 1 → exec (.repairPolicySet q impaired scoremin repeats) s = answers 0x52 q
        (applied (r == repeats.toNat) [(0, natLe 1 impaired.toNat), (1, natLe 1 scoremin.toNat), (2, natLe 1 r)])
        { t with hlt := { t.hlt with impaired := impaired.toNat, scoreMin := scoremin.toNat, repeats := r } }) ∧
    (∀ (tenant shaper : Byte) (rate depth : W32),
      let l := [(0, natLe 1 tenant.toNat), (1, natLe 1 shaper.toNat), (4, natLe 4 rate.toNat), (8, natLe 4 depth.toNat)]
      let r := clampRate rate.toNat
      let d := clampDepth depth.toNat
      let u := applyShaper tenant.toNat shaper.toNat r d (takenUp 0x62 q l s)
      let x := tenOf u tenant.toNat
      accepted 0x62 q l s → tenant.toNat ≤ 63 → shaper.toNat ≤ 1 → exec (.shaperSet q tenant shaper rate depth) s = answers 0x62 q
        (applied (r == rate.toNat && d == depth.toNat) [(4, natLe 4 r), (8, natLe 4 d),
          (0x10, intLe 8 (if shaper = 0 then x.prompt.bal else x.gener.bal))]) u) ∧
    (∀ (timer action : Byte) (target : W64),
      let l := [(0, natLe 1 timer.toNat), (1, natLe 1 action.toNat), (8, natLe 8 target.toNat)]
      let t := takenUp 0x91 q l s
      let at_ := target.setWidth 48
      let put := fun (v : Option (BitVec 48)) => modFn q.fn (fun x => { x with timers := tabPut none x.timers timer.toNat v }) t
      let rsp := fun (late : Bool) => okRsp [(0, natLe 1 (b2n late)), (8, timeBytes s)]
      accepted 0x91 q l s → timer.toNat ≤ 7 →
        (action = 1 → exec (.timerArm q timer action target) s = answers 0x91 q (rsp false) (put none)) ∧
        (action = 0 → (stitchAhead at_ (stitchNow s)).isSome →
          exec (.timerArm q timer action target) s = answers 0x91 q (rsp false) (put (some at_))) ∧
        (action = 0 → (stitchAhead at_ (stitchNow s)).isNone → exec (.timerArm q timer action target) s =
          answers 0x91 q (rsp true) (event q.fn 1 true (BitVec.ofNat 32 timer.toNat) (put none)))) ∧
    (∀ (period : W16) (rebuild course col : Byte),
      let l := [(0, natLe 2 period.toNat), (2, natLe 1 rebuild.toNat), (3, natLe 1 course.toNat), (4, natLe 1 col.toNat)]
      let p := min 720 period.toNat
      let t := takenUp 0xB0 q l s
      let u := { t with pmem := { t.pmem with period := p } }
      let rsp := applied (p == period.toNat)
        [(0, natLe 2 p), (2, natLe 1 rebuild.toNat), (3, natLe 1 course.toNat), (4, natLe 1 col.toNat)]
      accepted 0xB0 q l s →
        (rebuild = 0 → exec (.memoryScrubSet q period rebuild course col) s = answers 0xB0 q rsp u) ∧
        (rebuild = 1 → course.toNat ≤ 11 → col.toNat ≤ 5 → (stackOf s course.toNat col.toNat).state = .out →
          s.pmem.failed.contains col.toNat = false → s.pmem.rebuild = none → s.pat.running = none → q.env.trains = true →
          let v := saveStackMap (modStack course.toNat col.toNat (fun y => { y with state := .rebuilding }) u)
          exec (.memoryScrubSet q period rebuild course col) s = answers 0xB0 q rsp
            { v with pmem := { v.pmem with rebuild := some (course.toNat, col.toNat), rebuildRow := 0 } }))

/-- Commands that install a licence or firmware (R10, R12, R447, R459), once accepted with bulk input that can be read. A licence bound to this
panel that withdraws nothing in use goes to flash and takes effect at once with no pattern running, else at the next boundary. An image
whose signature verifies fills the inactive firmware slot; another empties it and answers BAD_IMAGE. Activation makes the staged slot the
boot slot.  Completion is stated for: licenceInstall, firmwareStage, firmwareActivate. -/
def Obligations.MailboxFirmware : Prop :=
  ∀ (q : MbReq) (s : State), fnOk q.fn = true →
    (accepted 0x10 q [] s → (∃ b, bulkIn q 4096 = .inr b) → q.blen ≠ 0 → licGood q.env.lic = true →
      let t := takenUp 0x10 q [] s
      let u := modBoot (fun b => { b with licNext := some q.env.lic }) { t with flash := { t.flash with lic := some q.env.lic } }
      licInUse t q.env.lic = false →
        (s.pat.running = none → exec (.licenceInstall q) s = answers 0x10 q
          (okRsp [(0, natLe 4 (licFeatures (some q.env.lic)).toNat), (8, natLe 8 0)]) (takeLicence u)) ∧
        (s.pat.running.isSome → exec (.licenceInstall q) s = answers 0x10 q
          (okRsp [(0, natLe 4 (licFeatures (some q.env.lic)).toNat), (8, natLe 8 (s.rnd.no + 1).toNat)]) u)) ∧
    (accepted 0xF0 q [] s → (∃ b, bulkIn q (min (32 * 2 ^ 20) Config.slotSize) = .inr b) →
      let t := takenUp 0xF0 q [] s
      let x := if q.env.fw.sigOk then some q.env.fw else none
      exec (.firmwareStage q) s = answers 0xF0 q
        (if q.env.fw.sigOk then okRsp [(0, natLe 4 q.env.fw.version.toNat)] else { status := rsBadImage })
        { t with flash := { t.flash with
          staged := x, slotA := if t.flash.bootB then x else t.flash.slotA, slotB := if t.flash.bootB then t.flash.slotB else x } }) ∧
    (∀ (when_ : Byte) (fw : Firmware),
      let l := [(0, natLe 1 when_.toNat)]
      let t := takenUp 0xF1 q l s
      accepted 0xF1 q l s → when_.toNat ≤ 1 → s.flash.staged = some fw →
        exec (.firmwareActivate q when_) s = answers 0xF1 q (okRsp [(0, natLe 4 s.boot.fwver.toNat), (4, natLe 4 fw.version.toNat)])
          { t with
            flash := { t.flash with bootB := !t.flash.bootB, staged := none }
            boot := { t.boot with warmDue := t.boot.warmDue || when_ == 1 } })


/-- Commands of patterns and weight intake (R219, R220, R223, R396 to R399, R433), once accepted. An image that passes the checks of staging
becomes the staged one; a staged image that can be relocated becomes the committed one. PATTERN_STOP with a pattern running waits: the abort
form stops it at once, the boundary form at the ending knot of the round in progress or at once between rounds. Intake opens on a target
within panel memory and the allocation; closing it answers the three counts and clears them.  Completion is stated for: patternStage,
patternCommit, patternStop, weightsIntakeOpen, weightsIntakeClose. -/
def Obligations.MailboxPatterns : Prop :=
  ∀ (q : MbReq) (s : State), fnOk q.fn = true →
    (∀ b, accepted 0x20 q [] s → bulkIn q (2 ^ 30) = .inr b → stageCheck s.boot.lic b = none →
      let t := takenUp 0x20 q [] s
      exec (.patternStage q) s = answers 0x20 q (okRsp [(0, natLe 1 0), (1, natLe 1 0xFF),
        (2, natLe 1 0xFF), (4, natLe 4 0xFFFFFFFF), (8, natLe 4 (imgGrade b)),
        (0xC, natLe 4 (imgToolrel b)), (0x10, natLe 8 (imgLen b)), (0x18, imgSrcid b)])
        { t with pat := { t.pat with staged := some b } }) ∧
    (∀ b b', accepted 0x21 q [] s → s.pat.staged = some b → commitImage s b = .inl b' →
      let t := takenUp 0x21 q [] s
      exec (.patternCommit q) s = answers 0x21 q (okRsp [(0, natLe 4 0xFFFFFFFF), (8, natLe 8 (imgAlloc b))])
        { t with pat := { t.pat with staged := none, committed := some b' } }) ∧
    (∀ form : Byte,
      let l := [(0, natLe 1 form.toNat)]
      let t := takenUp 0x23 q l s
      let u := hold q .stop t
      accepted 0x23 q l s → s.pat.running.isSome →
        (form = 1 → exec (.patternStop q form) s = waits (stopPattern u)) ∧
        (form = 0 → s.rnd.active = true →
          exec (.patternStop q form) s = waits { u with pat := { u.pat with stopAtEnd := true } }) ∧
        (form = 0 → s.rnd.active = false → exec (.patternStop q form) s = waits (stopAtBoundary u))) ∧
    (∀ base len woff : W64,
      let l := [(0, natLe 8 base.toNat), (8, natLe 8 len.toNat), (0x10, natLe 8 woff.toNat)]
      let t := takenUp 0x24 q l s
      let w := min woff.toNat (len.toNat - 1)
      accepted 0x24 q l s → len ≠ 0 → base.toNat < 6 * stripeUnits → base.toNat + len.toNat ≤ 6 * stripeUnits →
      (s.intake.open_ = false ∨ s.intake.base = base.toNat ∧ s.intake.len = len.toNat) →
      (∃ a, allocBound s = some a ∧ targetFits a base.toNat len.toNat = true) →
        exec (.weightsIntakeOpen q base len woff) s = answers 0x24 q
          (applied (w == woff.toNat) [(0, natLe 8 base.toNat), (8, natLe 8 len.toNat), (0x10, natLe 8 w)])
          { t with intake := { t.intake with open_ := true, base := base.toNat, len := len.toNat, woff := w } }) ∧
    (accepted 0x25 q [] s → s.intake.open_ = true →
      exec (.weightsIntakeClose q) s = answers 0x25 q (okRsp [(0, natLe 8 s.intake.sectors.toNat), (8, natLe 8 s.intake.discPart.toNat),
        (0x10, natLe 8 s.intake.discMap.toNat)]) { takenUp 0x25 q [] s with intake := {} })

/-- PATTERN_START (R221, R433, R481), once accepted, of a committed image that nothing bars, on a panel with every course's PWR_GOOD. Where
every site answers, the fabric drains, the image is loaded and knot NSECT - 1 fires, so that the pattern runs; the response names the first
round and the time. Where sites are silent or not ready, no pattern runs and the response is PARTIAL and names them. A compute field that
was bound off, or whose VIN was removed, comes back first; a wale without a spare for a site that failed bars the start.  Completion is
stated for: patternStart.  Completion is stated for: patternStart. -/
def Obligations.PatternStart : Prop :=
  ∀ (q : MbReq) (s : State) (b0 : List Byte), fnOk q.fn = true → accepted 0x22 q [] s →
    s.pat.committed = some b0 → s.pat.running = none →
    let t := takenUp 0x22 q [] s
    let b := rewindowAll t b0
    let away := s.boot.bound = true ∨ s.boot.vinGone ≠ []
    startRefused (startMode s.boot.bound t) b = none → courseMissing t = false →
    (¬away → q.env.silent = [] → q.env.notReady = [] →
      exec (.patternStart q) s = answers 0x22 q (startRsp (s.rnd.no + 1) (timeWord s) (startLayout b).npool []) (loadAndStart b t)) ∧
    (¬away → q.env.silent ++ q.env.notReady ≠ [] →
      exec (.patternStart q) s = answers 0x22 q
        (startRsp 0 0 0 (q.env.silent.map (fun d => (d, 1)) ++ q.env.notReady.map fun d => (d, 2))) (drainFabric t)) ∧
    (∀ u, away → fieldBack q.env.returnFail t = (none, u) → q.env.silent = [] → q.env.notReady = [] →
      exec (.patternStart q) s = answers 0x22 q (startRsp (u.rnd.no + 1) (timeWord u) (startLayout b).npool [])
        (loadAndStart b (startMode s.boot.bound u))) ∧
    (∀ w u, away → fieldBack q.env.returnFail t = (some w, u) → exec (.patternStart q) s = answers 0x22 q (rspRefused 0xB w) u)

/-- Configuration sets and modes (R190, R193, R428, R434 to R436), once accepted. SET_WRITE whose every die confirms writes the applied entries
into the shadow sets of the dies in its scope and disarms them (the sets of dies that have swapped are copied first, log entry 138).
SET_SWAP_AT with a target at least 512 stitches on, and MODE_SET, arm a swap and wait, where no die's shadow set is incomplete; MODE_SET
first writes the mode into every shadow set, and with no pattern running takes effect 512 stitches on.  Completion is stated for: setWrite,
setSwapAt, modeSet. -/
def Obligations.MailboxSets : Prop :=
  ∀ (q : MbReq) (s : State), fnOk q.fn = true →
    (∀ (scope : W16) (item count : Byte) (entries : List Byte) (es : List (List Byte)),
      let l := [(0, natLe 2 scope.toNat), (2, natLe 1 item.toNat), (3, natLe 1 count.toNat), (0x10, entries)]
      let p := params l
      let t := copySets (takenUp 0x30 q l s)
      let n := min 8 (max 1 count.toNat)
      accepted 0x30 q l s → (scope.toNat < numDies ∨ 0xFFFD ≤ scope.toNat) → 1 ≤ item.toNat → item.toNat ≤ 4 →
      scopeOk item.toNat scope.toNat = true → entriesApplied item.toNat p (List.range n) = .inr es →
      unconfirmed q t scope.toNat = [] →
      ∃ r, r.status = rsOk ∧ r.clamped = (n != count.toNat || es != (List.range n).map (entryAt p)) ∧
        exec (.setWrite q scope item count entries) s = answers 0x30 q r
          (modDies ((scopeDies s scope.toNat).filter fun d => !(item == 2 && decide (144 ≤ d)))
            (fun x => { x with arm := .idle, shadow := es.foldl (fun c e => setEntry item.toNat e c) x.shadow }) t)) ∧
    (∀ target : W64,
      let l := [(0, natLe 8 target.toNat)]
      let t := copySets (takenUp 0x31 q l s)
      let m := (dieOf t (anchorDie t)).shadow.mode
      accepted 0x31 q l s → (∃ n, stitchAhead (target.setWidth 48) (stitchNow s) = some n ∧ 512 ≤ n) →
      gradeBars s m = false → (m = .brisk → (licFeatures s.boot.lic).getLsbD 1 = true) →
      ((liveDies t).all fun d => (dieOf t d).arm != .notReady) = true →
        let u := hold q (.swap (target.setWidth 48) (timeWord t)) t
        exec (.setSwapAt q target) s = waits { u with
          swp := some { kind := .sets, fn := q.fn, target := some (target.setWidth 48), since := refNow t }
          lode := { u.lode with nacks := [] } }) ∧
    (∀ (mode : Byte) (m : Mode),
      let l := [(0, natLe 1 mode.toNat)]
      let t := copySets (takenUp 0x33 q l s)
      let v := modDies (liveDies t) (fun x => { x with shadow := { x.shadow with mode := m } }) t
      accepted 0x33 q l s → modeOf mode.toNat = some m → s.boot.bound = false → gradeBars s m = false →
      ((liveDies v).all fun d => (dieOf v d).arm != .notReady) = true →
        let u := hold q (.mode m) v
        exec (.modeSet q mode) s = waits { u with
          swp := some { kind := .mode m, fn := q.fn, old := (dieOf t (anchorDie t)).shadow.mode, since := refNow v
                        target := if s.pat.running.isNone then some (stitchNow t + 512) else none }
          lode := { u.lode with nacks := [] } })

/-- Commands of tenants and the round fence (R388, R394, R443, R444, R560), once accepted. TENANT_CONFIGURE with nothing refused and no window
that a running pattern must take applies its selected parts at once. TENANT_RESET waits, sets RESETTING and advances the tenant's epoch,
once however often it is asked. ROUND_FENCE reads, closes and waits, or opens the fence.  Completion is stated for: tenantConfigure,
tenantReset, roundFence. -/
def Obligations.MailboxTenants : Prop :=
  ∀ (q : MbReq) (s : State), fnOk q.fn = true →
    (∀ cfg : TenantCfg,
      let l := [(0, cfgBytes cfg)]
      let raw := cfgOf (params l)
      let c := cfgApplied s.boot.lic raw
      let k := c.tenant.toNat
      let t := takenUp 0x60 q l s
      accepted 0x60 q l s → k ≤ 63 → (c.which.getLsbD 2 = true → c.wstripe.toNat ≤ 5) →
      ((ringsOf c).all fun x => decide (x.2.en.toNat ≤ 1)) = true → ringsRefused s c = [] → winRefused s c = false →
        ((c.which.getLsbD 2 = false ∨ cfgWin c = (tenOf s k).win ∨ s.pat.running = none) →
          exec (.tenantConfigure q cfg) s = answers 0x60 q
            { clamped := c != raw, result := fieldsAt [(0, cfgBytes c)] }
            (if c.which.getLsbD 2 then modTen k (fun x => { x with win := cfgWin c }) (applyParts c t) else applyParts c t)) ∧
        (c.which.getLsbD 2 = true → cfgWin c ≠ (tenOf s k).win → s.pat.running.isSome → s.swp = none →
          exec (.tenantConfigure q cfg) s =
            waits (armSwap q (.window k raw) { kind := .window k, fn := q.fn } (applyParts c t)))) ∧
    (∀ tenant : Byte,
      let l := [(0, natLe 1 tenant.toNat)]
      let u := hold q (.tenantReset tenant.toNat 0) (takenUp 0x61 q l s)
      accepted 0x61 q l s → tenant.toNat ≤ 63 →
        ((tenOf s tenant.toNat).resetting = false → exec (.tenantReset q tenant) s =
          waits (modTen tenant.toNat (fun x => { x with resetting := true, epoch := x.epoch + 1 }) u)) ∧
        ((tenOf s tenant.toNat).resetting = true → exec (.tenantReset q tenant) s = waits u)) ∧
    (∀ action : Byte,
      let l := [(0, natLe 1 action.toNat)]
      let t := takenUp 0x73 q l s
      let rsp := fun (closed : Bool) => okRsp [(0, natLe 1 (b2n closed)), (8, natLe 8 s.rnd.last.toNat)]
      accepted 0x73 q l s →
        (action = 0 → exec (.roundFence q action) s = answers 0x73 q (rsp s.rnd.fence) t) ∧
        (action = 1 → s.rnd.fence = true → exec (.roundFence q action) s = answers 0x73 q (rsp true) t) ∧
        (action = 1 → s.rnd.fence = false → exec (.roundFence q action) s =
          waits (hold q .fence { t with rnd := { t.rnd with fence := true, fenceSess := [] } })) ∧
        (action = 2 → s.rnd.fence = true → exec (.roundFence q action) s = answers 0x73 q (rsp false)
          { t with rnd := { t.rnd with fence := false, fenceSess := [], freshOpen := true } }) ∧
        (action = 2 → s.rnd.fence = false → exec (.roundFence q action) s = answers 0x73 q (rsp false) t))

/-- Session images (R444, R549 to R553), once accepted. SESSION_EXPORT of a session that is committed and at rest answers its image, in units of
256 bytes, with its length, step and round, and changes nothing but the free values it draws. SESSION_IMPORT of an image that passes the
checks takes a free index, where the quota and the pool allow: a history image with tokens is rebuilt by an internal APPEND and the command
waits; another makes the session ACTIVE at once and answers its handle and length.  Completion is stated for: sessionExport, sessionImport. -/
def Obligations.MailboxSessions : Prop :=
  ∀ (q : MbReq) (s : State), fnOk q.fn = true →
    (∀ (handle : W32) (i : Nat),
      let l := [(0, natLe 4 handle.toNat)]
      let t := takenUp 0x70 q l s
      let x := sessOf s i
      accepted 0x70 q l s → sessionFor s q.fn handle = some i → x.state ≠ .failed → x.state ≠ .unparking →
      (tenOf s x.tenant).resetting = false → (s.rnd.active = false ∨ (s.rnd.parts.all fun y => y.index != i) = true) →
        exec (.sessionExport q handle) s = answers 0x70 q { okRsp [
          (0, natLe 8 (sessionImage s i).length), (8, natLe 4 x.len), (0xC, natLe 4 x.step.toNat), (0x10, natLe 8 x.lastRound.toNat)] with
          bulk := some (sessionImage s i), unit := 256 } { t with free := s.free + 80 + ceilDiv x.len 256 * 6 * 2 ^ 33 }) ∧
    (∀ (tenant : Byte) (i : Nat) (s1 : State),
      let l := [(0, natLe 1 tenant.toNat)]
      let t := takenUp 0x71 q l s
      let b := fitBytes (q.blen.toNat * 256) q.env.bulk
      let x := imageIn b
      accepted 0x71 q l s → tenant.toNat ≤ 63 → q.bulkv = true → q.baddr.toNat % 64 = 0 → q.blen.toNat ≤ 2 ^ 31 → q.env.readOk = true →
      importCheck s b = none → takeIndex t = some (i, s1) →
      (tenantSessions s tenant.toNat).length < (tenOf s tenant.toNat).quota → canGrow t {} x.npage = true →
        let fenced := fun (u : State) => if u.rnd.fence then { u with rnd := { u.rnd with fenceSess := setIns i u.rnd.fenceSess } } else u
        (x.kind = 1 → 1 ≤ x.len →
          let u := putSess i {
            gen := (sessOf t i).gen, state := .active, tenant := tenant.toNat, seed := BitVec.ofNat 64 x.seed
            step := BitVec.ofNat 32 x.step, len := 0, npage := x.npage, rebuild := true } (fenced s1)
          exec (.sessionImport q tenant) s = waits (hold q (.import_ i) { u with rnd := { u.rnd with
            nextId := u.rnd.nextId + 1, reqs := u.rnd.reqs ++ [rebuildReq u tenant.toNat q.fn i x.toks] } })) ∧
        ((x.kind ≠ 1 ∨ x.len = 0) →
          let u := putSess i {
            gen := (sessOf t i).gen, state := .active, tenant := tenant.toNat, seed := BitVec.ofNat 64 x.seed
            step := BitVec.ofNat 32 x.step, len := x.len, npage := x.npage } (fenced s1)
          let v := tailImport i (layPages i (imagePages b x) ((growTo i x.npage u).getD u))
          exec (.sessionImport q tenant) s = answers 0x71 q (okRsp [(0, natLe 4 (handleOf v i).toNat), (4, natLe 4 x.len)]) v))

/-- Commands that reset, retire and clear (R81, R297, R440, R442, R445, R447, R476, R478), once accepted. FLAGS_CLEAR clears its flags at once
with no pattern running, else waits; SITE_RETIRE of a live site whose wale has a spare plans its repair and waits, of a spare retires it at
once and disables its links; RESET_FABRIC resets the fabric; RESET_WARM names a stitch at least 391 stitches on and makes a warm reset due;
BIND_OFF begins a bind-off and waits; LINK_RETRAIN runs the ladder, joining an action in progress, or a full training and answers the link's
status word; of a retired die's disabled link it only reports.  Completion is stated for: siteRetire, flagsClear, resetFabric, resetWarm,
bindOff, linkRetrain. -/
def Obligations.MailboxResets : Prop :=
  ∀ (q : MbReq) (s : State), fnOk q.fn = true →
    (∀ mask : Byte,
      let l := [(0, natLe 1 mask.toNat)]
      let t := takenUp 0x56 q l s
      accepted 0x56 q l s →
        (s.pat.running.isSome → exec (.flagsClear q mask) s = waits (hold q (.flagsClear mask) t)) ∧
        (s.pat.running = none → exec (.flagsClear q mask) s = answers 0x56 q (flagsRsp s.rnd.panelFlags 0) (clearFlags mask t))) ∧
    (∀ course wale : Byte,
      let l := [(0, natLe 1 course.toNat), (1, natLe 1 wale.toNat)]
      let t := takenUp 0x53 q l s
      let d := siteDie course.toNat wale.toNat
      let k := skipOf s.grid.skip wale.toNat
      accepted 0x53 q l s → course.toNat ≤ 11 → wale.toNat ≤ 11 → s.boot.bound = false →
        (s.grid.retired.contains d = true →
          exec (.siteRetire q course wale) s = answers 0x53 q (okRsp [(0, natLe 1 k)]) t) ∧
        (s.grid.retired.contains d = false → k = course.toNat →
          exec (.siteRetire q course wale) s = answers 0x53 q (okRsp [(0, natLe 1 k)]) (disableLinks d (markRetired d t))) ∧
        (s.grid.retired.contains d = false → k ≠ course.toNat → dieLive s d = true → freeSpare s wale.toNat = true →
          exec (.siteRetire q course wale) s = waits (hold q (.retire d) (plan d 8 t)))) ∧
    (accepted 0x80 q [] s →
      let u := fabricReset (takenUp 0x80 q [] s)
      exec (.resetFabric q) s = answers 0x80 q (okRsp [(0, timeBytes u)]) u) ∧
    (accepted 0x81 q [] s → ∃ n, 391 ≤ n ∧
      let t := takenUp 0x81 q [] s
      exec (.resetWarm q) s = answers 0x81 q (okRsp [(0, natLe 8 (epochNow s ++ (stitchNow s + BitVec.ofNat 48 n)).toNat)])
        { t with free := s.free + 1, boot := { t.boot with warmDue := true } }) ∧
    (∀ round sess : Byte,
      let l := [(0, natLe 1 round.toNat), (1, natLe 1 sess.toNat)]
      accepted 0x82 q l s → round.toNat ≤ 1 → sess.toNat ≤ 1 → s.boot.pstate ≠ 7 → s.boot.bound = false →
        exec (.bindOff q round sess) s = waits (beginBind round.toNat sess.toNat (hold q .bindOff (takenUp 0x82 q l s)))) ∧
    (∀ (die : W16) (port form : Byte),
      let l := [(0, natLe 2 die.toNat), (2, natLe 1 port.toNat), (3, natLe 1 form.toNat)]
      let d := die.toNat
      let p := port.toNat
      let st := (linkOf s d p).state
      let ends := fun (u : State) => answers 0xA1 q (okRsp [(0, natLe 4 (linkWord u d p (linkOf u d p)))]) u
      let t := takenUp 0xA1 q l s
      accepted 0xA1 q l s → portOk d p = true → (s.boot.bound = true → computeEnd d p = false) →
        (form = 0 → (st = .axust ∨ st = .raw) →
          exec (.linkRetrain q die port form) s = ends (runLadder d p 1 q.env.ladder {} t)) ∧
        (form = 0 → st = .retraining →
          exec (.linkRetrain q die port form) s = ends (runLadder d p 1 q.env.ladder {}
            (modLink d p (fun x => { x with cnt := cntInc x.cnt (if leads d p then 10 else 21) }) t))) ∧
        (form = 1 → (st ≠ .axust ∧ st ≠ .raw ∨ s.pat.running = none) → reportsOnly s d p = false →
          exec (.linkRetrain q die port form) s = ends (fullTrain q.env.ladder d p t)) ∧
        (form = 1 → reportsOnly s d p = true →
          exec (.linkRetrain q die port form) s = answers 0xA1 q
            (okRsp [(0, natLe 4 (linkWord t d p { trained q.env.ladder t d p with state := .disabled }))]) t))


/-- MAILBOX_TAKE_UP (R411, R417, R421): where Herus runs and a request waits, the one of the highest class, in turn within it, is taken up: its
function is the one served last, TAKEN is set, and the first check of R421 that fails decides the response; with none failing the command is
carried out. A request made while none waits is the next taken up; one that is not the next waits. Unknown opcodes, opcodes that the
function may not issue, and opcodes without a licence are turned away in this order. Where none waits nothing is taken up.  Completion is
stated for: mailboxTakeUp.  Completion is stated for: mailboxTakeUp. -/
def Obligations.MailboxTakeUp : Prop :=
  (∀ (env : MbEnv) (s : State) (f : Nat), herusUp s = true → nextUp s = some f →
    exec (.mailboxTakeUp env) s = .next (duties (takeUp (leAt (areaBytes (fnOf s f).mb.req) 0 2) (areaReq f env (fnOf s f).mb)
      ((areaBytes (fnOf s f).mb.req).drop 32) s))) ∧
  (∀ (env : MbEnv) (s : State) (f : Nat), herusUp s = true → nextUp s = some f →
    let m := (fnOf s f).mb
    let q := areaReq f env m
    let op := leAt (areaBytes m.req) 0 2
    let p := (areaBytes m.req).drop 32
    let t := backlog env.wait (modFn f (fun x => { x with mb := { x.mb with taken := true } })
      { s with served := tabPut 64 s.served (classOf op) f })
    checkReq q op p t = none → exec (.mailboxTakeUp env) s = .next (duties (runBody op q p t))) ∧
  (∀ (env : MbEnv) (s : State), nextUp s = none → exec (.mailboxTakeUp env) s = .next (duties s)) ∧
  (∀ (op : Nat) (q : MbReq) (l : List (Nat × List Byte)) (s : State), fnOk q.fn = true → (fnOf s q.fn).mb.own = false →
    (∀ f, f ≤ 64 → (fnOf s f).mb.own = true → (fnOf s f).mb.taken = true) → nextUp (submitted op q l s) = some q.fn) ∧
  (∀ (q : MbReq) (s : State), fnOk q.fn = true → reachesHerus q s → nextUp (submitted 0x01 q [] s) ≠ some q.fn →
    exec (.identify q) s = waits (submitted 0x01 q [] s)) ∧
  (∀ (s : State) (f g : Nat), nextUp s = some f → (fnOf s g).mb.own = true → (fnOf s g).mb.taken = false → g ≤ 64 →
    (fnOf s f).mb.own = true ∧ (fnOf s f).mb.taken = false ∧ (fnOf s f).mb.cls ≤ (fnOf s g).mb.cls) ∧
  (∀ (op : Nat) (q : MbReq) (p : List Byte) (s : State),
    let t := backlog q.env.wait (modFn q.fn (fun x => { x with mb := { x.mb with taken := true } })
      { s with served := tabPut 64 s.served (classOf op) q.fn })
    let permitted := isPf q.fn = true ∨ whoMay op ≠ some .pf ∧ ownParams q.fn op p = true
    (whoMay op = none → takeUp op q p s = respond op q { status := rsUnknown } t) ∧
    (∀ w, whoMay op = some w → ¬permitted → takeUp op q p s = respond op q (rspRefused 1) t) ∧
    (∀ w, whoMay op = some w → permitted → s.boot.pstate ≠ 0 → s.boot.trip = false → s.boot.lic = none → freeOps.contains op = false →
      takeUp op q p s = respond op q { status := rsUnlicensed } t) ∧
    (∀ w, whoMay op = some w → permitted → s.boot.trip = true → op ≠ 0x33 → tripOps.contains op = false →
      takeUp op q p s = respond op q rspState t) ∧
    (checkReq q op p t = none → takeUp op q p s = runBody op q p t))

/-- While a request of a function is outstanding, its writes to the request area, to MB_TAG and to MB_DOORBELL are ignored and counted in
ACCESS_ERR, and so is a doorbell write of any value but 1 (R412): only the counters change before the panel goes on with its own duties. -/
def Obligations.OutstandingRequest : Prop :=
  ∀ (f off : Nat) (v : W32) (s : State), fnOk f = true → fnReached s f = true → off % 4 = 0 →
    let bytes := (natLe 4 v.toNat).map some
    let counted : Ans := .next (duties (fnCount f 0x10008 1 (fnCount f 0x10000 1 s)))
    ((fnOf s f).mb.own = true → (0x1000 ≤ off ∧ off < 0x1100 ∨ off = 0x1200 ∨ off = 0x1204) →
      exec (.registerWrite f off bytes) s = counted) ∧
    (v ≠ 1 → exec (.registerWrite f 0x1204 bytes) s = counted)

/-- How Herus completes a request (R409, R413): after the bulk output the response area holds the response, RSPTAG the tag, OWN and TAKEN are
clear, and vector 0 is raised unless NOINT was set. Nothing else of the panel changes, and of the function nothing but its response
registers, its cause bit and its held and pending messages. After a command the panel goes on with its own duties: with no long command
waiting and no bind-off, planned repair, swap or tenant reset under way, these change nothing. -/
def Obligations.ResponseWritten : Prop :=
  (∀ (op : Nat) (q : MbReq) (r : Rsp) (s : State), op < 65536 → (fnOf s q.fn).mb.dropped = false →
      let t := respond op q r s
      let b := bulkRsp q r
      let x := fnOf s q.fn
      let y := fnOf t q.fn
      let w := fun (o : Nat) => tabGet 0 x.msix o
      y.mb = { x.mb with rsp := wordsOf (rspBytes op q b.1 b.2.1 b.2.2), rsptag := q.tag, own := false, taken := false, cls := 0,
                         long := none } ∧
      y.cause = x.cause ||| 1 ∧ y.timers = x.timers ∧ y.msix = x.msix ∧ y.bme = x.bme ∧ y.latch = x.latch ∧ y.cnt = x.cnt ∧
      (∀ g, g ≠ q.fn → fnOf t g = fnOf s g) ∧ { t with fns := s.fns, out := s.out } = s ∧
      (q.noint = true → t.out = (bulkOut q r s).out ∧ y.heldMsix = x.heldMsix ∧ y.pba = x.pba) ∧
      (q.noint = false → fnExists s q.fn = true → x.bme = true → (w 3).getLsbD 0 = false →
        t.out = .msix q.fn 0 ((w 1).zeroExtend 64 <<< 32 ||| (w 0).zeroExtend 64) (w 2) :: (bulkOut q r s).out) ∧
      (q.noint = false → fnExists s q.fn = true → x.bme = true → (w 3).getLsbD 0 = true → t.out = (bulkOut q r s).out ∧ y.pba = x.pba ||| 1) ∧
      (q.noint = false → fnExists s q.fn = true → x.bme = false → t.out = (bulkOut q r s).out ∧ y.heldMsix = setIns 0 x.heldMsix)) ∧
  ∀ s : State, quiet s → duties s = s

/-! ## Rings, registers and functions (chapters 10, 11 and 17) -/

/-- The eight ring requests (R41, R347, R351, R379, R380): a request on an enabled ring with room stands in the submission ring at the host's
index, SQ_TAIL advances past it, and only the ring changes; the tail from before the present stitch is kept, so that a snapshot of this
stitch does not take the request in.  Completion is stated for: ringOpen, ringAppend, ringStep, ringDraft, ringCancel, ringClose, ringPark,
ringUnpark. -/
def Obligations.RingRequests : Prop :=
  ∀ (r : RingRef) (d : Desc) (s : State), ringOk r = true → fnReached s r.tenant = true →
    let q := ringOf s r.tenant r.pair
    let next := (q.hostNext + 1) % 2 ^ q.k
    q.en = true → q.k ≤ 16 → (tenOf s r.tenant).resetting = false → s.boot.pstate ≠ 0 →
    next ≠ q.sqHead → tailOk q next = true →
    let t : Nat → Ans := fun op => .next (duties (modRing r.tenant r.pair (fun y => { y with
      posted := tabPut (0, {}) y.posted y.hostNext (op, d), hostNext := next, sqTail := next
      tailWas := if y.tailAt = some (stitchNow s) then y.tailWas else y.sqTail, tailAt := some (stitchNow s) }) s))
    exec (.ringOpen r d) s = t 1 ∧ exec (.ringAppend r d) s = t 2 ∧ exec (.ringStep r d) s = t 3 ∧ exec (.ringDraft r d) s = t 4 ∧
    exec (.ringCancel r d) s = t 5 ∧ exec (.ringClose r d) s = t 6 ∧ exec (.ringPark r d) s = t 7 ∧ exec (.ringUnpark r d) s = t 8

/-- What a ring request does at its turn (R334, R339, R347, R348, R353): OPEN below the quota takes a free index and makes its session ACTIVE
with its seed; a handle that names nothing is STALE; CLOSE frees the session, PARK marks one that holds pages, UNPARK of an ACTIVE session
completes at once, STEP and DRAFT of an empty session are BAD_REQUEST, and a STEP below the sequence limit waits for rows. -/
def Obligations.RequestTurns : Prop :=
  ∀ (r : Req) (s : State), r.intern = none → badDesc r.op r.d = false →
    let x := sessOf s r.index
    let named := (sessionNamed s r.tenant r.d.handle).isSome ∧ r.index ≠ noIndex
    (r.op = 1 → (tenOf s r.tenant).quota ≤ (tenantSessions s r.tenant).length → turnOf r s = .finish stQuota s) ∧
    (r.op = 1 → (tenantSessions s r.tenant).length < (tenOf s r.tenant).quota → takeIndex s = none → turnOf r s = .finish stNoSpace s) ∧
    (∀ i s1, r.op = 1 → (tenantSessions s r.tenant).length < (tenOf s r.tenant).quota → takeIndex s = some (i, s1) →
      ∃ t, turnOf r s = .finish stOk t ∧
        sessOf t i = { gen := (sessOf s i).gen, state := .active, tenant := r.tenant, seed := r.d.arg, tailpos := (sessOf t i).tailpos }) ∧
    (r.op ≠ 1 → ¬named → turnOf r s = .finish stStale s) ∧
    (r.op = 6 → named → x.state ≠ .free → x.state ≠ .unparking → turnOf r s = .finish stOk (freeSession r.index s)) ∧
    (r.op = 7 → named → x.state = .active → x.npage = 0 → turnOf r s = .finish stOk s) ∧
    (∀ t, r.op = 7 → named → x.state = .active → x.npage ≠ 0 → startMark r.index false s = some t → turnOf r s = .finish stOk t) ∧
    (r.op = 7 → named → x.state = .active → x.npage ≠ 0 → startMark r.index false s = none → turnOf r s = .finish stNoSpace s) ∧
    (r.op = 8 → named → x.state = .active → turnOf r s = .finish stOk s) ∧
    ((r.op = 3 ∨ r.op = 4 ∧ r.toks.isSome) → named → x.state = .active → r.started = false → s.pat.running.isSome → x.len = 0 →
      turnOf r s = .finish stBad s) ∧
    (r.op = 3 → named → x.state = .active → r.started = false → s.pat.running.isSome → x.len ≠ 0 →
      turnOf r s = if licSeqMax s.boot.lic ≤ x.len then .finish stLimit s else .rows)

/-- Doorbells, token arrays, bus mastering and read failures (R41, R351, R377 to R379, R382, R384): a head returns completion entries, a tail
within the ring is taken, with the tail from before the present stitch kept for a snapshot of this stitch, one outside it stops the ring
with reason 2, and a disabled pair counts and ignores both; arrived tokens go to the oldest request of the tag; a change of bus mastering
releases what was held; a descriptor that cannot be read stops its ring with reason 1, and a token array leaves its request malformed. 
Completion is stated for: doorbellWrite, tokenArrayArrived, busMasterEnable, hostMemoryReadFailed. -/
def Obligations.RingEvents : Prop :=
  ∀ s : State,
    let moved := fun (n : Nat) (y : RingPair) => { y with
      sqTail := n % 2 ^ y.k, tailWas := if y.tailAt = some (stitchNow s) then y.tailWas else y.sqTail, tailAt := some (stitchNow s) }
    (∀ (f i : Nat) (tail head : Option W16), fnOk f = true → i < 8 → f < 64 → fnReached s f = true → s.boot.pstate ≠ 0 →
      let q := ringOf s f i
      let out := fun (t : State) => exec (.doorbellWrite f i tail head) s = .next (duties t)
      let live := q.en = true ∧ (tenOf s f).resetting = false
      (¬live → out (fnCount f 0x10010 1 s)) ∧
      (∀ h, live → head = some h → tail = none → out (modRing f i (returnCq h.toNat) s)) ∧
      (∀ t, live → head = none → tail = some t → tailOk q t.toNat = true →
        out (modRing f i (moved t.toNat) s)) ∧
      (∀ t, live → head = none → tail = some t → tailOk q t.toNat = false → out (stopRing f i 2 s)) ∧
      (∀ h t, live → head = some h → tail = some t → tailOk q t.toNat = true →
        out (modRing f i (moved t.toNat) (modRing f i (returnCq h.toNat) s))) ∧
      (live → head = none → tail = none → out s)) ∧
    (∀ (t : Nat) (tag : W64) (l : List W32) (r : Req), t < 64 → awaitingToks s t tag = some r →
      exec (.tokenArrayArrived t tag l) s = .next (duties (modReq r.id (fun x => { x with toks := some (fitToks x.left l) }) s)) ∧
      exec (.hostMemoryReadFailed (.tokenArray t tag)) s =
        .next (duties (modReq r.id (fun x => { x with toks := some [], d := { x.d with arg := 1 } }) s))) ∧
    (∀ f : Nat, fnOk f = true → fnReached s f = true →
      exec (.busMasterEnable f false) s = .next (duties (modFn f (fun x => { x with bme := false }) s)) ∧
      exec (.busMasterEnable f true) s = .next (duties (releaseHeld f (modFn f (fun x => { x with bme := true }) s)))) ∧
    (∀ r : RingRef, ringOk r = true → ringLive s r.tenant r.pair = true →
      exec (.hostMemoryReadFailed (.descriptor r)) s = .next (duties (stopRing r.tenant r.pair 1 s)))

/-- Register accesses of a host that reaches the function (R407, R410, R565 to R570, R575): INT_CAUSE is cleared by ones; a write of the request
area (but for its RSVD fields, which stay 0), the tag or the event head with no request outstanding is stored, and the doorbell makes the
request wait; the response area takes no write; a misaligned access that crosses a register reads and writes nothing, is counted in
ACCESS_ERR and ACC_UR and answered as unsupported, and a misaligned read of two bytes within a register returns them (R569); the LO register
of a pair latches its HI register, which a read of that register then returns once.  Completion is stated for: intCauseClear, registerWrite,
misalignedAccess, pairLoRead. -/
def Obligations.RegisterAccesses : Prop :=
  ∀ (f off : Nat) (v : W32) (s : State), fnOk f = true → fnReached s f = true →
    let bytes := (natLe 4 v.toNat).map some
    let mb := fun (g : Mailbox → Mailbox) => modFn f (fun x => { x with mb := g x.mb }) s
    (exec (.intCauseClear f v) s = .next (modFn f (fun x => { x with cause := x.cause &&& ~~~v }) s)) ∧
    (off % 4 = 0 → (fnOf s f).mb.own = false →
      (0x1000 ≤ off → off < 0x1100 → exec (.registerWrite f off bytes) s =
        .next (duties (mb fun m => { m with req := tabPut 0 m.req ((off - 0x1000) / 4) (reqStored ((off - 0x1000) / 4) v) }))) ∧
      exec (.registerWrite f 0x1200 bytes) s = .next (duties (mb fun m => { m with tag := v })) ∧
      exec (.registerWrite f 0x1204 ((natLe 4 1).map some)) s = .next (duties (mb fun m => { m with
        own := true, taken := false, cls := classOf (leAt (areaBytes m.req) 0 2) })) ∧
      exec (.registerWrite f 0x1210 bytes) s = .next (duties (mb fun m => { m with head := v.toNat % 32 })) ∧
      (0x1100 ≤ off → off < 0x1200 → exec (.registerWrite f off bytes) s = .next (duties s))) ∧
    (∀ (len : Nat) (write : Bool), off + len ≤ 2 ^ 26 → len ≤ 4096 →
      ((len = 2 ∨ len = 4 ∨ len = 8) ∧ off % len ≠ 0 ∨ 8 < len ∧ off % 4 ≠ 0) → off / 4 ≠ (off + len - 1) / 4 →
      exec (.misalignedAccess f off len write) s = .next (emit (.ur f off) (fnCount f 0x1000C 1 (fnCount f 0x10000 1 s)))) ∧
    (isLo off = true → exec (.pairLoRead f off 4) s = .next (emit (.readData f off (natLe 4 (regWord s f off).toNat))
      (modFn f (fun x => { x with latch := tabPut none x.latch off (some (regWord s f (off + 4))) }) s))) ∧
    (∀ h, isLo off = true → tabGet none (fnOf s f).latch off = some h →
      exec (.pairLoRead f (off + 4) 4) s = .next (emit (.readData f (off + 4) (natLe 4 h.toNat))
        (modFn f (fun x => { x with latch := tabPut none x.latch off none }) s))) ∧
    (off % 4 = 0 → off + 4 ≤ 2 ^ 26 → isLo off = false → (off < 4 ∨ isLo (off - 4) = false) →
      exec (.pairLoRead f off 4) s = .next (emit (.readData f off (natLe 4 (regWord s f off).toNat)) s) ∧
      exec (.pairLoRead f (off + 1) 2) s =
        .next (emit (.readData f (off + 1) (((natLe 4 (regWord s f off).toNat).drop 1).take 2)) s))

/-- Resets of functions and host ports (R374, R376, R394, R414, R580): a function whose mailbox holds no long command keeps the contents of its
two areas and takes reset values elsewhere; a VF or a reset of port 0 also disables the tenant's ring pairs and begins a tenant reset, after
all VFs; a reset of port 1 resets PF1 and closes intake; VFs are enabled as a number once and disabled all together.  Completion is stated
for: hostPortReset, vfFlr, vfEnableChange.  Completion is stated for: hostPortReset, vfFlr, vfEnableChange. -/
def Obligations.FunctionResets : Prop :=
  ∀ s : State,
    let cleared := fun (f : Nat) (u : State) => { mb := { req := (fnOf u f).mb.req, rsp := (fnOf u f).mb.rsp } : Func }
    (∀ f, (fnOf s f).mb.long = none → resetFn f s = modFn f (fun _ => cleared f s) s) ∧
    (∀ f, resetTenantFn f s = beginReset f (modTen f (fun x => { x with rings := [] }) (resetFn f s))) ∧
    (∀ f, 1 ≤ f → f ≤ 63 → fnReached s f = true → exec (.vfFlr f) s = .next (duties (resetTenantFn f s))) ∧
    (∀ kind, kind ≠ .perst → exec (.hostPortReset 0 kind) s = .next (duties (resetTenantFn 0 (disableVfs s)))) ∧
    (exec (.hostPortReset 0 .perst) s = .next (duties (resetTenantFn 0 (disableVfs
      { s with pins := { s.pins with hostPerst := setIns 0 s.pins.hostPerst } })))) ∧
    (∀ kind, kind ≠ .perst → exec (.hostPortReset 1 kind) s =
      .next (duties { resetFn 64 s with intake := { s.intake with open_ := false } })) ∧
    (exec (.hostPortReset 1 .perst) s = .next (duties
      { resetFn 64 { s with pins := { s.pins with hostPerst := setIns 1 s.pins.hostPerst } } with
        intake := { s.intake with open_ := false } })) ∧
    (portUp s 0 = true → exec (.vfEnableChange false 0) s = .next (duties (disableVfs s)) ∧
      ∀ n, n ≤ 63 → s.pins.numVfs = 0 →
        exec (.vfEnableChange true n) s = .next (duties { s with pins := { s.pins with numVfs := n } }))

/-- The weight-intake aperture (R396 to R398) with port 1 up: a whole unit written where the open target maps it is stored in panel memory,
after the earlier operations on it, its poison cleared, and counted as four sectors; written elsewhere its bytes are counted as discarded; a
read returns the bytes of the units mapped and zeros elsewhere, and touches the units it reads.  Completion is stated for: apertureWrite,
apertureRead. -/
def Obligations.ApertureAccesses : Prop :=
  ∀ (u : Nat) (s : State), u < 2 ^ 24 → portUp s 1 = true →
    (∀ (a : Nat) (data : List Byte), data.length = 256 → apertureUnit s u = some a →
      let t := writeAfter a 0xF data s
      exec (.apertureWrite (256 * u) data) s = .next { t with intake := { t.intake with sectors := t.intake.sectors + 4 } }) ∧
    (∀ data : List Byte, 1 ≤ data.length → data.length ≤ 256 → apertureUnit s u = none →
      exec (.apertureWrite (256 * u) data) s =
        .next { s with intake := { s.intake with discMap := s.intake.discMap + BitVec.ofNat 64 data.length } }) ∧
    (∀ (off : Nat) (data : List Byte), apertureOk off data.length = true →
      exec (.apertureWrite off data) s = .next ((apertureParts off data.length).foldl
        (fun t x => aperturePart x.1 x.2.1 ((data.drop (256 * x.1 + x.2.1 - off)).take x.2.2) t) s)) ∧
    (∀ (a n : Nat), 1 ≤ n → n ≤ 256 → apertureUnit s u = some a →
      exec (.apertureRead (256 * u) n) s =
        .next (duties (apertureTouch a (emit (.apertureData (256 * u) ((readBytes s a).take n)) s))) ∧
      (unitGone s a = false → readBytes s a = unitBytes s a)) ∧
    (∀ n : Nat, 1 ≤ n → n ≤ 256 → apertureUnit s u = none →
      exec (.apertureRead (256 * u) n) s = .next (duties (emit (.apertureData (256 * u) (List.replicate n 0)) s)))


/-! ## Timebase and swaps (chapter 05) -/

/-- The timebase events outside a freeze (R158, R161 to R163, R169, R170, R175, R176, R181, R194, R265). STITCH_START ends a die's stitch: its
count grows by one, its phase starts anew, its epoch grows where the count wraps, an unextended stitch slews by at most one slot time
towards zero phase error, and set flits that landed in it take their places; the clusters' copies of the count follow, and with a pattern
running their work of the stitch comes about, a set section's cluster with cycles left raising OVR; at the lodestar the totals follow. A
lean entry named for that stitch then takes effect. HOLD_LINE samples the die's reports; REPORT of a live die and EXTEND lengthen the stitch
by 128 slot times on every live die; MARK compares counts and phases, or loads them after a timebase fault (in the order of log entry 133);
TBU and a sync frame with bad parity record their fault. Nothing else changes.  Completion is stated for: stitchStart, holdLine, mark,
syncFrameReceive, tbu, extend, report. -/
def Obligations.StitchEvents : Prop :=
  (∀ (s : State) (d : Nat), dieOk d = true →
    let ended := modNI d niEdge (modDie d (dieEdge s.lode.mode) s)
    let lode := fun (u : State) => if d = anchorDie s then { u with lode := lodeEdge (dieOf u d).ref u.lode } else u
    (s.lode.frozen = true → exec (.stitchStart d) s = .next s) ∧
    (s.lode.frozen = false → exec (.stitchStart d) s = .next (leanPoint d (stitchStart d s))) ∧
    (s.lode.frozen = false → s.pat.running = none → (∀ k, d < 144 → k < 4 → (cluOf s d k).srvs = []) →
      stitchStart d s = lode (if d < 144 then
        (List.range 4).foldl (fun u k => modClu d k (fun c => { c with count := c.count + 1, droop := false }) u) ended else ended)) ∧
    (s.lode.frozen = false → s.pat.running.isSome →
      stitchStart d s = lode (if d < 144 then
        (List.range 4).foldl (fun u k => srvEdge d k u) ((List.range 4).foldl (fun u k =>
          modClu d k (cluEdge (budget u) (inElastic u)) (if inSetSection u then edgeOvr d k u else u)) ended) else ended)) ∧
    (s.pwr.leanDue = false → leanPoint d s = s)) ∧
  (∀ (m : Mode) (x : Die),
    let y := dieEdge m x
    let e := if x.quanta = 0 then slewStep x.slew else 0
    y.count = x.count + 1 ∧ y.phase = 0 ∧ y.len = modeSlots m ∧ y.quanta = 0 ∧ y.slew = x.slew + e ∧
    y.ref = x.ref + BitVec.ofNat 64 (((x.len : Int) + e).toNat - x.phase) ∧
    y.epoch = (if x.count = BitVec.allOnes 48 then x.epoch + 1 else x.epoch)) ∧
  (∀ (d k : Nat) (u : State),
    (leftOver (budget u) (cluOf u d k) = none → edgeOvr d k u = u) ∧
    ∀ n left, leftOver (budget u) (cluOf u d k) = some (n, left) → ∃ r : FaultRec, edgeOvr d k u = addPatFault d r u ∧ r.code = 2 ∧
      r.detail = BitVec.ofNat 16 left ∧ r.clu = BitVec.ofNat 2 k ∧ r.sc = BitVec.ofNat 3 n) ∧
  ∀ s : State,
    (∀ (d : Nat) (left : List (Nat × Nat)), dieOk d = true → s.lode.frozen = false →
      let p := holdPhase s.lode.mode + 128 * s.lode.quanta
      let sampled := modDie d (fun x => { x with
        ref := x.ref + BitVec.ofNat 64 (p - x.phase), phase := max p x.phase, reporting := mustReport d s left }) s
      (inSetSection s = false → exec (.holdLine d left) s = .next sampled) ∧
      (inSetSection s = true → exec (.holdLine d left) s = .next (left.foldl (fun u y =>
        if y.1 < 4 ∧ 25 < y.2 then modClu d y.1 (fun c => { c with extCaused := c.extCaused + 1 }) u else u) sampled)) ∧
      (left = [] → mustReport d s left = flitsOwed s d) ∧
      (flitsOwed s d = true → mustReport d s left = true) ∧
      (∀ y ∈ left, y.1 < 4 → inSetSection s = true → 25 < y.2 → mustReport d s left = true)) ∧
    (∀ d, dieOk d = true → exec (.report d) s =
      .next (if dieLive s d then { s with lode := { s.lode with reported := true } } else s)) ∧
    (∀ n, s.lode.reported = true → exec (.extend n) s = .next { s with
      dies := (modDies (liveDies s) (fun x => { x with len := x.len + 128, quanta := x.quanta + 1, reporting := false }) s).dies
      lode := { s.lode with quanta := s.lode.quanta + 1, stall := s.lode.stall + 128, reported := false, stretchedNow := true
                            added := s.lode.added + 128 } }) ∧
    (∀ n, s.lode.reported = false → exec (.extend n) s = .next s) ∧
    (∀ (d : Nat) (count : BitVec 48) (e : Int), dieOk d = true → s.lode.frozen = false → (dieOf s d).loadNext = true →
      let u := modDie d (fun x => { x with count := count, phase := 0, slew := 0, loadNext := false })
        (modDie d (fun x => { x with
          holdover := false, phaseMax := max x.phaseMax e.natAbs, warns := if 8 < e.natAbs then x.warns + 1 else x.warns }) s)
      exec (.mark d count e) s = .next (if d < 144
        then (List.range 4).foldl (fun v k => modClu d k (fun c => { c with count := count }) v) u else u)) ∧
    (∀ (d : Nat) (count : BitVec 48) (e : Int), dieOk d = true → s.lode.frozen = false → (dieOf s d).loadNext = false →
      let u := modDie d (fun x => { x with
        slew := e, holdover := false, phaseMax := max x.phaseMax e.natAbs
        warns := if 8 < e.natAbs then x.warns + 1 else x.warns }) s
      let v := if (dieOf s d).count ≠ count then timebaseFault d 0x10 (BitVec.ofInt 16 e) u else u
      exec (.mark d count e) s = .next (if 32 < e.natAbs then timebaseFault d 0x11 (BitVec.ofInt 16 e) v else v)) ∧
    (∀ (r k : Nat), rankOk r = true → k < 4 → let d := physOf s.grid.skip r
      exec (.tbu r k) s = .next (timebaseFault d 0x13 0 (modClu d k (fun c => { c with tbu := c.tbu + 1, droop := true }) s))) ∧
    (∀ (d : Nat) (f : BitVec 80), dieOk d = true → exec (.syncFrameReceive d f) s = .next (if framePar f then s else
      modDie d (fun x => { x with swapGot := none }) (niCount d 12 (timebaseFault d 0x12 0 s))))

/-- Freezes and their end (R122, R172 to R174, R195): the first FREQ names a freeze point 40 slot times on and later ones join it; FREEZE sets
the point named; at FREEZE_POINT every live die stops at it; RELEASE of the last holder names a resume point 40 slot times on; RESUME sets
it; at RESUME_POINT time goes on from it, the frozen slot times join the totals, and paused clusters that nothing holds go on and count the
cycles from their own stop.  Completion is stated for: freq, freeze, freezePoint, release, resume, resumePoint. -/
def Obligations.Freezes : Prop :=
  ∀ s : State,
    let l := s.lode
    let point := BitVec.ofNat 48 (refNow s).toNat + 40
    (∀ d, dieOk d = true → exec (.freq d) s = .next { s with lode := { l with
      holders := setIns d l.holders, resumeAt := none
      freezeAt := if l.frozen = false ∧ l.freezeAt = none then some point else l.freezeAt } }) ∧
    (∀ p, l.frozen = false → exec (.freeze p) s = .next { s with lode := { l with freezeAt := some p } }) ∧
    (∀ p, l.frozen = true → exec (.freeze p) s = .next s) ∧
    (∀ p, l.freezeAt = some p → l.frozen = false → exec .freezePoint s = .next { s with
      dies := (modDies (liveDies s) (fun x => { x with
        phase := x.phase + (p - BitVec.ofNat 48 x.ref.toNat).toNat
        ref := x.ref + BitVec.ofNat 64 (p - BitVec.ofNat 48 x.ref.toNat).toNat }) s).dies
      lode := { l with frozen := true, stretchedNow := true } }) ∧
    ((l.freezeAt = none ∨ l.frozen = true) → exec .freezePoint s = .next s) ∧
    (∀ d, dieOk d = true → (setDel d l.holders ≠ [] ∨ l.frozen = false ∧ l.freezeAt = none) →
      exec (.release d) s = .next { s with lode := { l with holders := setDel d l.holders } }) ∧
    (∀ d, dieOk d = true → setDel d l.holders = [] → (l.frozen = true ∨ l.freezeAt.isSome) →
      exec (.release d) s = .next { s with lode := { l with holders := [], resumeAt := some point } }) ∧
    (∀ p, exec (.resume p) s = .next { s with lode := { l with resumeAt := some p } }) ∧
    (∀ p, l.resumeAt = some p → l.frozen = true →
      let n := slotsTo (dieOf s (anchorDie s)) p
      exec .resumePoint s = .next (thawAll { s with
        dies := (modDies (liveDies s) (fun x => { x with ref := x.ref + BitVec.ofNat 64 (slotsTo x p) }) s).dies
        lode := { l with frozen := false, freezeAt := none, resumeAt := none, stall := l.stall + n
                         added := l.added + BitVec.ofNat 64 n } })) ∧
    (∀ p, l.resumeAt = some p → l.frozen = false →
      exec .resumePoint s = .next (thawAll { s with lode := { l with freezeAt := none, resumeAt := none } })) ∧
    (∀ (d ref : Nat) (c : Cluster), c.pausedSet = true → cluFreed s c = true → cluResume s d ref c = { c with
      pausedSet := false, pauseCyc := c.pauseCyc + BitVec.ofNat 32 ((ref - c.pausedAt) * setPoint s d / 2000) })

/-- Timing links and trunks (R157, R267, R268, R315, R487): a die whose timing link retrains or wakes holds over and keeps it; one whose link is
lost takes an alternative at once, and one without any holds over and is treated as one that has fallen silent: a compute site is retired, a
stack is out of service as dead, and a ring die is silent. A sync node that sees no carrier switches trunk and takes the other depth; both
the switch and the carrier loss are counted.  Completion is stated for: syncPathSwitch, timingLinkLost. -/
def Obligations.TimingPaths : Prop :=
  ∀ (d : Nat) (rep : RepairEnv) (s : State), dieOk d = true →
    let alone := modDie d (fun x => { x with holdover := true }) s
    exec (.timingLinkLost d ⟨true, rep⟩) s = .next alone ∧
    (∀ p, altTiming s d = some p →
      exec (.timingLinkLost d ⟨false, rep⟩) s = .next (modDie d (fun x => { x with holdover := false, tport := some p }) s)) ∧
    (altTiming s d = none →
      (d < 144 → exec (.timingLinkLost d ⟨false, rep⟩) s = .next (dieSilent (d / 12) (d % 12) rep alone)) ∧
      (144 ≤ d → d < 216 →
        exec (.timingLinkLost d ⟨false, rep⟩) s = .next (duties (stackOut (dieCourse d) (dieCol d) .baseDie rep alone))) ∧
      (216 ≤ d → exec (.timingLinkLost d ⟨false, rep⟩) s =
        .next { alone with grid := { s.grid with silent := setIns d s.grid.silent } })) ∧
    exec (.syncPathSwitch d) s = .next (modNI d (fun n => { n with
      southTrunk := !n.southTrunk, cnt := cntInc (cntInc n.cnt 13) 14 })
      (modDie d (fun x => { x with depth := x.depthAlt, depthAlt := x.depth }) s))

/-- The events of a pending swap (R190, R192, R193, R436) and of a timer (R189). An armed answer in time is noted; one that is not ready, or a
timeout with a die still silent, refuses the swap and names the dies; the swap frame is sent only at its stitch, eight before its target,
with every die armed; a nack counts while the swap can be withheld, and two stitches before the target a lodestar that has one withholds it;
a nack or a withhold refuses it at the target; else every live die that has the swap exchanges its sets there, the former active set
becoming the shadow set, and where some die has missed it the command is refused and the others are returned (log entry 136). A timer fires
in its target stitch and signals its event.  Completion is stated for: nack, swap, withhold, armAnswer, armTimeout, swapAtTarget, timerFire. -/
def Obligations.SwapEvents : Prop :=
  (∀ (s : State) (w : Swap) (d : Nat), s.swp = some w → dieOk d = true →
    (dieLive s d = true → (dieOf s d).arm = .idle → w.sent = false → armOver s w = false →
      let armed := { modDie d (fun x => { x with arm := .armed }) s with swp := some { w with armed := setIns d w.armed } }
      ((s.pat.running.isSome ∨ ∀ t, w.kind ≠ .window t) → exec (.armAnswer d true) s = .next armed) ∧
      (s.pat.running = none → exec (.armAnswer d true) s = .next (windowSwap armed)) ∧
      (s.pat.running.isSome → exec (.armAnswer d false) s = .next (refuseSwap [(d, 2)] s))) ∧
    (dieLive s d = true → (w.sent = true ∧ 2 < toTarget s (w.target.getD 0) ∨ w.sent = false ∧ ∃ m, w.kind = .mode m) →
      exec (.nack d) s = .next { s with lode := { s.lode with nacks := setIns d s.lode.nacks } })) ∧
  (∀ (s : State) (w : Swap), s.swp = some w →
    (w.sent = false → allArmed s = false → armOver s w = true → exec .armTimeout s =
      .next (refuseSwap (((liveDies s).filter fun d => (dieOf s d).arm != .armed).map fun d => (d, 1)) s)) ∧
    (∀ t, w.target = some t → w.sent = false → allArmed s = true → toTarget s t = 8 →
      exec (.swap t) s = .next { s with
        dies := (modDies (liveDies s) (fun x => { x with swapGot := some t }) s).dies, swp := some { w with sent := true } }) ∧
    (∀ t, (w.target ≠ some t ∨ w.sent = true ∨ allArmed s = false ∨ toTarget s t ≠ 8) → exec (.swap t) s = .next s) ∧
    (∀ t, w.sent = true → w.target = some t → s.lode.nacks ≠ [] → toTarget s t = 2 → exec (.withhold t) s = .next { s with
      dies := (modDies (liveDies s) (fun x => { x with withheld := true }) s).dies, swp := some { w with withheld := true } }) ∧
    ((w.sent = false ∨ w.target ≠ some (stitchNow s)) → exec .swapAtTarget s = .next s) ∧
    (w.sent = true → w.target = some (stitchNow s) →
      let missed := (liveDies s).filter fun d => (dieOf s d).swapGot.isNone
      let got := (liveDies s).filter fun d => !missed.contains d
      let old := (dieOf s (anchorDie s)).active
      let swapped := useSets old (modDies (liveDies s) (exchange (stitchNow s)) s)
      let some_ := useSets old (modDies got (exchange (stitchNow s)) s)
      let back := refuseSwap (missed.map fun d => (d, 4))
        { some_ with lode := { some_.lode with returning := got, swapOp := swapHolder w } }
      ((w.withheld = true ∨ s.lode.nacks ≠ []) →
        exec .swapAtTarget s = .next (refuseSwap (s.lode.nacks.map fun d => (d, 3)) s)) ∧
      (w.withheld = false → s.lode.nacks = [] → missed = [] → exec .swapAtTarget s = .next (finishLongs isSwapOp (swapRsp rsOk [])
        { swapped with swp := none, lode := { swapped.lode with nacks := [], swapOp := swapHolder w } })) ∧
      (w.withheld = false → s.lode.nacks = [] → missed ≠ [] →
        exec .swapAtTarget s = .next (if back.rnd.active then back else returnSwapped back)))) ∧
  (∀ (t : BitVec 48) (x : Die), exchange t x = { x with
    active := x.shadow, shadow := x.active, arm := .idle, swapGot := none, withheld := false, stale := true, lastSwap := x.epoch ++ t }) ∧
  (∀ (s : State) (f t : Nat) (target : BitVec 48), fnOk f = true → t < 8 → tabGet none (fnOf s f).timers t = some target →
    (target = stitchNow s → exec (.timerFire f t) s = .next (event f 1 false (BitVec.ofNat 32 t)
      (modFn f (fun x => { x with timers := tabPut none x.timers t none }) s))) ∧
    (target ≠ stitchNow s → exec (.timerFire f t) s = .next s))

/-! ## Knots, rounds and aborts (chapters 05, 06, 10 and 11) -/

/-- Knots (R120, R186, R187, R193, R196, R200): the arrival of a die that arrived in an earlier stitch at the knot of the section in progress is
noted with the stitch it comes in, before stitch F + LIMIT; once every live site has arrived the knot fires in its stitch (that of the last
arrival, in a set section not before F + LEN, log entry 137): within the round it names the next section's first stitch, for which an armed
MODE_SET is committed, and the section after it follows, and the ending knot commits the round; a section starts at its first stitch, where
its stream cores go on and what the knot gated takes effect; at F + LIMIT with a live site missing each records KTO and the round is
aborted.  Completion is stated for: arrive, fire, sectionStart, knotTimeout. -/
def Obligations.KnotEvents : Prop :=
  (∀ s : State, s.pat.running.isSome →
    (∀ (d : Nat) (k : BitVec 12), dieOk d = true → s.pat.inSect = true → k.toNat = s.pat.sect → (dieOf s d).arrived = some k →
      (dieOf s d).count ≠ (dieOf s d).arrivedIn →
      ((stitchNow s - s.pat.first).toNat < knotLimit (runImg s) s.pat.sect →
        exec (.arrive d k) s = .next { s with lode := { s.lode with
          arrivals := setIns d s.lode.arrivals
          arrivedAt := if d ∈ s.lode.arrivals then s.lode.arrivedAt else stitchNow s } }) ∧
      (knotLimit (runImg s) s.pat.sect ≤ (stitchNow s - s.pat.first).toNat → exec (.arrive d k) s = .next s)) ∧
    (∀ (f : BitVec 48) (k : BitVec 12) (env : BoundaryEnv), s.pat.inSect = true → s.rnd.active = true → k.toNat = s.pat.sect →
      allArrived s = true → f = fireStitch s → f = stitchNow s →
      let n := f + BitVec.ofNat 48 (knotOffset (runImg s) s.pat.sect)
      let fired := { s with
        lode := { s.lode with arrivals := [] }, dies := tabMap {} (fun x => { x with arrived := none }) s.dies }
      (k.toNat + 1 ≠ imgNsect (runImg s) → exec (.fire f k env) s = .next (duties (modeCommit n { fired with
        pat := { s.pat with sect := s.pat.sect + 1, first := n, inSect := false } }))) ∧
      (k.toNat + 1 = imgNsect (runImg s) → exec (.fire f k env) s = .next (duties (endRound f env fired)))) ∧
    (∀ (f : BitVec 48) (k : BitVec 12) (env : BoundaryEnv), (f ≠ fireStitch s ∨ f ≠ stitchNow s ∨ allArrived s = false) →
      exec (.fire f k env) s = .next (duties s)) ∧
    (s.rnd.active = true → s.pat.inSect = false → stitchNow s = s.pat.first →
      let u := (siteDies s).foldl (fun t d => (List.range 4).foldl (fun t k =>
        modClu d k (cluEnter (budget t) t.pat.first (dieOf t d).count) t) t) { s with pat := { s.pat with inSect := true } }
      exec .sectionStart s = .next (leanNow 0 (if modeDue s.pat.first u then swapAtTarget u else u)) ∧
      (s.pwr.leanDue = false → s.swp = none → exec .sectionStart s = .next u)) ∧
    (s.pat.inSect = true → s.rnd.active = true →
      let late := (siteDies s).filter fun d => dieLive s d && !s.lode.arrivals.contains d
      late ≠ [] → (stitchNow s - s.pat.first).toNat = knotLimit (runImg s) s.pat.sect →
      exec .knotTimeout s = .next (duties (abortPatternFault (late.foldl (fun t d => addPatFault d (ktoRec t d) t) s))))) ∧
  (∀ (s : State) (n : BitVec 48), (∀ w m, s.swp = some w → w.kind ≠ .mode m) → modeCommit n s = s) ∧
  (∀ (b : Nat) (f c : BitVec 48) (x : Cluster), cluEnter b f c x =
    { cluMapCores (fun k => { k with knot := none, last := none, next := none, loops := [] }) x with
      pausedSet := false, enter := enterCycle b f c x.base })

/-- Faults and aborts (R163, R177, R225, R266, R363), and the end of a wait for pages (R352). A FAULT frame of a pattern fault aborts under
R225, one of a timebase fault as a hardware cause; ABORT first fails the sessions found poisoned, then aborts by its cause or stops the
pattern; TBS, in a stitch that has been stalled for 2,000,000 slot times or is frozen (log entry 134), is recorded at the lodestar, ends a
tick hold and aborts the round once, and in its replay stops the pattern; in another stitch it does nothing. A request that has waited for
pages for a second completes with NOSPACE.  Completion is stated for: tbs, fault, abort, pageWaitTimeout. -/
def Obligations.AbortEvents : Prop :=
  ∀ s : State,
    (∀ (d : Nat) (c : Byte), (Instr.fault d c).wf = true → exec (.fault d c) s =
      .next (duties (if c.toNat ≤ 6 then abortPatternFault s else abortRound 2 s))) ∧
    (∀ (c : BitVec 12) (l : List Nat), (Instr.abort c l).wf = true →
      let live := l.filter fun i => (sessOf s i).state != .free
      let u := raiseOwners (live.map fun i => (sessOf s i).tenant) (live.foldl (fun t i => failSession i t) s)
      exec (.abort c l) s = .next (duties
        (if c = 1 then abortPatternFault u else if c = 4 then stopPattern u else abortRound c.toNat u))) ∧
    (let d := anchorDie s
     let u := addFault d { code := 0x14, stop := s.pat.tbsReplay } (modDie d (fun x => { x with tbCounts := cntInc x.tbCounts 0x14 }) s)
     let v := abortRound 2 (cancelHold u)
     let long := s.lode.frozen = true ∨ 2000000 ≤ s.lode.stall
     (long → s.pat.tbsReplay = true → exec .tbs s = .next (duties (stopOnFault (cancelHold u)))) ∧
     (long → s.pat.tbsReplay = false → exec .tbs s = .next (duties { v with pat := { v.pat with tbsReplay := true } })) ∧
     (¬long → exec .tbs s = .next (duties s))) ∧
    (∀ (t : Nat) (tag : W64) (r : Req), t < 64 →
      (s.rnd.reqs.find? fun x => x.tenant == t && x.d.usertag == tag && x.waitPages) = some r →
      exec (.pageWaitTimeout t tag) s = .next (flushCq (finishReq r stNoSpace 0 s)))

/-- Snapshots and park memory (R351, R367 to R370, R404, R405). A snapshot while no round runs counts a pause down and takes a boundary; during
a round it does nothing more. A copy whose writes are all acknowledged is done, and its move commits at the next boundary of a round in
progress, else at once; an unpark that is done lays the image in the session's pages, makes the session ACTIVE and completes the UNPARKs
that waited; a failed copy leaves its session ACTIVE and a failed unpark leaves it FAILED; a port that goes down fails the sessions parked
on it and is recorded with their number.  Completion is stated for: idleSnapshot, parkCopyDone, unparkDone, parkTransferFail, parkPortDown. -/
def Obligations.ParkEvents : Prop :=
  ∀ s : State,
    (roundsUp s = true → s.rnd.active = true → exec .idleSnapshot s = .next (duties s)) ∧
    (roundsUp s = true → s.rnd.active = false → exec .idleSnapshot s =
      .next (duties (idleBoundary { s with pwr := { s.pwr with pause := s.pwr.pause - 1 } }))) ∧
    (∀ i p j, i < 1048576 → jobOf s i false = some (p, j) →
      let u := modPort p (fun q => { q with
        jobs := q.jobs.map fun x => if x.index = i ∧ !x.unpark then { x with done := true } else x }) s
      (s.rnd.active = true → exec (.parkCopyDone i) s = .next (duties u)) ∧
      (s.rnd.active = false → exec (.parkCopyDone i) s = .next (duties (commitMoves u)))) ∧
    (∀ i p j, i < 1048576 → jobOf s i true = some (p, j) →
      let c := (((portOf s p).images.find? fun x => x.index == i).map (·.pages)).getD []
      let u := modPort p (fun q => { q with
        images := q.images.map fun x => if x.index = i then { x with going := true } else x }) (layPages i c (dropJob p i s))
      let v := writeDirs i (sessOf u i) (modSess i (fun x => { x with state := .active, idle := 0, pport := 0xFF, paddr := 0 }) u)
      let w := fnCount (sessOf v i).tenant 0x10138 1 v
      exec (.unparkDone i) s = .next (duties (flushCq ((unparkWaiters i w.rnd.reqs).foldl (fun t r => finishReq r stOk 0 t) w)))) ∧
    (∀ i, i < 1048576 → jobOf s i true = none → exec (.unparkDone i) s = .next (duties s)) ∧
    (∀ i poison p j, i < 1048576 → jobOf s i true = some (p, j) →
      let u := failSession i (dropJob p i s)
      let owner := (sessOf s i).tenant
      (poison = true → exec (.parkTransferFail i poison) s =
        .next (duties (flushCq (flushCq (raiseOwners [owner] (logPush (parkRec u p 0x41 0 j.addr) u)))))) ∧
      (poison = false → exec (.parkTransferFail i poison) s = .next (duties (flushCq (flushCq (raiseFaultFor [owner] u)))))) ∧
    (∀ i poison p j, i < 1048576 → jobOf s i true = none → jobOf s i false = some (p, j) →
      exec (.parkTransferFail i poison) s = .next (duties (flushCq (modSess i (fun x => { x with
        state := .active, noMark := (tenOf s x.tenant).age }) (modPort p (fun q => { q with
          copyFails := q.copyFails + 1, failed := if j.bind then q.failed + 1 else q.failed }) (dropJob p i s)))))) ∧
    (∀ p, p < 6 → (portOf s p).state = .down → exec (.parkPortDown p) s = .next (duties s)) ∧
    (∀ p, p < 6 → (portOf s p).state ≠ .down → s.boot.binding = none → (∀ j ∈ (portOf s p).jobs, j.unpark = true) →
      let lost := (s.sess.filter fun x => (x.2.state == .parked || x.2.state == .unparking) && x.2.pport == BitVec.ofNat 8 p).map Prod.fst
      let d := modPort p (fun q => { q with state := .down }) s
      let u := lost.foldl (fun t i => failSession i t) (modPort p (fun q => { q with jobs := [] }) d)
      exec (.parkPortDown p) s = .next (duties (flushCq (raiseOwners (lost.map fun i => (sessOf s i).tenant)
        (logPush (parkRec u p 0x40 lost.length 0) u))))) ∧
    (∀ p, p < 6 → exec (.parkPortDown p) s = .next (duties (portDown p s)))

/-! ## Fabric (chapter 07) -/

/-- Set traffic (R242 to R246, R248, R249). At its source a set flit is the one that its set-slot entry and its handover make; it waits there,
and at another die in the retiming buffer where that has room and does not hold it, while its link carries no flits, before its due slot, in
a slot that is no transmit slot, while the replay buffer is full, and where it is late, or was handed over less than 32 ns before its slot,
while an on-time flit or a replay has the slot. Otherwise it leaves: an on-time flit that finds its slot of the output taken by another
on-time one raises DST with its entry, link and slot and is dropped; any other crosses with DUE grown by the crossing's budget, and is
counted, a late one as late. A landing in a later stitch than the departure's writes the buffer position of its entry, takes the flit from
the retiming buffer, and counts an overwrite; one in the same stitch waits for the end of the stitch.  Completion is stated for:
setFlitForward, setFlitLanding. -/
def Obligations.SetFlits : Prop :=
  (∀ (d p slot : Nat) (f : SetFlit) (s : State), (Instr.setFlitForward d p slot f).wf = true → setOutput s d f.hdr = some p →
    let l := linkOf s d p
    let per := linkPeriod l
    let q := slotAt f.hdr slot
    let due := f.hdr.due.toNat
    let never := per = 0 ∨ slot < due ∨ q.2 % max per 1 ≠ 0 ∨ l.state = .axust ∧ txRoom s d p = false
    let hdr := { f.hdr with due := BitVec.ofNat 12 (slot + crossBudget s d p) }
    let cross := fun (g : State) => if l.state = .axust then axustSend d p 0 (setBits hdr) f.payload (dirCount d p 0 g)
      else modTx d p (fun x => { x with
        rseqTx := x.rseqTx + 1
        wire := some { chan := 0, seq := x.rseqTx, ackseq := 0, nakseq := 0, nakv := false, replay := false, hdr := setBits hdr
                       payload := f.payload } }) (dirCount d p 0 g)
    let clash := fun (g : State) => addPatFault d { code := 0x01, entry := BitVec.ofNat 16 f.entry
                                                    link := BitVec.ofNat 4 (linkCode d p), slot := BitVec.ofNat 12 q.2
                                                    detail := f.hdr.srank.setWidth 16, sect := BitVec.ofNat 12 s.pat.sect } g
    let leaves := fun (g : State) (r : Host.Outcome State Fault Refusal) =>
      (slot = due → (niOf g d).due.contains (p, q.2) = true → r = .next (clash g)) ∧
      (slot = due → (niOf g d).due.contains (p, q.2) = false → r = .next (cross (modNI d (fun n => { n with due := (p, q.2) :: n.due }) g))) ∧
      (slot ≠ due → r = .next (cross (modNI d (fun n => { n with used := (p, q.2) :: n.used }) (dirCount d p 5 (dirCount d p 4 g)))))
    (isSource s d f.hdr = true →
      (handedAt s d f.entry = none → exec (.setFlitForward d p slot f) s = .next s) ∧
      ∀ k h, handedAt s d f.entry = some (k, h) → f = sourceFlit s f.hdr.srank.toNat f.entry h →
        let held := never ∨ (slot ≠ due ∨ handedShort s d slot h = true) ∧ lateWaits s d p f q = true
        (held → exec (.setFlitForward d p slot f) s = .next s) ∧
        (¬held → leaves (modClu d k (fun c => { cluHandOver f.entry c with
          handed := tabPut {} (cluHandOver f.entry c).handed f.entry {} }) s) (exec (.setFlitForward d p slot f) s))) ∧
    (isSource s d f.hdr = false →
      let held := never ∨ slot ≠ due ∧ lateWaits s d p f q = true
      (held → exec (.setFlitForward d p slot f) s = .next (modNI d (fun n => { n with
        retime := if (n.retime.filter fun x => x.1 == p).length < 64 ∧ retimeHas p f n.retime = false then n.retime ++ [(p, f)]
          else n.retime }) s)) ∧
      (¬held → leaves (modNI d (fun n => { n with retime := retimeDel f n.retime }) s) (exec (.setFlitForward d p slot f) s)))) ∧
  (∀ (r slot : Nat) (f : SetFlit) (s : State), (Instr.setFlitLanding r slot f).wf = true →
    setOutput s (physOf s.grid.skip f.hdr.srank.toNat) f.hdr = none →
    let d := physOf s.grid.skip r
    let pos := bitsOf (landEntry (runImg s) r f.hdr.lentry.toNat) 63 52
    (f.hdr.dstitch.toNat ≠ (dieOf s d).count.toNat % 256 →
      exec (.setFlitLanding r slot f) s = .next (modNI d (fun n => { n with
        landing := tabPut [] n.landing pos (fitBytes 256 f.payload), retime := retimeDel f n.retime
        cnt := if tabGet [] (niOf s d).landing pos ≠ [] then cntInc n.cnt 5 else n.cnt }) s)) ∧
    (f.hdr.dstitch.toNat = (dieOf s d).count.toNat % 256 →
      exec (.setFlitLanding r slot f) s = .next (modNI d (fun n => { n with
        arriving := n.arriving ++ [(pos, fitBytes 256 f.payload)], retime := retimeDel f n.retime }) s))) ∧
  (∀ (r slot : Nat) (f : SetFlit) (s : State), (Instr.setFlitLanding r slot f).wf = true →
    let d := physOf s.grid.skip r
    let pos := bitsOf (landEntry (runImg s) r f.hdr.lentry.toNat) 63 52
    ∃ t, exec (.setFlitLanding r slot f) s = .next t ∧ { t with nis := s.nis, links := s.links } = s ∧
      (f.hdr.dstitch.toNat ≠ (dieOf s d).count.toNat % 256 → tabGet [] (niOf t d).landing pos = fitBytes 256 f.payload) ∧
      (f.hdr.dstitch.toNat = (dieOf s d).count.toNat % 256 →
        (niOf t d).arriving = (niOf s d).arriving ++ [(pos, fitBytes 256 f.payload)]))

/-- Free traffic (R252 to R256). In one slot each output of a die sends the oldest replay that waits, unless it is no transmit slot or a set
flit holds it; then the first flit of each input moves, in the order of HOPS, on the outputs left; then one of the die's own enters, and the
other outputs send idle frames. A flit at its destination is ejected and acknowledged at 32; one with 63 hops or no endpoint is dropped and
counted; another leaves by its best productive output. Acknowledged flits retire, and the rate window is halved with ECE, to no less than 2
and once in 4 microseconds, or grows by one, to no more than 512, for each window of flits; an acknowledgement timer sends what is
unacknowledged, in up to 30 records; an unacknowledged flit is sent again up to six times, and then raises FTX.  Completion is stated for:
freeFlitRoute, freeFlitAck, ackTimer, retransmitTimeout. -/
def Obligations.FreeFlits : Prop :=
  (∀ (d slot : Nat) (s : State), (Instr.freeFlitRoute d slot).wf = true →
    let u := (List.range 6).foldl (fun t p => slotReplay d slot p t) s
    let taken := (List.range 6).filter (outBusy u d slot)
    let r := injectOne stackServe d ((inputHeads d (niOf u d).inq).foldl (fun st x => routeOne stackServe d x st) (u, taken))
    let v := modNI d (fun n => { n with used := (r.2.filter (!taken.contains ·)).map (·, slot) ++ n.used }) r.1
    exec (.freeFlitRoute d slot) s = .next (duties ((List.range 6).foldl (fun t p => slotIdle d slot p t) v))) ∧
  (∀ (d slot p : Nat) (s : State),
    let here := { s with nis := (modNI d (fun n => { n with used := (p, slot) :: n.used }) s).nis }
    ((linkOf s d p).state ≠ .axust → slotReplay d slot p s = s ∧ slotIdle d slot p s = s) ∧
    ((linkOf s d p).state = .axust → txRoom s d p = true → outBusy s d slot p = false →
      (∀ q l, (txDir (linkOf s d p) d p).replays = q :: l → slotReplay d slot p s = sendReplay d p slot here)) ∧
    ((linkOf s d p).state = .axust → outBusy s d slot p = false →
      slotIdle d slot p s = frameOut d p 5 0 false 0 (List.replicate 256 0) here) ∧
    (outBusy s d slot p = true → slotIdle d slot p s = s)) ∧
  (∀ (d : Nat) (x : Nat × FreeFlit) (s : State) (taken : List Nat),
    let h := x.2.hdr
    let dest := endpointDie s h.drank.toNat h.dclass.toNat h.addr.toNat h.kind.toNat
    let u := modNI d (fun n => { n with inq := n.inq.erase x }) s
    (dest = none → routeOne stackServe d x (s, taken) = (niCount d 3 u, taken)) ∧
    (dest = some d → routeOne stackServe d x (s, taken) =
      (ackAt32 d h (eject stackServe d { x.2 with hdr := markEject s d h } u), taken)) ∧
    (∀ e, dest = some e → e ≠ d → h.hops = 63 → routeOne stackServe d x (s, taken) = (niCount d 0 u, taken)) ∧
    (∀ e p, dest = some e → e ≠ d → h.hops ≠ 63 → minBy (outPref d e) (productive s d e (fromRing h) taken) = some p →
      routeOne stackServe d x (s, taken) = (freeSend d p false x.2 u, p :: taken))) ∧
  (∀ (d : Nat) (dr : W16) (dc : BitVec 4) (l : List AckRec) (ece : Bool) (s : State), dieOk d = true → 144 ≤ d →
    let n := niOf s d
    let hit := n.sent.filter fun x => l.any fun r => ackCovers dr dc r x
    let w := winOf n dr dc
    let kept := { n with sent := n.sent.filter fun x => !(l.any fun r => ackCovers dr dc r x) }
    let now := (refNow s).toNat
    let soon := w.halved.any fun t => decide (now < t + 8000)
    (ece = true → soon = false → exec (.freeFlitAck d dr dc l ece) s = .next (modNI d (fun _ =>
      countHalving now (winPut kept { w with w := max 2 (w.w / 2), acked := 0, halved := some now })) s)) ∧
    (ece = true → soon = true → exec (.freeFlitAck d dr dc l ece) s = .next (modNI d (fun _ => winPut kept w) s)) ∧
    (ece = false → 0 < w.w → w.w ≤ w.acked + hit.length → w.acked + hit.length < w.w + min 512 (w.w + 1) →
      exec (.freeFlitAck d dr dc l ece) s = .next (modNI d (fun _ =>
        winPut kept { w with w := min 512 (w.w + 1), acked := w.acked + hit.length - w.w }) s)) ∧
    (ece = false → w.acked + hit.length < w.w → exec (.freeFlitAck d dr dc l ece) s = .next (modNI d (fun _ =>
      winPut kept { w with acked := w.acked + hit.length }) s))) ∧
  (∀ (d : Nat) (dr : W16) (dc : BitVec 4) (l : List AckRec) (ece : Bool) (s : State), d < 144 →
    ∃ t, exec (.freeFlitAck d dr dc l ece) s = .next t ∧ { t with nis := s.nis, clus := s.clus } = s ∧
      (niOf t d).sent = (niOf s d).sent.filter (fun x => !(l.any fun r => ackCovers dr dc r x)) ∧
      ∀ e, e ≠ d → niOf t e = niOf s e) ∧
  (∀ (d : Nat) (sr : W16) (m : BitVec 12) (s : State), dieOk d = true →
    (∀ r, ((niOf s d).rx.find? fun x => x.srank == sr && x.msg == m && !x.unacked.isEmpty) = some r →
      let recs := (ackRuns r.msg (ackGroup s r)).take 30
      let l := (ackGroup s r).filter fun o => recs.any fun a => recHas a o
      exec (.ackTimer d sr m) s = .next (modNI d (fun n => { n with
        inj := n.inj ++ [ackFlit r l recs]
        rx := n.rx.map fun x => if x.msg = r.msg ∧ x.srank = r.srank ∧ x.sclass = r.sclass
          then { x with unacked := x.unacked.filter (!l.contains ·), marked := x.marked.filter (!l.contains ·) } else x }) s)) ∧
    (((niOf s d).rx.find? fun x => x.srank == sr && x.msg == m && !x.unacked.isEmpty) = none → exec (.ackTimer d sr m) s = .next s)) ∧
  (∀ (d : Nat) (m : BitVec 12) (o : BitVec 17) (s : State) (x : Sent), dieOk d = true →
    ((niOf s d).sent.find? fun y => y.flit.hdr.msg == m && y.flit.hdr.off == o) = some x →
    (x.tries < 6 → exec (.retransmitTimeout d m o) s = .next (duties (modNI d (fun n => { n with
      sent := n.sent.map fun y => if y.flit.hdr.msg = m ∧ y.flit.hdr.off = o then { y with tries := y.tries + 1 } else y
      inj := if n.drained then n.inj else n.inj ++ [x.flit], cnt := cntInc n.cnt 1 }) s))) ∧
    (6 ≤ x.tries → exec (.retransmitTimeout d m o) s = .next (duties (abortRound 5 (addFault d { code := 0x20, detail := x.flit.hdr.drank }
      (modNI d (fun n => { n with sent := n.sent.filter fun y => !(y.flit.hdr.msg == m), cnt := cntInc n.cnt 2 }) s))))))

/-- The control fabric (R259 to R263). A packet whose CRC fails is counted and nothing of it is acted on; a good one is acknowledged at its
link. At the die it is addressed to, type 0x07 drains the interface, which reports itself empty; a table write is taken by a drained
interface, whose waiting flits enter again, and refused, counted and reported by another, the drain being repeated; a read is answered. A
packet for another die goes on, and a broadcast goes on to the ports of the tree. A packet without acknowledgement is resent up to eight
times, each counted, and then its link is marked down.  Completion is stated for: controlPacket, controlResend. -/
def Obligations.ControlFabric : Prop :=
  ∀ (d p : Nat) (s : State), portOk d p = true →
    (∀ b, ctlCrcOk b = false → exec (.controlPacket d p b) s = .next (niCount d (ctlCnt p 0) s)) ∧
    (∀ b e, ctlCrcOk b = true → peer d p = some e →
      let dest := leAt b 2 2
      let src := leAt b 4 2
      let u := modNI e.1 (fun n => { n with ctlSent := n.ctlSent.filter fun x => !(x.port == e.2 && x.seq.toNat == leAt b 6 2) }) s
      (dest = d → leAt b 0 1 = 7 → exec (.controlPacket d p b) s =
        .next (packetReply 8 d src [] (modNI d (fun n => { n with drained := true, inq := [], cnt := cntInc n.cnt 7 }) u))) ∧
      (dest = d → leAt b 0 1 = 1 → (niOf u d).drained = true → exec (.controlPacket d p b) s = .next (modNI d (fun n => { n with
        drained := false, inj := (n.inj.filter fun f => f.hdr.kind == 1) ++ n.sent.map (·.flit) }) u)) ∧
      (dest = d → leAt b 0 1 = 1 → (niOf u d).drained = false → exec (.controlPacket d p b) s =
        .next (drainFabric (packetReply 9 d src [] (niCount d 8 u)))) ∧
      (dest = d → leAt b 0 1 = 2 → ∃ l, l.length = 52 ∧ exec (.controlPacket d p b) s =
        .next (packetReply 3 d src l { u with free := u.free + 52 })) ∧
      (dest = d → leAt b 0 1 ≠ 1 → leAt b 0 1 ≠ 2 → leAt b 0 1 ≠ 7 → exec (.controlPacket d p b) s = .next u) ∧
      (dest ≠ d → dest < 0xFFFD → (∀ q, ctlToward s d dest = some q → exec (.controlPacket d p b) s = .next (ctlSend d b u q)) ∧
        (ctlToward s d dest = none → exec (.controlPacket d p b) s = .next u)) ∧
      (0xFFFD ≤ dest → exec (.controlPacket d p b) s =
        .next (((ctlChildren s d).filter (· != p)).foldl (ctlSend d b) (if ctlForMe s d dest then ctlAct d b u else u)))) ∧
    (∀ seq : W16,
      let old := (niOf s d).ctlSent.find? fun x => x.port == p && x.seq == seq
      let r := (old.map (·.resends)).getD 0
      (r < 8 → exec (.controlResend d p seq) s = .next (modNI d (fun n => { n with
        ctlSent := { port := p, seq := seq, bytes := (old.map (·.bytes)).getD [], resends := r + 1 } ::
          n.ctlSent.filter fun x => !(x.port == p && x.seq == seq)
        cnt := cntInc n.cnt (ctlCnt p 1) }) s)) ∧
      (8 ≤ r → exec (.controlResend d p seq) s = .next (modNI d (fun n => { n with
        ctlSent := n.ctlSent.filter fun x => !(x.port == p && x.seq == seq)
        ctlDown := setIns p n.ctlDown, cnt := cntInc n.cnt (ctlCnt p 2) }) s)))

/-! ## Links (chapter 08) -/

/-- Frames and raw flits (R277, R279, R282 to R284, R288, R289, R291). Frames and raw flits laid out as R277 and R288 say give their fields back
and pass their CRC. A frame that fails its CRC is counted and nothing of it is acted on; a frame that carries no flit applies its ACKSEQ
only, where it asks for no replay; a duplicate is not forwarded; a frame that is asked for, or that has gone unacknowledged, waits to be
replayed, and one replayed four times has its link run the ladder instead. A raw flit in order is accepted and the count moves on; another
is counted, raises LCK, is charged, restarts both counts and aborts the round.  Completion is stated for: axustFrameReceive, replayTimeout,
rawFlitReceive. -/
def Obligations.LinkFrames : Prop :=
  (∀ f : AxFrame, frameGood (frameBits f) f.payload = true ∧ (f.chan < 8 → frameFields (frameBits f) f.payload = f)) ∧
  (∀ (h : SetHdr) (q : BitVec 12) (l : List Byte), l.length = 256 →
    let b := rawBytes h q l
    b.length = 288 ∧ rawGood b = true ∧ rawSeq b = q ∧ setOfBits (rawHdr b) = h ∧ b.take 256 = l ∧
      ∃ tail, b = rawFlit l (setBits h) tail) ∧
  ∀ (d p : Nat) (s : State), portOk d p = true →
    let l := linkOf s d p
    (∀ b pl env rep,
      let f := frameFields b pl
      let u := modTx d p (ackFrames f.ackseq) s
      let v := takeFrame d p f s
      (l.state ≠ .axust → exec (.axustFrameReceive d p ⟨b, pl, env, rep⟩) s = .next (duties s)) ∧
      (l.state = .axust → frameGood b pl = false →
        exec (.axustFrameReceive d p ⟨b, pl, env, rep⟩) s = .next (duties (modRx d p (fun x => { x with cnt := cntInc x.cnt (8 + min f.chan 5) }) s))) ∧
      (l.state = .axust → frameGood b pl = true → f.nakv = false →
        (5 ≤ f.chan → exec (.axustFrameReceive d p ⟨b, pl, env, rep⟩) s = .next (duties u)) ∧
        (rxDuplicate (rxDir (linkOf u d p) d p) f.seq = true → exec (.axustFrameReceive d p ⟨b, pl, env, rep⟩) s = .next (duties u)) ∧
        (rxDuplicate (rxDir (linkOf u d p) d p) f.seq = false →
          (1 ≤ f.chan → f.chan ≤ 4 → exec (.axustFrameReceive d p ⟨b, pl, env, rep⟩) s = .next (duties (modNI d (fun n => { n with
            inq := n.inq ++ [(p, { hdr := routeOfBits f.hdr, chan := f.chan, payload := f.payload })] }) (modRx d p (rxNoteSeq f.seq) u)))) ∧
          (f.chan = 0 → exec (.axustFrameReceive d p ⟨b, pl, env, rep⟩) s =
            .next (duties (acceptSet d f.hdr f.payload (modRx d p (rxNoteSeq f.seq) u)))))) ∧
      (l.state = .axust → frameGood b pl = true → nakNamed v d p f = true →
        (replayLimit v d p f.nakseq = false →
          exec (.axustFrameReceive d p ⟨b, pl, env, rep⟩) s = .next (duties (modTx d p (askReplay f.nakseq) v))) ∧
        (replayLimit v d p f.nakseq = true →
          exec (.axustFrameReceive d p ⟨b, pl, env, rep⟩) s = .next (duties (runLadder d p 1 env rep v))))) ∧
    (∀ q env rep, (l.state ≠ .axust ∨ frameOf (txDir l d p) q = none) → exec (.replayTimeout d p ⟨q, env, rep⟩) s = .next (duties s)) ∧
    (∀ q x env rep, l.state = .axust → frameOf (txDir l d p) q = some x →
      let u := dirCount d p 17 s
      (replayLimit u d p q = false → exec (.replayTimeout d p ⟨q, env, rep⟩) s = .next (duties (modTx d p (askReplay q) u))) ∧
      (replayLimit u d p q = true → exec (.replayTimeout d p ⟨q, env, rep⟩) s = .next (duties (runLadder d p 1 env rep u)))) ∧
    (∀ q x, frameOf (txDir l d p) q = some x → replayLimit s d p q = decide (4 ≤ x.tries)) ∧
    (∀ pl h tail, l.state ≠ .raw → exec (.rawFlitReceive d p pl h tail) s = .next (duties s)) ∧
    (∀ pl h tail, let b := rawFlit pl h tail
      l.state = .raw → rawGood b = true → rawSeq b = (rxDir l d p).rseqRx →
      exec (.rawFlitReceive d p pl h tail) s = .next (duties (acceptSet d h pl
        (modRx d p (fun x => { x with rseqRx := x.rseqRx + 1 }) s)))) ∧
    (∀ pl h tail, let b := rawFlit pl h tail
      l.state = .raw → (rawGood b = false ∨ rawSeq b ≠ (rxDir l d p).rseqRx) →
      let u := modRx d p (fun x => { x with cnt := cntInc x.cnt 14 }) s
      exec (.rawFlitReceive d p pl h tail) s = .next (duties (abortRound 3 (modLink d p (fun y => { y with
        d0 := { y.d0 with rseqTx := 0, rseqRx := 0 }, d1 := { y.d1 with rseqTx := 0, rseqRx := 0 } })
        (addFault d { code := 0x21, link := BitVec.ofNat 4 (linkCode d p) }
          (match chargedSite s d p with | some x => chargeFault x u | none => u))))))

/-- Retrains and standby links (R286, R287, R290 to R296). A fault of a link in AXUST runs the ladder from its first step, under the freezes
that its ends in a set section ask for, and a link that the ladder leaves FAILED is charged; a fault of a link that is DOWN, RAW, in
STANDBY, DISABLED or FAILED does nothing; a request that meets an action in progress joins it and is counted at its end, and another runs
the ladder, the leader's own proceeding where both ends have asked; a standby link that misses its keep-alives fails with reason 3; a
standby check wakes the link, marks its outcome and goes back to STANDBY, unless a repair takes the link over, which is counted as
abandoned. The ladder (R285, R286): a retrain that succeeds leaves the link at its width in its state; else, but for a link in RAW, the
widest AXUST width that its lanes and bundles still carry, at least 32 lanes in all; else RAW on the 16-lane multiple of all working lanes,
except on a ring link; else FAILED with no lanes. An action in progress ends.  Completion is stated for: linkFault, retrainRequest,
keepaliveLost, standbyCheck. -/
def Obligations.LinkActions : Prop :=
  (∀ (d p : Nat) (s : State), portOk d p = true →
      let l := linkOf s d p
      (∀ env rep, (l.state = .axust ∨ l.state = .retraining) →
        exec (.linkFault d p env rep) s = .next (duties (runLadder d p 1 env rep s))) ∧
      (∀ env rep, l.state ≠ .axust → l.state ≠ .retraining → exec (.linkFault d p env rep) s = .next (duties s)) ∧
      (∀ n env rep,
        let u := climb d p n env (linkFreeze d p s)
        ((linkOf u d p).state = .failed → runLadder d p n env rep s = linkFailed d p rep u) ∧
        ((linkOf u d p).state ≠ .failed → runLadder d p n env rep s = afterLinkChange (linkRelease (freezeEnds s d p) u))) ∧
      (∀ k own env rep, (l.acting = true ∨ l.state = .retraining) →
        exec (.retrainRequest d p k ⟨own, env, rep⟩) s =
          .next (duties (modLink d p (fun y => { y with cnt := cntInc y.cnt (if leads d p then 10 else 21) }) s))) ∧
      (∀ k own env rep, l.acting = false → l.state ≠ .retraining → l.state ≠ .axust → l.state ≠ .raw →
        exec (.retrainRequest d p k ⟨own, env, rep⟩) s = .next (duties s)) ∧
      (∀ k own env rep, l.acting = false → (l.state = .axust ∨ l.state = .raw) →
        (leads d p = false → exec (.retrainRequest d p k ⟨own, env, rep⟩) s =
          .next (duties (runLadder d p (if k = .retrain then 1 else 2) env rep (modLink d p (noteRequests (some k) own) s)))) ∧
        (leads d p = true → exec (.retrainRequest d p k ⟨own, env, rep⟩) s =
          .next (duties (runLadder d p (if own.getD k = .retrain then 1 else 2) env rep (modLink d p (noteRequests own (some k)) s))))) ∧
      (exec (.keepaliveLost d p) s = .next (modLink d p (fun y =>
        if y.state = .standby then { y with state := .failed, failwhy := 3, cnt := cntInc y.cnt 16 3 } else y) s)) ∧
      (∀ found, l.state ≠ .standby → exec (.standbyCheck d p found) s = .next s) ∧
      (∀ found, l.state = .standby →
        let awake := modLink d p (fun y => { y with state := .axust, cnt := cntInc y.cnt 11 }) (linkFreeze d p s)
        let u := match found.wake with | none => awake | some env => climb d p 1 env awake
        let v := if found.slow then modLink d p (fun y => { y with cnt := cntInc y.cnt 12 }) u else u
        let passes := found.wake.isNone && delaysOk l.d0.depth found.delays0 && delaysOk l.d1.depth found.delays1
        (found.taken = true → exec (.standbyCheck d p found) s = .next (linkRelease (freezeEnds s d p)
          (modLink d p (fun y => { y with cnt := cntInc y.cnt 15 }) v))) ∧
        (found.taken = false → exec (.standbyCheck d p found) s = .next (linkRelease (freezeEnds s d p)
          (modLink d p (fun y => { y with
            state := if y.state = .axust then .standby else y.state, sbfail := !passes, cnt := cntInc y.cnt (if passes then 13 else 14) }) v))))) ∧
  (∀ (depth : BitVec 6) (delays : List Nat), delaysOk depth delays = true ↔ ∀ n ∈ delays, n + 2 ≤ depth.toNat + 1 ∧ depth.toNat ≤ n + 3) ∧
  ∀ (ring : Bool) (first : Nat) (env : LadderEnv) (l : Link),
    let r := ladder ring first env l
    let ax := fun (n : Nat) => if 64 ≤ n then 64 else if 32 ≤ n then 32 else 0
    let a := ax (min env.lanes0 l.lanes0) + ax (min env.lanes1 l.lanes1)
    let working := min 64 env.lanes0 + min 64 env.lanes1
    let raw := (if l.state = .raw then min working (l.lanes0 + l.lanes1) else working) / 16 * 16
    let b0 := bundleOk (lostMore l.frame0 env.frame0) && l.fb0
    let b1 := bundleOk (lostMore l.frame1 env.frame1) && l.fb1
    let carries := l.state ≠ .raw ∧ 32 ≤ a ∧ (b0 = true ∨ b1 = true)
    let quick := first ≤ 1 ∧ keepsWidth env l b0 b1 = true
    r.acting = false ∧ r.reqLead = none ∧ r.reqFollow = none ∧
    (quick → (l.state = .raw → r.state = .raw) ∧ (l.state ≠ .raw → r.state = .axust) ∧ r.lanes0 = l.lanes0 ∧ r.lanes1 = l.lanes1) ∧
    (¬quick → carries → r.state = .axust ∧ r.lanes0 + r.lanes1 = a ∧ r.lanes0 ≤ l.lanes0 ∧ r.lanes1 ≤ l.lanes1) ∧
    (¬quick → ¬carries → ring = false → 16 ≤ raw → r.state = .raw ∧ r.lanes0 + r.lanes1 = raw ∧ r.d0.buf = [] ∧ r.d1.buf = []) ∧
    (¬quick → ¬carries → (ring = true ∨ raw < 16) → r.state = .failed ∧ r.lanes0 = 0 ∧ r.lanes1 = 0 ∧ r.failwhy = 1)

/-! ## Panel memory (chapter 09) -/

/-- Writes of panel memory (R303, R308, R310, R311, R314): where no operation on the unit waits in the queue of the base die that serves it, a
write with a sector mask changes the sectors of the mask in its unit and no other byte, clears their poison and no other, and keeps memory
in its canonical form; a whole-unit write is read back whole; an address that names no unit writes nothing. Where operations on the unit
wait, those that came before are carried out first, in order, and a write that waited is acknowledged once it is carried out.  Completion is
stated for: memWrite.  Completion is stated for: memWrite. -/
def Obligations.MemoryWrites : Prop :=
  ∀ (a : BitVec 34) (mask : BitVec 4) (data : List Byte) (s : State),
    let u := unitPlace a.toNat
    let c := serveCourse s u.1 u.2.1 u.2.2 true
    (unitExists a.toNat = false → exec (.memWrite a mask data) s = .next s) ∧
    (unitExists a.toNat = true →
      let w := takeOp c u.1 a.toNat (fun f => f.hdr.kind == 0 && mask == 0xF && f.payload == data) s
      (w.1 = none → exec (.memWrite a mask data) s = .next (serveWrite a.toNat mask data w.2)) ∧
      (∀ f, w.1 = some f → exec (.memWrite a mask data) s = .next (serveOp (stackDie c u.1) f w.2))) ∧
    (∀ p, let mine := (stackOf s c u.1).queue.filter fun f => f.hdr.addr.toNat == a.toNat
      let w := takeOp c u.1 a.toNat p s
      w.1 = mine.find? p ∧ w.2 = (mine.takeWhile fun f => !p f).foldl (fun t f => serveOp (stackDie c u.1) f t)
        (modStack c u.1 (fun x => { x with queue := ((mine.takeWhile fun f => !p f) ++ w.1.toList).foldl List.erase x.queue }) s)) ∧
    (unitExists a.toNat = true → Memory.wf s.pmem.data → (∀ f ∈ (stackOf s c u.1).queue, f.hdr.addr.toNat ≠ a.toNat) →
      ∃ t, exec (.memWrite a mask data) s = .next t ∧
      Memory.wf t.pmem.data ∧
      (∀ i, i < 256 → mask.getLsbD (i / 64) = true → memGet t.pmem.data (a.toNat * 256 + i) = (fitBytes 256 data).getD i 0) ∧
      (∀ b, (b < a.toNat * 256 ∨ a.toNat * 256 + 256 ≤ b ∨ mask.getLsbD ((b - a.toNat * 256) / 64) = false) →
        memGet t.pmem.data b = memGet s.pmem.data b) ∧
      (mask = 0xF → unitBytes t a.toNat = fitBytes 256 data) ∧
      (tabWf 0 s.pmem.poison = true → poisonOf t a.toNat = poisonOf s a.toNat &&& ~~~mask ∧
        ∀ b, b ≠ a.toNat → poisonOf t b = poisonOf s b) ∧
      { t with pmem := s.pmem } = s ∧ t.pmem.failed = s.pmem.failed ∧ t.pmem.rebuild = s.pmem.rebuild ∧
      t.pmem.period = s.pmem.period ∧ t.pmem.scrubRow = s.pmem.scrubRow ∧ t.pmem.deferred = s.pmem.deferred)

/-- Reads of panel memory (R303, R307, R308, R312, R313, R317, R320): after the operations on the unit that came before in its base die's queue,
and the checks of its sectors, a unit without poison is answered by a read-data flit with its bytes from the stack that serves it, which
counts the read; a poisoned one is answered as well, and raises MPO with its sectors; an address that names no unit is an addressing error
at its source; where data is beyond recovery 256 bytes are answered all the same, free values (log entry 124), and nothing else differs but
the counter of free values. A sector that cannot be corrected is recovered and its unit's bytes stay, unless more than two units of its row
are erased at its position, which poisons it.  Completion is stated for: memRead. -/
def Obligations.MemoryReads : Prop :=
  (∀ (a : BitVec 34) (rank : W16) (cls : BitVec 4) (tag : RouteHdr) (found : MemCheck) (s : State),
    let u := unitPlace a.toNat
    let req := { tag with addr := a, srank := rank, sclass := cls, kind := 2 }
    let w := takeOp (serveCourse s u.1 u.2.1 u.2.2 false) u.1 a.toNat
      (fun f => f.hdr.kind == 2 && f.hdr.srank == rank && f.hdr.sclass == cls && f.hdr.msg == tag.msg && f.hdr.off == tag.off) s
    let v := checkRead a.toNat found w.2
    let c := serveCourse v u.1 u.2.1 u.2.2 false
    let counted := stackCount c u.1 (if c = u.2.1 then 0 else 8) 1 v
    let t := modNI (stackDie c u.1) (sendReply (replyFlit v a.toNat req))
      (if unitGone v a.toNat then { counted with free := counted.free + 1 } else counted)
    ((replyFlit v a.toNat req).payload.length = 256 ∧
      (unitGone v a.toNat = false → (replyFlit v a.toNat req).payload = unitBytes v a.toNat)) ∧
    (unitExists a.toNat = true → poisonOf v a.toNat = 0 →
      exec (.memRead a rank cls ⟨tag, found⟩) s = .next (duties t)) ∧
    (unitExists a.toNat = true → poisonOf v a.toNat ≠ 0 →
      exec (.memRead a rank cls ⟨tag, found⟩) s = .next (duties (mpoHandle a.toNat (poisonOf v a.toNat) (addFault (stackDie c u.1)
        { code := 0x30, detail := (poisonOf v a.toNat).setWidth 16, addr := BitVec.ofNat 32 u.2.2 } t)))) ∧
    (∀ d, unitExists a.toNat = false → endpointDie s rank.toNat cls.toNat 0 2 = some d →
      exec (.memRead a rank cls ⟨tag, found⟩) s = .next (duties (niCount d 3 s))) ∧
    (unitExists a.toNat = false → endpointDie s rank.toNat cls.toNat 0 2 = none →
      exec (.memRead a rank cls ⟨tag, found⟩) s = .next (duties s))) ∧
  ∀ (a : Nat) (found : MemCheck) (s : State),
    let u := unitPlace a
    let own := if stackLost s u.2.1 u.1 then 0xF else found.erased
    let l := ((u.2.1 + 12 - u.2.2 % 12) % 12, own) :: found.others
    let bad := if unitGone s a then 0 else beyondRecovery s u.1 u.2.2 own l
    (bad = 0 → (checkRead a found s).pmem.data = s.pmem.data ∧ (checkRead a found s).pmem.poison = s.pmem.poison) ∧
    (tabWf 0 s.pmem.poison = true → poisonOf (checkRead a found s) a = poisonOf s a ||| bad) ∧
    (∀ k, k < 4 → bad.getLsbD k = true → own.getLsbD k = true ∧ 2 < erasedAt s u.1 u.2.2 k l) ∧
    { checkRead a found s with pmem := s.pmem } = s

/-- Stacks (R315 to R324). A stack already lost is not lost again; the loss of another is recorded, and with a pattern running and the stripe
not failed its round is aborted after the fabric has drained and the torn rows are settled; a failed stripe, or a base die that falls silent
in a live course, takes the panel out of service. A temperature report sets the sensor and the refresh rate, and from 105 degrees on takes
the stack out; a visit of the scrub moves on, counts its row at the row's proxy with what it corrects and rewrites, defers a row that is
written meanwhile, and does nothing while scrubbing is off; a rebuild that is done puts its stack back IN_SERVICE.  Completion is stated
for: stackOut, scrubVisit, refreshRateChange, stackRebuildDone.  Completion is stated for: stackOut, scrubVisit, refreshRateChange,
stackRebuildDone. -/
def Obligations.StackEvents : Prop :=
  (∀ (c m : Nat) (s : State), stackOk c m = true →
    (∀ cause env, (stackOf s c m).state ≠ .inService → exec (.stackOut c m cause env) s = .next (duties s)) ∧
    (∀ cause env, (stackOf s c m).state = .inService → s.pat.running.isSome →
      let u := settleTorn m ((env.tornRows.filter fun x => x.1 == m).map Prod.snd) (drainFabric (markLost c m cause s))
      u.pmem.failed.contains m = false → (cause ≠ .baseDie ∨ courseLost s c = true) →
        exec (.stackOut c m cause env) s = .next (duties (abortRound 3 u))) ∧
    (∀ cause env, (stackOf s c m).state = .inService →
      let u := settleTorn m ((env.tornRows.filter fun x => x.1 == m).map Prod.snd) (drainFabric (markLost c m cause s))
      (u.pmem.failed.contains m = false → (cause ≠ .baseDie ∨ courseLost s c = true) → s.pat.running = none →
        exec (.stackOut c m cause env) s = .next (duties u)) ∧
      ((u.pmem.failed.contains m = true ∨ cause = .baseDie ∧ courseLost s c = false) →
        exec (.stackOut c m cause env) s = .next (duties (goOutOfService (stackDie c m) u)))) ∧
    (∀ t,
      let u := modStack c m (fun x => { x with
        temp := t
        refresh := if t ≤ 85 then 0 else if 95 < t ∨ x.refresh = 2 ∧ 93 < t then 2 else 1
        cnt := if (tabGet 0 x.cnt 21).toNat < t then tabPut 0 x.cnt 21 (BitVec.ofNat 32 t) else x.cnt }) s
      (t < 105 → exec (.refreshRateChange c m t) s = .next (duties u)) ∧
      (105 ≤ t → exec (.refreshRateChange c m t) s = .next (duties (stackOut c m .temperature {} u)))) ∧
    ((stackOf s c m).state = .rebuilding →
      let u := saveStackMap (drainFabric (modStack c m (fun x => { x with state := .inService }) s))
      exec (.stackRebuildDone c m) s = .next { u with pmem := { u.pmem with rebuild := nextRebuild u, rebuildRow := 0 } }) ∧
    ((stackOf s c m).state ≠ .rebuilding → exec (.stackRebuildDone c m) s = .next s)) ∧
  ∀ (m : Nat) (found : ScrubFind) (s : State), m < 6 →
    let n := tabGet 0 s.pmem.scrubRow m
    let l := tabGet [] s.pmem.deferred m
    let r := if n < 2 ^ 28 then n else l.headD 0
    let px := serveCourse s m (r % 12) r true
    let u := { s with pmem := { s.pmem with
      scrubRow := tabPut 0 s.pmem.scrubRow m (if n < 2 ^ 28 then n + 1 else if l = [] then 1 else n)
      scrubLast := tabPut 0 s.pmem.scrubLast m r
      deferred := tabPut [] s.pmem.deferred m ((if n < 2 ^ 28 then l else l.tail) ++ if found.written then [r] else []) } }
    let done := stackCount px m 18 found.parity (stackCount px m 17 found.located.toNat
      (stackCount px m 4 found.corrected (stackCount px m 15 1 u)))
    (s.pmem.period = 0 → exec (.scrubVisit ⟨m, found⟩) s = .next s) ∧
    (s.pmem.period ≠ 0 → found.written = true → exec (.scrubVisit ⟨m, found⟩) s = .next (stackCount px m 16 1 u)) ∧
    (s.pmem.period ≠ 0 → found.written = false → exec (.scrubVisit ⟨m, found⟩) s = .next (scrubPoison px m r found.erased done)) ∧
    (s.pmem.period ≠ 0 → found.written = false → found.erased = [] → exec (.scrubVisit ⟨m, found⟩) s = .next done)

/-! ## Lifecycle (chapter 13) -/

/-- Resets and cast-on (R448 to R450, R452, R461, R464, R473, R596). A cold reset restarts everything and begins CO0, with the flash as an
external programmer has left it while PANEL_RST_N was asserted, which holds every die; a warm reset of a panel in service begins CO0 from
what it keeps, and during a cold cast-on before the end of CO4 restarts cold. A course whose power does not come is lost for the attempt and
CO1 goes on; the next attempt after the back-off begins at CO1, or at CO0 after a failure of CO0; where ANC-N does not give up the flash
ANC-S leads; a released PERST_N brings its port up. CO0 fails with its reason or goes on to CO1, which waits for the courses without
PWR_GOOD.  Completion is stated for: coldReset, panelRstAssert, warmReset, coursePowerTimeout, backoffExpiry, flashHandoverTimeout,
pwrGoodAssert, hostPerstNDeassert. -/
def Obligations.CastOnEvents : Prop :=
  ∀ s : State,
    (∀ env, (env.programmed = none ∨ s.boot.heldRst = false) → exec (.coldReset env) s = .next (enterCo0 env (powerOn s))) ∧
    (∀ env a b sel, env.programmed = some (a, b, sel) → s.boot.heldRst = true → exec (.coldReset env) s =
      .next (enterCo0 env (powerOn { s with flash := { s.flash with slotA := a, slotB := b, bootB := sel } }))) ∧
    (exec .panelRstAssert s = .next { powerOn s with boot := { (powerOn s).boot with heldRst := true } }) ∧
    (∀ env, anchorUp s = true → s.boot.trip = false → s.boot.pstate ≠ 7 → (s.boot.pstate ≠ 0 ∨ s.boot.kind = .warm ∨ s.boot.co4Done = true) →
      exec (.warmReset env) s = .next (enterCo0 env (warmBase s))) ∧
    (∀ env, anchorUp s = true → s.boot.trip = false → s.boot.pstate = 0 → s.boot.kind ≠ .warm → s.boot.co4Done = false →
      exec (.warmReset env) s = .next (enterCo0 env (powerOn s))) ∧
    (∀ c, c < 12 → s.boot.phase = 1 → s.boot.waiting.contains c = true → s.pwr.warn = false →
      exec (.coursePowerTimeout c) s = .next (co1GoOn { s with
        grid := { s.grid with lostCourses := setIns c s.grid.lostCourses }
        boot := { s.boot with waiting := s.boot.waiting.filter (· != c) } })) ∧
    (∀ c, c < 12 → exec (.pwrGoodAssert c) s = .next (co1GoOn { s with
      boot := { s.boot with good := setIns c s.boot.good, waiting := s.boot.waiting.filter (· != c) } })) ∧
    (∀ env, s.boot.phase = 9 → anchorUp s = true → s.boot.trip = false →
      let u := { s with boot := { s.boot with attempt := s.boot.attempt + 1, wait := 0 } }
      exec (.backoffExpiry env) s = .next (if s.boot.failPh = 0 then enterCo0 env u else enterCo1 env u)) ∧
    (∀ env,
      let u := { s with boot := { s.boot with phase := 0, wait := 0 } }
      (env.anchorNOk = false → s.grid.anchorS = false → enterCo0 env s = { u with boot := { u.boot with cast := some env } }) ∧
      ((env.anchorNOk = true ∨ s.grid.anchorS = true) → (∀ why, co0Check env s.flash = some why → enterCo0 env s = castFail why 255 u) ∧
        (co0Check env s.flash = none → enterCo0 env s = enterCo1 env { u with boot := { u.boot with
          fwver := ((bootImage s.flash).map Firmware.version).getD 0, fwfall := !slotOk s.flash (bootSlot s.flash), cast := none } }))) ∧
    ((s.boot.cast = none ∨ s.boot.phase ≠ 0 ∨ anchorUp s = false) → exec .flashHandoverTimeout s = .next s) ∧
    (∀ env, s.boot.cast = some env → s.boot.phase = 0 → anchorUp s = true →
      exec .flashHandoverTimeout s = .next (runCo0 env { s with
        grid := { s.grid with anchorS := true }, boot := { s.boot with ancNOut := true, nostby := true } })) ∧
    (∀ p, p < 2 → exec (.hostPerstNDeassert p) s =
      .next { s with pins := { s.pins with hostPerst := s.pins.hostPerst.filter (· != p) } })

/-- The anchors and Herus's bind-off (R415, R454 to R456, R478, R532). With ANC-N leading and ANC-S in standby a takeover of a panel past
cast-on makes ANC-S lead, carries the lodestar's time on, aborts and replays the round and answers every outstanding command BUSY with
HANDOVER; during CO1 it begins the next attempt; without a standby the panel stops: no anchor is active and no round or pattern runs. A
warning that has lasted binds a ready panel off at once, once for each assertion, with event 0x07.  Completion is stated for:
anchorTakeover, herusBindOff, standbyAnchorFailure, soleAnchorFailure. -/
def Obligations.AnchorEvents : Prop :=
  ∀ s : State,
    (∀ c, s.grid.anchorS = false → anchorUp s = true → s.boot.nostby = false → s.boot.pstate ≠ 0 →
      let n := dieOf s 224
      let led := { s with grid := { s.grid with anchorS := true }, boot := { s.boot with ancNOut := true, nostby := true } }
      let timed := modDies [216, 217, 218, 219] (fun x => { x with tport := some 0 })
        (modDie 225 (fun x => { x with ref := n.ref, phase := n.phase, len := n.len, count := n.count, epoch := n.epoch }) led)
      exec (.anchorTakeover c) s = .next (duties (finishLongs (fun _ => true)
        (fun _ _ => { status := rsBusy, retry := 1000, handover := true }) (abortReplay timed)))) ∧
    (∀ c env, s.grid.anchorS = false → anchorUp s = true → s.boot.nostby = false → s.boot.pstate = 0 → s.boot.phase = 1 → s.boot.cast = some env →
      exec (.anchorTakeover c) s = .next (duties (enterCo1 env (castHandover s)))) ∧
    (∀ c, (s.grid.anchorS = true ∨ anchorUp s = false) → exec (.anchorTakeover c) s = .next (duties s)) ∧
    (∀ c, s.grid.anchorS = false → anchorUp s = true → s.boot.nostby = true → ∃ t, exec (.anchorTakeover c) s = .next t ∧
      t.boot.dead = true ∧ anchorUp t = false ∧ t.pat.running = none ∧ t.rnd.active = false ∧ t.pat.committed = s.pat.committed) ∧
    (exec .standbyAnchorFailure s =
      .next (if s.grid.anchorS then s else { s with boot := { s.boot with nostby := true } })) ∧
    ((s.grid.anchorS = true ∨ s.boot.nostby = true) → ∃ t, exec .soleAnchorFailure s = .next t ∧
      t.boot.dead = true ∧ t.pat.running = none ∧ t.rnd.active = false ∧ t.pmem = s.pmem ∧ t.sess = s.sess ∧ t.flash = s.flash) ∧
    (s.pwr.warn = true → s.pwr.warnDone = false → herusUp s = true → s.boot.trip = false → s.boot.pstate = 1 →
      exec .herusBindOff s =
        .next (duties (beginBind 0 1 (eventPf 7 0 { s with pwr := { s.pwr with warnDone := true } })))) ∧
    ((s.pwr.warn = false ∨ s.pwr.warnDone = true) → exec .herusBindOff s = .next (duties s))

/-! ## Repair, power and cooling (chapters 14 and 15) -/

/-- Failures of compute sites and courses (R487, R498, R515, R522 to R524, R586). A site that may fail (a live one, or one of the map while
bound off, R497) that an over-current, a regulator or silence takes is retired by repair with its cause, and a silent die stays silent; a
course that is lost is repaired as one; a glitch of PWR_GOOD below 2 microseconds is counted only, and a longer deassertion loses the course
in a run or a bind-off or with its memory rails, and else removes VIN alone; the monitors of a course count and move its set point by 50 or
25 MHz within 1,000 to 1,350; a fault of the base rail loses the course, one of the memory rails its stacks; the loss of the ring supply
stops the panel; the loss of a reference clock takes down the port of its die, replaces an anchor, and leaves a compute die or a stack
alone. Brownouts (R181, R519, R532, R533). A warning of a panel that runs its pattern in another mode than lean is noted with event 0x02 and
a lean entry becomes due; without a pattern it is named for 512 stitches on; the end of a warning is noted with event 0x03; a lean entry
that has met no knot is named for a stitch start at least 4 stitches on.  Completion is stated for: clusterOvercurrent, regulatorFault,
dieSilent, courseLoss, pwrWarnAssert, pwrWarnDeassert, forcedLeanPoint, pwrGoodDeassert, courseCurrentLimit, memoryRailFault,
ringSupplyLoss, refclkLoss. -/
def Obligations.PowerFailures : Prop :=
  (∀ s : State, repairsRun s = true →
      (∀ c w k env, siteOk c w k = true → mayFail s (siteDie c w) = true →
        exec (.clusterOvercurrent c w k env) s = .next (duties (retireSites [{ die := siteDie c w, cause := 1, clu := k }] env s)) ∧
        ∀ kind, exec (.regulatorFault c w k kind env) s = .next (duties (retireSites [{ die := siteDie c w, cause := 2, clu := k }] env s))) ∧
      (∀ c w env, siteOk c w 0 = true → mayFail s (siteDie c w) = true →
        let u := duties (retireSites [{ die := siteDie c w, cause := 3, clu := 0 }] env s)
        exec (.dieSilent c w env) s = .next { u with grid := { u.grid with silent := setIns (siteDie c w) u.grid.silent } }) ∧
      (∀ c cause env, c < 12 → exec (.courseLoss c cause env) s = .next (duties (courseLoss c cause (cause == .vin) env s))) ∧
      (∀ c ns ok env, c < 12 → s.boot.good.contains c = true → ns < 2000 → s.boot.heldRst = false →
        exec (.pwrGoodDeassert c ns ok env) s = .next (countCourse c 3 s)) ∧
      (∀ c ns ok env, c < 12 → s.boot.good.contains c = true → 2000 ≤ ns →
        let u := { s with boot := { s.boot with
          good := s.boot.good.filter (· != c)
          waiting := if s.boot.phase = 1 ∧ s.boot.cast.isSome then setIns c s.boot.waiting else s.boot.waiting } }
        (courseLost s c = true → exec (.pwrGoodDeassert c ns ok env) s = .next u) ∧
        (courseLost s c = false → (s.pat.running.isSome ∨ s.boot.binding.isSome) → exec (.pwrGoodDeassert c ns ok env) s =
          .next (duties (courseLoss c (if ok then .vin else .pwrGood) ok env u))) ∧
        (courseLost s c = false → s.pat.running = none → s.boot.binding = none →
          (ok = true → s.boot.vinGone.contains c = true → exec (.pwrGoodDeassert c ns ok env) s = .next u) ∧
          (ok = true → s.boot.vinGone.contains c = false → exec (.pwrGoodDeassert c ns ok env) s = .next (vinRemoved c u)) ∧
          (ok = false → exec (.pwrGoodDeassert c ns ok env) s = .next (duties (courseLoss c .pwrGood false env u))))) ∧
      (∀ c env, c < 12 → courseLost s c = false → s.boot.bound = false → s.boot.vinGone.contains c = false →
        let sp := tabGet 1350 s.pwr.courseSp c
        let moved := fun (v : Nat) =>
          countCourse c 2 { s with pwr := { s.pwr with courseSp := tabPut 1350 s.pwr.courseSp c (max 1000 (min 1350 v)) } }
        (ocSoon s c = false → exec (.courseCurrentLimit c .over420 env) s =
          .next (countCourse c 1 { s with pwr := { s.pwr with ocAt := tabPut none s.pwr.ocAt c (some (refNow s)) } })) ∧
        (ocSoon s c = true → exec (.courseCurrentLimit c .over420 env) s = .next s) ∧
        (1000 < sp → exec (.courseCurrentLimit c .over440 env) s = .next (moved (sp - 50))) ∧
        (sp ≤ 1000 → exec (.courseCurrentLimit c .over440 env) s = .next s) ∧
        (sp < 1350 → exec (.courseCurrentLimit c .below430 env) s = .next (moved (sp + 25))) ∧
        exec (.courseCurrentLimit c .under165 env) s = .next (countCourse c 4 s) ∧
        exec (.courseCurrentLimit c .under150 env) s = .next (duties (courseLoss c .vin true env s))) ∧
      (∀ c env, c < 12 → courseLost s c = false →
        exec (.memoryRailFault c .vbase env) s = .next (duties (courseLoss c .vbase false env s)) ∧
        ∀ rail, rail ≠ .vbase → exec (.memoryRailFault c rail env) s = .next (duties (stacksOut c env s))) ∧
      (∃ t, exec .ringSupplyLoss s = .next t ∧ t.boot.supplyLost = true ∧ t.boot.dead = true ∧ t.pat.running = none ∧ t.rnd.active = false) ∧
      (exec (.refclkLoss 217) s = .next (duties (portReset 0 .linkDown s)) ∧
        exec (.refclkLoss 221) s = .next (duties (portReset 1 .linkDown s)) ∧
        (∀ d, d < 216 → exec (.refclkLoss d) s = .next (duties s)) ∧
        exec (.refclkLoss 224) s = .next (duties (anchorTakeover s)) ∧
        exec (.refclkLoss 225) s = .next (duties (if s.grid.anchorS then panelDead s else standbyFails s)) ∧
        ∀ d p, parkOfDie d = some p → exec (.refclkLoss d) s = .next (duties (portDown p s)))) ∧
  ∀ s : State, herusUp s = true →
    (s.pwr.warn = true → exec .pwrWarnAssert s = .next s) ∧
    (s.pwr.warn = false → s.boot.pstate = 1 → s.boot.trip = false → s.lode.mode ≠ .lean →
      let u := eventPf 2 0 { s with pwr := { s.pwr with warn := true, warnDone := false } }
      exec .pwrWarnAssert s = .next { u with pwr := { u.pwr with
        leanDue := true, forced := if s.pat.running.isSome then u.pwr.forced else some (stitchNow s + 512) } }) ∧
    (s.pwr.warn = true → s.boot.pstate ≠ 0 →
      exec .pwrWarnDeassert s = .next (eventPf 3 0 { s with pwr := { s.pwr with warn := false } })) ∧
    (s.pwr.warn = false → exec .pwrWarnDeassert s = .next s) ∧
    (s.pwr.leanDue = true → s.pwr.forced = none → ∃ n, 4 ≤ n ∧ n ≤ 5 ∧ exec .forcedLeanPoint s =
      .next { s with pwr := { s.pwr with forced := some (stitchNow s + BitVec.ofNat 48 n) } })

/-- Trims, the cap and throttling (R165, R518, R526, R527, R531, R539). A trim step moves a cluster's trim by at most 5 mV and never above its
ceiling; the cap set point falls by 50 MHz when a limit of the panel or the compute zone is passed, to no less than 1,000, and rises by 25
only with headroom on every limit, full duty and 1 ms since the last rise; CAP_CONTROL takes the means in and reports the cap; a throttle
step lowers the hottest compute die's set point by 50 MHz, to no less than 1,000, and its temperatures are noted. Before the trims of a
millisecond pending copies of sets are made (R436, log entry 138), and a stack at the double refresh rate, or with its access halved, counts
it (R329).  Completion is stated for: marginTrim, capControl, throttleStep. -/
def Obligations.CapAndThrottle : Prop :=
  (∀ (mv n : Nat) (c : Cluster), let t := trimStep mv n c
    (0 < n → t.warnIv = c.warnIv + BitVec.ofNat 32 n ∧ t.quiet = 0 ∧
      t.trim = if mv + c.trim + 5 ≤ min 900 c.vceil then c.trim + 5 else c.trim) ∧
    (n = 0 → t.warnIv = c.warnIv ∧ (c.quiet < 255 → t.quiet = c.quiet + 1 ∧ t.trim = c.trim) ∧ (255 ≤ c.quiet → t.quiet = 0 ∧ t.trim = c.trim - 5)) ∧
    t.cores = c.cores ∧ t.mem = c.mem ∧ t.mx = c.mx ∧ t.vceil = c.vceil) ∧
  (∀ (ref : W64) (lim d : Draws) (p : Power), let t := capStep ref lim d p
    (lim.panel < d.panel ∨ lim.compute < d.compute → t.capSp = max 1000 (p.capSp - 50)) ∧
    (d.panel ≤ lim.panel → d.compute ≤ lim.compute → t.capSp = p.capSp ∨ t.capSp = min 1350 (p.capSp + 25) ∧ p.duty = 32 ∧ p.capSp < 1350 ∧
      d.memory ≤ lim.memory ∧ 100 * d.panel ≤ 97 * lim.panel ∧ 100 * d.compute ≤ 97 * lim.compute ∧ 100 * d.memory ≤ 97 * lim.memory ∧
      t.capRose = some ref ∧ ∀ r, p.capRose = some r → 2000000 ≤ (ref - r).toNat) ∧
    (lim.memory < d.memory → t.paceNeeded = true)) ∧
  (∀ (d : Draws) (s : State), herusUp s = true → s.boot.trip = false → s.boot.pstate ≠ 0 →
    let u := courseDraw { s with pwr := { s.pwr with draws := d, idle := if s.rnd.active then s.pwr.idle else d } }
    exec (.capControl d) s = .next (reportCap { u with pwr := capStep (refNow s) (limitsOf s) d u.pwr })) ∧
  (∀ (w : List (Nat × Nat)) (s : State), herusUp s = true → s.boot.trip = false → ∃ t, exec (.marginTrim w) s = .next t ∧
    let u := refreshTick (copySets s)
    { t with clus := s.clus } = u ∧ ∀ d k, d < 144 → k < 4 → tabWf {} s.clus = true →
      cluOf t d k = if siteOn u d then trimStep (Config.railMv (d * 4 + k) (setPoint u d)) (tabGet 0 w (d * 4 + k)) (cluOf s d k)
        else cluOf s d k) ∧
  (∀ (s : State) (c m : Nat), stackOk c m = true → (stackOf s c m).refresh = 0 → stackOf (refreshTick s) c m = stackOf s c m) ∧
  (∀ x : Stack, x.refresh = 1 → refreshMs x = { x with cnt := cntInc x.cnt 19 1 }) ∧
  (∀ x : Stack, x.refresh = 2 → refreshMs x = { x with cnt := cntInc (cntInc x.cnt 19 1) 20 1 }) ∧
  (∀ (temps : List (Nat × Nat)) (raise : Bool) (s : State), herusUp s = true →
    ((s.boot.trip = true ∨ s.boot.pstate = 0) → exec (.throttleStep temps raise) s = .next (noteTemps temps s)) ∧
    (s.boot.trip = false → s.boot.pstate ≠ 0 →
      exec (.throttleStep temps raise) s = .next (throttleEvents (throttleSet raise (noteTemps temps s))))) ∧
  (∀ s : State,
    (∀ d, hotDie s = some d → throttleSet false s = { s with pwr := { s.pwr with
      throttle := tabMod 1350 s.pwr.throttle d fun x => max 1000 (x - 50) } }) ∧
    (hotDie s = none → throttleSet false s = s))

/-- Cooling (R537, R538, R542 to R546). A zone's measurement counts at a quarter of its heat and steady, of the newest sixteen; THERM_ALERT_N
follows its conditions and stays for a second after them; a trip ends the run, loses panel memory, powers every compute die and stack down
for good, takes their links down, and with a compute die or a stack is logged, while with a ring die the anchors stop; a cycle is counted in
halves of 20 K.  Completion is stated for: thermalTrip, resistanceMeasure, thermalCycleSample, healthFlashWrite, thermAlertChange. -/
def Obligations.CoolingEvents : Prop :=
  (∀ (pc pm hc hm : Nat) (sc sm : Bool) (s : State), herusUp s = true → s.boot.trip = false →
    exec (.resistanceMeasure pc pm hc hm sc sm) s = .next (reportCap (setCaps { s with thm := { s.thm with
      rc := if 2150 ≤ pc ∧ sc then (measured hc s.thm.tcmp pc :: s.thm.rc).take 16 else s.thm.rc
      rm := if 725 ≤ pm ∧ sm then (measured hm s.thm.tmem pm :: s.thm.rm).take 16 else s.thm.rm } }))) ∧
  (∀ (env : AlertEnv) (s : State), anchorUp s = true → exec (.thermAlertChange env) s = .next { s with thm := { s.thm with
    alert := env.dieHot || env.stackHot || plateAlert s || (s.thm.alert && !env.heldOneSecond) } }) ∧
  (∀ (d temp : Nat) (s : State), dieOk d = true → s.boot.trip = false → s.boot.heldRst = false → s.boot.supplyLost = false →
    ∃ t, exec (.thermalTrip d temp) s = .next t ∧ t.boot.trip = true ∧ t.boot.pstate = 7 ∧ t.boot.phase = 12 ∧ t.boot.binding = none ∧
      t.pat.running = none ∧ t.rnd.active = false ∧ t.pmem.data = [] ∧
      (tabWf {} s.links = true → ∀ e ∈ allLinks, (linkOf t e.1 e.2).state = .down ∨ (linkOf t e.1 e.2).state = .disabled) ∧ (∀ e, e < 216 → dieLive t e = false) ∧
      (216 ≤ d → t.boot.dead = true ∧ t.flog = s.flog) ∧ (t.boot.tripRec.map FaultRec.code) = some 0x60 ∧ t.flash = s.flash) ∧
  (∀ (d temp : Nat) (s : State), s.boot.trip = true → dieOk d = true → exec (.thermalTrip d temp) s = .next s) ∧
  (∀ (temps : List (Nat × Nat)) (s : State), herusUp s = true →
    exec (.thermalCycleSample temps) s = .next { s with thm := { s.thm with
      cycles := (List.range numDies).foldl (fun c d => tabMod {} c d (cycleStep (sampleTemp temps s d))) s.thm.cycles } }) ∧
  (∀ (t : Nat) (c : Cycles), let r := cycleStep t c
    r.most = max c.most t ∧ (r.hot = c.hot + if 95 ≤ t then 1 else 0) ∧
    (c.up = true → t + 20 ≤ c.hi → r.up = false ∧ r.lo = t ∧ r.half = c.half + 1) ∧
    (c.up = true → c.hi < t + 20 → r.up = true ∧ r.hi = max c.hi t ∧ r.half = c.half) ∧
    (c.up = false → c.lo + 20 ≤ t → r.up = true ∧ r.hi = t ∧ r.half = c.half + 1) ∧
    (c.up = false → t < c.lo + 20 → r.up = false ∧ r.lo = min c.lo t ∧ r.half = c.half)) ∧
  (∀ s : State, herusUp s = true → exec .healthFlashWrite s = .next { s with thm := { s.thm with
    stored := s.thm.cycles, storedC := meanOr s.thm.rc s.thm.storedC, storedM := meanOr s.thm.rm s.thm.storedM } })

/-- HEALTH_SCORING (R419, R506, R508, R509): at a new minute the counters are noted; while scoring is suspended the scores are held, else every
part is scored, low scores are counted, old charges are forgotten, and what the policy wants is planned or denied.  Completion is stated
for: healthScoring.  Completion is stated for: healthScoring. -/
def Obligations.HealthScoring : Prop :=
  ∀ (minute : Nat) (s : State), repairsRun s = true → herusUp s = true →
    let u := if s.hlt.minute < minute then { s with hlt := { s.hlt with
        minute := minute
        snaps := (List.replicate (min 61 (minute - s.hlt.minute)) (scoreCounters s) ++ s.hlt.snaps).take 61 } } else s
    (s.hlt.stale = true → exec (.healthScoring minute) s = .next u) ∧
    (s.hlt.stale = false →
      exec (.healthScoring minute) s = .next (duties ((wanted (noteLow (scoreAll u))).foldl wantOne (noteLow (scoreAll u)))))

/-! ## Management (chapter 18) -/

/-- SMBus messages (R592 to R594) with an anchor up. SET_ENDPOINT_ID keeps the identifier and answers it, except 0x00 and 0xFF, which it
refuses; GET_ENDPOINT_ID answers it, 0 before one is set; the supported message types are 0x00 and 0x7E; a readout answers its registers of
the status block once an identifier is set, and is BUSY, but for GET_STATE, until CO0 ends; COOLANT passes the checks of COOLANT_REPORT
(R421, R427, R504, R543; log entry 110), takes its turn in the order of its class and acts as it. Nothing else of the panel changes. 
Completion is stated for: setEndpointId, getEndpointId, getMctpVersionSupport, getMessageTypeSupport, getState, getPower, getTime, getFault,
coolant. -/
def Obligations.ManagementMessages : Prop :=
  ∀ s : State, anchorUp s = true →
    let ctl := fun (cmd code : Byte) (data : List Byte) (u : State) => emit (.mctp ([0, 0, cmd, code] ++ data)) u
    let vdm := fun (cmd status : Byte) (data : List Byte) (u : State) => emit (.mctp ([0x7E, 0x1F, 0x3B, cmd, status] ++ data)) u
    let word := fun (o : Nat) => natLe 4 (panelWord s (0x100000 + o)).toNat
    (∀ e, e ≠ 0 → e ≠ 0xFF → exec (.setEndpointId e) s =
      .next (ctl 1 0 [0, e, 0] { s with pins := { s.pins with eid := some e } })) ∧
    (exec (.setEndpointId 0) s = .next (ctl 1 2 [] s) ∧ exec (.setEndpointId 0xFF) s = .next (ctl 1 2 [] s)) ∧
    exec .getEndpointId s = .next (ctl 2 0 [s.pins.eid.getD 0, 0, 0] s) ∧
    (∃ v, v.length = 4 ∧ exec .getMctpVersionSupport s = .next { ctl 4 0 (1 :: v) s with free := s.free + 4 }) ∧
    exec .getMessageTypeSupport s = .next (ctl 5 0 [2, 0x00, 0x7E] s) ∧
    (s.pins.eid.isSome →
      exec .getState s = .next (vdm 1 0 (word 0x00 ++ word 0x04 ++ word 0x08 ++ word 0x0C) s) ∧
      (herusUp s = true →
        exec .getPower s = .next (vdm 2 0 (word 0x30 ++ word 0x34) s) ∧ exec .getTime s = .next (vdm 3 0 (word 0x10 ++ word 0x14) s) ∧
        exec .getFault s = .next (vdm 4 0 (word 0x28 ++ word 0x2C) s)) ∧
      (herusUp s = false → exec .getPower s = .next (vdm 2 1 [] s) ∧ exec .getTime s = .next (vdm 3 1 [] s) ∧
        exec .getFault s = .next (vdm 4 1 [] s)) ∧
      ∀ m c : W16,
        (s.boot.trip = true → exec (.coolant m c) s = .next (vdm 0x10 2 [] s)) ∧
        (s.boot.trip = false →
          (s.boot.pstate = 0 → exec (.coolant m c) s = .next (vdm 0x10 1 [] s)) ∧
          (s.boot.pstate ≠ 0 → s.boot.lic = none → exec (.coolant m c) s = .next (vdm 0x10 4 [] s)) ∧
          (s.boot.pstate ≠ 0 → s.boot.lic.isSome → resetBusy s = true → exec (.coolant m c) s = .next (vdm 0x10 1 [] s)) ∧
          (s.boot.pstate = 7 → s.boot.lic.isSome → resetBusy s = false → exec (.coolant m c) s = .next (vdm 0x10 2 [] s)) ∧
          (s.boot.pstate ≠ 0 → s.boot.pstate ≠ 7 → s.boot.lic.isSome → resetBusy s = false →
            let u := coolantReport m c { s with served := tabPut 64 s.served 1 64 }
            exec (.coolant m c) s = .next (vdm 0x10 0 (intLe 2 (clampInlet m) ++ intLe 2 (clampInlet c) ++ natLe 4 u.thm.cap) u))))

/-- JTAG (R597) with the ring supplied. BYPASS shifts one bit and captures 0 when selected; SAMPLE/PRELOAD loads the boundary register and
drives no pin; EXTEST drives the pins only while PANEL_RST_N is asserted and else acts as BYPASS, and after a takeover the port reads as
BYPASS only. Nothing but the port changes.  Completion is stated for: bypass, samplePreload, extest. -/
def Obligations.JtagInstructions : Prop :=
  ∀ s : State, s.boot.supplyLost = false →
    let shift := fun (tdi : Bool) => emit (.jtag [s.pins.jtagIr == 0 && s.pins.jtagBypass])
      { s with pins := { s.pins with jtagIr := 0, jtagBypass := tdi, driven := none } }
    let only := s.grid.anchorS || s.boot.ancNOut
    (∀ tdi, exec (.bypass tdi) s = .next (shift tdi)) ∧
    (∀ l, exec (.samplePreload l) s = .next (if only then shift false else
      emit (.jtag l) { s with pins := { s.pins with jtagIr := 1, boundary := l, driven := none } })) ∧
    (∀ l, exec (.extest l) s = .next (if only || !s.boot.heldRst then shift false else
      emit (.jtag l) { s with pins := { s.pins with jtagIr := 2, boundary := l, driven := some l } }))
end

