-- ==== Sys2Proof/Laws/Table.lean ====
section
/-! SUPPORT. Laws of sparse tables and byte memories: reads after writes, and the canonical form that every write keeps. -/

namespace Sys2Proof.Machine

open Sys2Proof

variable {α : Type}

/-! ## Reads after writes -/

/-- A read at the key just inserted. -/
@[simp] theorem tabGet_tabIns_self (d : α) (t : Tab α) (k : Nat) (v : α) : tabGet d (tabIns t k v) k = v := by
  induction t with
  | nil => simp [tabIns, tabGet]
  | cons p t ih =>
    obtain ⟨k', v'⟩ := p
    unfold tabIns
    split
    · simp [tabGet]
    · split
      · simp [tabGet]
      · rename_i h
        simp [tabGet, h, ih]

/-- The later of two inserts at a key stands. -/
@[simp] theorem tabIns_tabIns (t : Tab α) (k : Nat) (a b : α) : tabIns (tabIns t k a) k b = tabIns t k b := by
  induction t with
  | nil => simp [tabIns]
  | cons p t ih =>
    obtain ⟨k', v'⟩ := p
    simp only [tabIns]
    split
    · simp [tabIns]
    · split
      · simp [tabIns]
      · rename_i h1 h2
        simp [tabIns, h1, h2, ih]

/-- A table into which a value has been put holds something. -/
theorem tabIns_ne_nil (t : Tab α) (k : Nat) (a : α) : tabIns t k a ≠ [] := by
  cases t with
  | nil => simp [tabIns]
  | cons p t =>
    obtain ⟨k', v'⟩ := p
    simp only [tabIns]
    split
    · simp
    · split <;> simp

/-- A read at another key than the one inserted. -/
theorem tabGet_tabIns_ne (d : α) (t : Tab α) {k j : Nat} (v : α) (h : j ≠ k) :
    tabGet d (tabIns t k v) j = tabGet d t j := by
  induction t with
  | nil => simp [tabIns, tabGet, Ne.symm h]
  | cons p t ih =>
    obtain ⟨k', v'⟩ := p
    unfold tabIns
    split
    · simp [tabGet, Ne.symm h]
    · split
      · rename_i h'
        subst h'
        simp [tabGet, Ne.symm h]
      · simp only [tabGet, ih]

/-- A read at another key than the one deleted. -/
theorem tabGet_tabDel_ne (d : α) (t : Tab α) {k j : Nat} (h : j ≠ k) :
    tabGet d (tabDel t k) j = tabGet d t j := by
  induction t with
  | nil => rfl
  | cons p t ih =>
    obtain ⟨k', v'⟩ := p
    unfold tabDel
    split
    · rename_i h'
      subst h'
      simp [tabGet, Ne.symm h]
    · simp only [tabGet, ih]

variable [DecidableEq α]

/-- A read at another key than the one written. -/
theorem tabGet_tabPut_ne (d : α) (t : Tab α) {k j : Nat} (v : α) (h : j ≠ k) :
    tabGet d (tabPut d t k v) j = tabGet d t j := by
  unfold tabPut
  split
  · exact tabGet_tabDel_ne d t h
  · exact tabGet_tabIns_ne d t v h

/-- A read at a key below every key of a table. -/
theorem tabGet_below (d : α) (t : Tab α) {lo k : Nat} (h : tabWfFrom d (some lo) t = true) (hk : k ≤ lo) :
    tabGet d t k = d := by
  induction t generalizing lo with
  | nil => rfl
  | cons p t ih =>
    obtain ⟨k', v'⟩ := p
    simp only [tabWfFrom, Bool.and_eq_true, decide_eq_true_eq] at h
    have : k' ≠ k := by omega
    simp only [tabGet, this, if_false]
    exact ih h.2 (by omega)

/-- The rest of a canonical table is canonical under any bound below its first key. -/
theorem tabWfFrom_weaken (d : α) (t : Tab α) {lo : Nat} {b : Option Nat} (h : tabWfFrom d (some lo) t = true)
    (hb : ∀ l, b = some l → l ≤ lo) : tabWfFrom d b t = true := by
  cases t with
  | nil => rfl
  | cons p t =>
    obtain ⟨k', v'⟩ := p
    simp only [tabWfFrom, Bool.and_eq_true, decide_eq_true_eq] at h ⊢
    refine ⟨⟨?_, h.1.2⟩, h.2⟩
    cases b with
    | none => rfl
    | some l => simpa using lt_of_le_of_lt (hb l rfl) h.1.1

/-- A deleted key reads as the default in a canonical table. -/
theorem tabGet_tabDel_self (d : α) (t : Tab α) (k : Nat) {b : Option Nat} (h : tabWfFrom d b t = true) :
    tabGet d (tabDel t k) k = d := by
  induction t generalizing b with
  | nil => rfl
  | cons p t ih =>
    obtain ⟨k', v'⟩ := p
    simp only [tabWfFrom, Bool.and_eq_true] at h
    unfold tabDel
    split
    · rename_i hk
      exact tabGet_below d t h.2 (by omega)
    · rename_i hk
      simp only [tabGet, hk, if_false]
      exact ih h.2

/-- A read at the key just written, in a canonical table. -/
theorem tabGet_tabPut_self (d : α) (t : Tab α) (k : Nat) (v : α) (h : tabWf d t = true) :
    tabGet d (tabPut d t k v) k = v := by
  unfold tabPut
  split
  · rename_i hv
    rw [hv]
    exact tabGet_tabDel_self d t k h
  · exact tabGet_tabIns_self d t k v

/-- A read after a write, in a canonical table. -/
theorem tabGet_tabPut (d : α) (t : Tab α) (k j : Nat) (v : α) (h : tabWf d t = true) :
    tabGet d (tabPut d t k v) j = if j = k then v else tabGet d t j := by
  split
  · rename_i e
    rw [e]
    exact tabGet_tabPut_self d t k v h
  · rename_i e
    exact tabGet_tabPut_ne d t v e

/-- A read at the key just written, when the value is not the default: no canonical form is needed. -/
theorem tabGet_tabPut_some (d : α) (t : Tab α) (k : Nat) (v : α) (h : v ≠ d) : tabGet d (tabPut d t k v) k = v := by
  unfold tabPut
  rw [if_neg h, tabGet_tabIns_self]

/-- The later of two writes of values other than the default stands. -/
theorem tabPut_tabPut (d : α) (t : Tab α) (k : Nat) {a b : α} (ha : a ≠ d) (hb : b ≠ d) :
    tabPut d (tabPut d t k a) k b = tabPut d t k b := by
  unfold tabPut
  rw [if_neg hb, if_neg ha, tabIns_tabIns, if_neg hb]

/-! ## The canonical form -/

/-- Deleting keeps the canonical form. -/
theorem tabWfFrom_tabDel (d : α) (t : Tab α) (k : Nat) {b : Option Nat} (h : tabWfFrom d b t = true) :
    tabWfFrom d b (tabDel t k) = true := by
  induction t generalizing b with
  | nil => rfl
  | cons p t ih =>
    obtain ⟨k', v'⟩ := p
    have h0 := h
    simp only [tabWfFrom, Bool.and_eq_true] at h
    unfold tabDel
    split
    · refine tabWfFrom_weaken d t h.2 ?_
      intro l hl
      subst hl
      simpa using le_of_lt (by simpa using h.1.1)
    · simp only [tabWfFrom, Bool.and_eq_true]
      exact ⟨h.1, ih h.2⟩

/-- A key above every bound passes the test of the canonical form. -/
theorem bound_true {b : Option Nat} {k : Nat} (hb : ∀ l, b = some l → l < k) :
    (match (generalizing := false) b with | none => true | some l => decide (l < k)) = true := by
  cases b with
  | none => rfl
  | some l => simpa using hb l rfl

/-- Inserting a value other than the default keeps the canonical form. -/
theorem tabWfFrom_tabIns (d : α) (t : Tab α) (k : Nat) (v : α) {b : Option Nat} (h : tabWfFrom d b t = true)
    (hv : v ≠ d) (hb : ∀ l, b = some l → l < k) : tabWfFrom d b (tabIns t k v) = true := by
  revert hb
  induction t generalizing b with
  | nil =>
    intro hb
    cases b with
    | none => simp [tabIns, tabWfFrom, hv]
    | some l => simpa [tabIns, tabWfFrom, hv] using hb l rfl
  | cons p t ih =>
    intro hb
    obtain ⟨k', v'⟩ := p
    simp only [tabWfFrom, Bool.and_eq_true, decide_eq_true_eq] at h
    have hb' := bound_true hb
    unfold tabIns
    split
    · rename_i hk
      simp only [tabWfFrom, Bool.and_eq_true, decide_eq_true_eq]
      exact ⟨⟨hb', hv⟩, ⟨hk, h.1.2⟩, h.2⟩
    · split
      · rename_i hk
        subst hk
        simp only [tabWfFrom, Bool.and_eq_true, decide_eq_true_eq]
        exact ⟨⟨hb', hv⟩, h.2⟩
      · rename_i h1 h2
        simp only [tabWfFrom, Bool.and_eq_true, decide_eq_true_eq]
        refine ⟨h.1, ih h.2 ?_⟩
        intro l hl
        injection hl with hl
        omega

/-- A write keeps the canonical form. -/
theorem tabWf_tabPut (d : α) (t : Tab α) (k : Nat) (v : α) (h : tabWf d t = true) : tabWf d (tabPut d t k v) = true := by
  unfold tabPut
  split
  · exact tabWfFrom_tabDel d t k h
  · rename_i hv
    exact tabWfFrom_tabIns d t k v h hv (by intro l hl; cases hl)

/-- Several writes keep the canonical form. -/
theorem tabWf_tabPuts (d : α) (l : List (Nat × α)) (t : Tab α) (h : tabWf d t = true) :
    tabWf d (tabPuts d t l) = true := by
  induction l generalizing t with
  | nil => exact h
  | cons p l ih => exact ih _ (tabWf_tabPut d t p.1 p.2 h)

/-- A change at one key keeps the canonical form. -/
theorem tabWf_tabMod (d : α) (t : Tab α) (k : Nat) (f : α → α) (h : tabWf d t = true) : tabWf d (tabMod d t k f) = true :=
  tabWf_tabPut d t k _ h

/-- A change at one key is not seen at another. -/
theorem tabGet_tabMod_ne (d : α) (t : Tab α) {k j : Nat} (f : α → α) (h : j ≠ k) :
    tabGet d (tabMod d t k f) j = tabGet d t j := tabGet_tabPut_ne d t _ h

/-- A change at one key, in a canonical table. -/
theorem tabGet_tabMod_self (d : α) (t : Tab α) (k : Nat) (f : α → α) (h : tabWf d t = true) :
    tabGet d (tabMod d t k f) k = f (tabGet d t k) := tabGet_tabPut_self d t k _ h

/-- The empty table is canonical. -/
@[simp] theorem tabWf_nil (d : α) : tabWf d ([] : Tab α) = true := rfl

/-! ## Byte memories -/

/-- A one-byte write keeps the canonical form. -/
theorem memPut_wf (m : Mem) (a : Nat) (b : Byte) (h : Memory.wf m) : Memory.wf (memPut m a b) := tabWf_tabPut 0 m a b h

/-- A write of bytes keeps the canonical form. -/
theorem memWrite_wf (l : List Byte) (m : Mem) (a : Nat) (h : Memory.wf m) : Memory.wf (memWrite m a l) := by
  induction l generalizing m a with
  | nil => exact h
  | cons b l ih => exact ih _ _ (memPut_wf m a b h)

/-- A write of cells keeps the canonical form. -/
theorem memPuts_wf (l : List (Nat × Byte)) (m : Mem) (h : Memory.wf m) : Memory.wf (memPuts m l) :=
  tabWf_tabPuts 0 l m h

/-- A byte read after a one-byte write. -/
theorem memGet_memPut (m : Mem) (a c : Nat) (b : Byte) (h : Memory.wf m) :
    memGet (memPut m a b) c = if c = a then b else memGet m c := tabGet_tabPut 0 m a c b h

/-- A byte below or above the bytes written reads as before. -/
theorem memGet_memWrite_out (l : List Byte) (m : Mem) (a c : Nat) (h : c < a ∨ a + l.length ≤ c) :
    memGet (memWrite m a l) c = memGet m c := by
  induction l generalizing m a with
  | nil => rfl
  | cons b l ih =>
    simp only [List.length_cons] at h
    have hc : c ≠ a := by omega
    rw [memWrite, ih _ _ (by omega)]
    exact tabGet_tabPut_ne 0 m b hc

/-- A byte written reads back. -/
theorem memGet_memWrite_in (l : List Byte) (m : Mem) (a i : Nat) (hm : Memory.wf m) (hi : i < l.length) :
    memGet (memWrite m a l) (a + i) = l[i] := by
  induction l generalizing m a i with
  | nil => simp at hi
  | cons b l ih =>
    cases i with
    | zero =>
      rw [memWrite, memGet_memWrite_out _ _ _ _ (by omega), Nat.add_zero, memGet_memPut m a a b hm]
      simp
    | succ i =>
      have h := ih (memPut m a b) (a + 1) i (memPut_wf m a b hm) (by simpa using hi)
      rw [memWrite, show a + (i + 1) = a + 1 + i by omega, h]
      simp

end Sys2Proof.Machine
end

