-- ==== Sys2Proof/Laws/Issue.lean ====
section
/-! SUPPORT. Laws of the issue of a micro-op: what one that acts on its own cluster does, and the operations on clusters and
cores that issue uses. -/

namespace Sys2Proof.Machine

open Sys2Proof

/-! ## Clusters and cores -/

/-- A cluster written is read back, when it is not the default one. -/
theorem cluOf_modClu (d k : Nat) (c : Cluster) (s : State) (h : c ≠ {}) : cluOf (modClu d k (fun _ => c) s) d k = c :=
  tabGet_tabPut_some _ _ _ _ h

/-- The later of two writes of a cluster stands. -/
theorem modClu_modClu (d k : Nat) (c e : Cluster) (s : State) (h : c ≠ {}) (h' : e ≠ {}) :
    modClu d k (fun _ => e) (modClu d k (fun _ => c) s) = modClu d k (fun _ => e) s := by
  unfold modClu tabMod
  rw [tabPut_tabPut _ _ _ h h']

/-- Another cluster is not changed. -/
theorem cluOf_modClu_ne (d k e j : Nat) (f : Cluster → Cluster) (s : State) (h : e * 4 + j ≠ d * 4 + k) :
    cluOf (modClu d k f s) e j = cluOf s e j := tabGet_tabMod_ne _ _ f h

/-- A cluster that holds a core is not the default one. -/
theorem clu_ne_default {c : Cluster} (h : c.cores ≠ []) : c ≠ {} := by
  rintro rfl
  exact h rfl

/-- A core written is read back, when it is not the default one. -/
theorem cluCore_cluSetCore (c : Cluster) (n : Nat) (k : Core) (h : k ≠ {}) : cluCore (cluSetCore c n k) n = k :=
  tabGet_tabPut_some _ _ _ _ h

/-- A cluster with a core written holds one. -/
theorem cores_cluSetCore (c : Cluster) (n : Nat) (k : Core) (h : k ≠ {}) : (cluSetCore c n k).cores ≠ [] := by
  unfold cluSetCore tabPut
  rw [if_neg h]
  exact tabIns_ne_nil _ _ _

/-- Effects in flight change no core. -/
@[simp] theorem cluPend_cores (c : Cluster) (l : List Pend) : (cluPend c l).cores = c.cores := rfl

/-! ## Issue -/

/-- A core that has issued is not the default one: it knows its last cycle. -/
theorem coreIssued_ne (k : Core) (n : Nat) : coreIssued k n ≠ {} := by
  intro h
  exact Option.some_ne_none n (congrArg Core.last h)

/-- The issuing cluster holds its core. -/
theorem movedOn_cores (i : Issue) (s : State) : (movedOn i s).cores ≠ [] := cores_cluSetCore _ _ _ (coreIssued_ne _ _)

/-- A micro-op that acts on its own cluster and raises no fault changes this cluster and nothing else. -/
theorem issueUop_onCluster {i : Issue} {u : Uop} {s : State} {op : Ctx → Cluster → Cluster × List Pf} {c : Cluster}
    (h : issues i s = true) (hu : stored i u s = true) (hop : op (issueCtx i s) (movedOn i s) = (c, [])) (hc : c.cores ≠ []) :
    issueUop i u (onCluster op) s = withIssue i c s := by
  have e : cluSetCore (issueClu i s) i.sc (coreIssued (cluCore (issueClu i s) i.sc) (issueCtx i s).now) = movedOn i s := rfl
  have hk : (issueCtx i s).clu = i.clu := rfl
  have hm := clu_ne_default (movedOn_cores i s)
  simp only [issueUop, h, hu, Bool.and_self, if_true, onCluster, e, hk, cluOf_modClu _ _ _ _ hm, hop, withIssue, List.foldl_nil]
  exact modClu_modClu _ _ _ _ _ hm (clu_ne_default hc)

/-- A micro-op that cannot issue, or that its core's store does not hold, changes nothing (R1, R120, R122). -/
theorem issueUop_idle {i : Issue} {u : Uop} {s : State} (act : UopAct) (h : (issues i s && stored i u s) = false) :
    issueUop i u act s = s := by
  simp [issueUop, h]

end Sys2Proof.Machine
end

