-- ==== Sys2Proof/Laws/Keeps.lean ====
section
/-! SUPPORT. What every operation keeps: the canonical form of panel memory and the queue.  This file says what keeping them
means, and how it passes through updates, choices and folds. -/

namespace Sys2Proof.Machine

open Sys2Proof

/-- Panel memory is in its canonical form and the queue is `q`. -/
def Keeps (q : List Instr) (s : State) : Prop := Memory.wf s.pmem.data ∧ s.pending = q

/-- What keeping them means of a state given field by field. -/
theorem Keeps.mk_iff {q p : List Instr} {out free grid lode dies clus nis links m flog pat rnd sess ten park intake fns served swp flash
    boot hlt pwr thm pins} :
    Keeps q ⟨p, out, free, grid, lode, dies, clus, nis, links, m, flog, pat, rnd, sess, ten, park, intake, fns, served, swp, flash, boot,
      hlt, pwr, thm, pins⟩ ↔ Memory.wf m.data ∧ p = q := Iff.rfl

/-- The two parts of what is kept. -/
theorem Keeps.parts {q : List Instr} {s : State} (h : Keeps q s) : Memory.wf s.pmem.data ∧ s.pending = q := h

/-- The two parts of what is kept, after a write of cells to panel memory. -/
theorem Keeps.partsPut {q : List Instr} {s : State} {l : List (Nat × Byte)} (h : Keeps q s) :
    Memory.wf (memPuts s.pmem.data l) ∧ s.pending = q := ⟨memPuts_wf l _ h.1, h.2⟩

/-- The two parts of what is kept, when panel memory is emptied. -/
theorem Keeps.partsEmpty {q : List Instr} {s : State} (h : Keeps q s) : Memory.wf ([] : Mem) ∧ s.pending = q := ⟨rfl, h.2⟩

/-- A choice between two states. -/
theorem Keeps.ite {q : List Instr} {c : Prop} [Decidable c] {s t : State} (hs : Keeps q s) (ht : Keeps q t) :
    Keeps q (if c then s else t) := by split <;> assumption

/-- A fold of an operation over a list. -/
theorem Keeps.foldl {α : Type} {q : List Instr} {g : State → α → State} {l : List α} {s : State} (hs : Keeps q s)
    (hg : ∀ t a, Keeps q t → Keeps q (g t a)) : Keeps q (l.foldl g s) := by
  induction l generalizing s with
  | nil => exact hs
  | cons a l ih => exact ih (hg s a hs)

/-- A state that may have been reached, or else another. -/
theorem Keeps.getD {q : List Instr} {o : Option State} {s : State} (hs : Keeps q s) (ho : ∀ t, o = some t → Keeps q t) :
    Keeps q (o.getD s) := by
  cases o with
  | none => exact hs
  | some t => exact ho t rfl

/-- A fold whose state stands first in a pair. -/
theorem Keeps.foldlPair {α β : Type} {q : List Instr} {g : State × β → α → State × β} {l : List α} {s : State × β} (hs : Keeps q s.1)
    (hg : ∀ t a, Keeps q t.1 → Keeps q (g t a).1) : Keeps q (l.foldl g s).1 := by
  induction l generalizing s with
  | nil => exact hs
  | cons a l ih => exact ih (hg s a hs)

/-- An answer keeps them when every next state does. -/
def KeepsAns (q : List Instr) (a : Ans) : Prop := ∀ t, a = .next t → Keeps q t

/-- The answer of a meaning. -/
theorem Keeps.done {q : List Instr} {b : Bool} {s : State} (h : Keeps q s) : KeepsAns q (done b s) := by
  intro t e
  unfold Machine.done at e
  split at e
  · cases e; exact h
  · cases e

end Sys2Proof.Machine
end

