-- ==== Sys2Proof/Laws/KeepsPanel.lean ====
section
/-! SUPPORT. The named operations of the panel, records, sessions, responses, aborts, park memory and images keep the canonical form of panel memory and the queue. -/

namespace Sys2Proof.Machine

open Sys2Proof

/-! ## Machine/Panel.lean -/

theorem modDie_keeps {queue : List Instr} (d : Nat) (f : Die → Die) {s : State} (hk : Keeps queue s) : Keeps queue (modDie d f s) := by
  unfold modDie
  with_reducible repeat' (first | assumption | (simp only [Keeps.mk_iff]; refine Keeps.parts ?_))

theorem modDies_keeps {queue : List Instr} (l : List Nat) (f : Die → Die) {s : State} (hk : Keeps queue s) : Keeps queue (modDies l f s)
    := by
  unfold modDies
  with_reducible repeat' (first | assumption | apply modDie_keeps | refine Keeps.foldl ?_ (fun t a ht => ?_))

theorem modNI_keeps {queue : List Instr} (d : Nat) (f : NI → NI) {s : State} (hk : Keeps queue s) : Keeps queue (modNI d f s) := by
  unfold modNI
  with_reducible repeat' (first | assumption | (simp only [Keeps.mk_iff]; refine Keeps.parts ?_))

theorem modClu_keeps {queue : List Instr} (d k : Nat) (f : Cluster → Cluster) {s : State} (hk : Keeps queue s) : Keeps queue (modClu d k f
    s) := by
  unfold modClu
  with_reducible repeat' (first | assumption | (simp only [Keeps.mk_iff]; refine Keeps.parts ?_))

theorem modLink_keeps {queue : List Instr} (d p : Nat) (f : Link → Link) {s : State} (hk : Keeps queue s) : Keeps queue (modLink d p f s)
    := by
  unfold modLink
  with_reducible repeat' (first | assumption | (simp only [Keeps.mk_iff]; refine Keeps.parts ?_))

theorem modStack_keeps {queue : List Instr} (c m : Nat) (f : Stack → Stack) {s : State} (hk : Keeps queue s) : Keeps queue (modStack c m f
    s) := by
  unfold modStack
  with_reducible repeat' (first | assumption | (simp only [Keeps.mk_iff]; refine Keeps.parts ?_))

theorem niCount_keeps {queue : List Instr} (d i : Nat) {s : State} (hk : Keeps queue s) : Keeps queue (niCount d i s) := by
  unfold niCount
  with_reducible repeat' (first | assumption | apply modNI_keeps)

theorem emit_keeps {queue : List Instr} (e : Emission) {s : State} (hk : Keeps queue s) : Keeps queue (emit e s) := by
  unfold emit
  with_reducible repeat' (first | assumption | (simp only [Keeps.mk_iff]; refine Keeps.parts ?_))

theorem modTx_keeps {queue : List Instr} (d p : Nat) (f : LinkDir → LinkDir) {s : State} (hk : Keeps queue s) : Keeps queue (modTx d p f
    s) := by
  unfold modTx
  with_reducible repeat' (first | assumption | apply modLink_keeps)

theorem modRx_keeps {queue : List Instr} (d p : Nat) (f : LinkDir → LinkDir) {s : State} (hk : Keeps queue s) : Keeps queue (modRx d p f
    s) := by
  unfold modRx
  with_reducible repeat' (first | assumption | apply modLink_keeps)

theorem chargeFault_keeps {queue : List Instr} (d : Nat) {s : State} (hk : Keeps queue s) : Keeps queue (chargeFault d s) := by
  unfold chargeFault
  with_reducible repeat' (first | assumption | (simp only [Keeps.mk_iff]; refine Keeps.parts ?_))

theorem modFn_keeps {queue : List Instr} (f : Nat) (g : Func → Func) {s : State} (hk : Keeps queue s) : Keeps queue (modFn f g s) := by
  unfold modFn
  with_reducible repeat' (first | assumption | (simp only [Keeps.mk_iff]; refine Keeps.parts ?_))

theorem setCause_keeps {queue : List Instr} (f : Nat) (m : W32) {s : State} (hk : Keeps queue s) : Keeps queue (setCause f m s) := by
  unfold setCause
  with_reducible repeat' (first | assumption | apply modFn_keeps)

theorem sendVec_keeps {queue : List Instr} (f v : Nat) {s : State} (hk : Keeps queue s) : Keeps queue (sendVec f v s) := by
  unfold sendVec
  with_reducible repeat' (first | assumption | apply modFn_keeps | apply emit_keeps | refine Keeps.ite ?_ ?_)

theorem raiseFault_keeps {queue : List Instr} (f : Nat) {s : State} (hk : Keeps queue s) : Keeps queue (raiseFault f s) := by
  unfold raiseFault
  with_reducible repeat' (first | assumption | apply sendVec_keeps | apply setCause_keeps)

theorem logPush_keeps {queue : List Instr} (r : FaultRec) {s : State} (hk : Keeps queue s) : Keeps queue (logPush r s) := by
  unfold logPush
  with_reducible repeat' first
      | assumption | apply raiseFault_keeps | refine Keeps.ite ?_ ?_ | (simp only [Keeps.mk_iff]; refine Keeps.parts ?_)

theorem addFault_keeps {queue : List Instr} (d : Nat) (r : FaultRec) {s : State} (hk : Keeps queue s) : Keeps queue (addFault d r s) := by
  unfold addFault
  with_reducible repeat' (first | assumption | apply logPush_keeps)

theorem addPatFault_keeps {queue : List Instr} (d : Nat) (r : FaultRec) {s : State} (hk : Keeps queue s) : Keeps queue (addPatFault d r s)
    := by
  unfold addPatFault
  with_reducible repeat' (first | assumption | apply modDie_keeps | apply addFault_keeps | refine Keeps.ite ?_ ?_)

theorem pmWrite_keeps {queue : List Instr} (a : Nat) (l : List Byte) {s : State} (h : Keeps queue s) : Keeps queue (pmWrite a l s) :=
  ⟨memWrite_wf l _ a h.1, h.2⟩

/-! ## Machine/Records.lean -/

theorem modMb_keeps {queue : List Instr} (f : Nat) (g : Mailbox → Mailbox) {s : State} (hk : Keeps queue s) : Keeps queue (modMb f g s) :=
    by
  unfold modMb
  with_reducible repeat' (first | assumption | apply modFn_keeps)

theorem modTen_keeps {queue : List Instr} (t : Nat) (g : Tenant → Tenant) {s : State} (hk : Keeps queue s) : Keeps queue (modTen t g s) :=
    by
  unfold modTen
  with_reducible repeat' (first | assumption | (simp only [Keeps.mk_iff]; refine Keeps.parts ?_))

theorem modRing_keeps {queue : List Instr} (t i : Nat) (g : RingPair → RingPair) {s : State} (hk : Keeps queue s) : Keeps queue (modRing t
    i g s) := by
  unfold modRing
  with_reducible repeat' (first | assumption | apply modTen_keeps)

theorem modRnd_keeps {queue : List Instr} (g : Round → Round) {s : State} (hk : Keeps queue s) : Keeps queue (modRnd g s) := by
  unfold modRnd
  with_reducible repeat' (first | assumption | (simp only [Keeps.mk_iff]; refine Keeps.parts ?_))

theorem modBoot_keeps {queue : List Instr} (g : Boot → Boot) {s : State} (hk : Keeps queue s) : Keeps queue (modBoot g s) := by
  unfold modBoot
  with_reducible repeat' (first | assumption | (simp only [Keeps.mk_iff]; refine Keeps.parts ?_))

theorem modPat_keeps {queue : List Instr} (g : Pattern → Pattern) {s : State} (hk : Keeps queue s) : Keeps queue (modPat g s) := by
  unfold modPat
  with_reducible repeat' (first | assumption | (simp only [Keeps.mk_iff]; refine Keeps.parts ?_))

theorem modPwr_keeps {queue : List Instr} (g : Power → Power) {s : State} (hk : Keeps queue s) : Keeps queue (modPwr g s) := by
  unfold modPwr
  with_reducible repeat' (first | assumption | (simp only [Keeps.mk_iff]; refine Keeps.parts ?_))

theorem fnCount_keeps {queue : List Instr} (f off : Nat) (n : Nat := 1) {s : State} (hk : Keeps queue s) : Keeps queue (fnCount f off n s)
    := by
  unfold fnCount
  with_reducible repeat' (first | assumption | apply modFn_keeps)

theorem fnCount64_keeps {queue : List Instr} (f off : Nat) (n : Nat) {s : State} (hk : Keeps queue s) : Keeps queue (fnCount64 f off n s)
    := by
  unfold fnCount64
  with_reducible repeat' (first | assumption | apply modFn_keeps)

theorem accErr_keeps {queue : List Instr} (f off : Nat) {s : State} (hk : Keeps queue s) : Keeps queue (accErr f off s) := by
  unfold accErr
  with_reducible repeat' (first | assumption | apply fnCount_keeps)

theorem raiseFaults_keeps {queue : List Instr} (fs : List Nat) {s : State} (hk : Keeps queue s) : Keeps queue (raiseFaults fs s) := by
  unfold raiseFaults
  with_reducible repeat' (first | assumption | apply raiseFault_keeps | refine Keeps.foldl ?_ (fun t a ht => ?_))

theorem raiseFaultFor_keeps {queue : List Instr} (fs : List Nat) {s : State} (hk : Keeps queue s) : Keeps queue (raiseFaultFor fs s) := by
  unfold raiseFaultFor
  with_reducible repeat' (first | assumption | apply raiseFaults_keeps)

theorem raiseOwners_keeps {queue : List Instr} (fs : List Nat) {s : State} (hk : Keeps queue s) : Keeps queue (raiseOwners fs s) := by
  unfold raiseOwners
  with_reducible repeat' (first | assumption | apply raiseFaults_keeps)

theorem eventQuiet_keeps {queue : List Instr} (f ty : Nat) (late : Bool) (data : W32) {s : State} (hk : Keeps queue s) : Keeps queue
    (eventQuiet f ty late data s) := by
  unfold eventQuiet
  with_reducible repeat' (first | assumption | apply modMb_keeps | apply setCause_keeps | refine Keeps.ite ?_ ?_)

theorem event_keeps {queue : List Instr} (f ty : Nat) (late : Bool) (data : W32) {s : State} (hk : Keeps queue s) : Keeps queue (event f
    ty late data s) := by
  unfold event
  with_reducible repeat' first
      | assumption | apply eventQuiet_keeps | apply raiseFault_keeps | apply sendVec_keeps | refine Keeps.ite ?_ ?_

theorem eventPf_keeps {queue : List Instr} (ty : Nat) (data : W32) {s : State} (hk : Keeps queue s) : Keeps queue (eventPf ty data s) := by
  unfold eventPf
  with_reducible repeat' (first | assumption | apply event_keeps)

theorem stopNotice_keeps {queue : List Instr} {s : State} (hk : Keeps queue s) : Keeps queue (stopNotice s) := by
  unfold stopNotice
  with_reducible repeat' (first | assumption | apply raiseFault_keeps | apply eventQuiet_keeps | refine Keeps.foldl ?_ (fun t a ht => ?_))

theorem putRecord_keeps {queue : List Instr} (t i : Nat) (noint : Bool) (r : Rec) {s : State} (hk : Keeps queue s) : Keeps queue
    (putRecord t i noint r s) := by
  unfold putRecord
  with_reducible repeat' first
      | assumption | apply modRing_keeps | apply emit_keeps | apply setCause_keeps | apply fnCount_keeps | apply modFn_keeps
      | apply fnCount64_keeps | refine Keeps.ite ?_ ?_

theorem flushCq_keeps {queue : List Instr} {s : State} (hk : Keeps queue s) : Keeps queue (flushCq s) := by
  unfold flushCq
  with_reducible repeat' first
      | assumption | apply sendVec_keeps | apply modFn_keeps | refine Keeps.ite ?_ ?_ | refine Keeps.foldl ?_ (fun t a ht => ?_)

/-! ## Machine/Sessions.lean -/

theorem noteLines_keeps {queue : List Instr} (l : List Nat) {s : State} (hk : Keeps queue s) : Keeps queue (noteLines l s) := by
  unfold noteLines
  with_reducible repeat' first
      | assumption | apply modRnd_keeps

theorem putSess_keeps {queue : List Instr} (i : Nat) (x : Session) {s : State} (hk : Keeps queue s) : Keeps queue (putSess i x s) := by
  unfold putSess
  with_reducible repeat' first
      | assumption | apply noteLines_keeps | apply pmWrite_keeps | (simp only [Keeps.mk_iff]; refine Keeps.parts ?_)

theorem modSess_keeps {queue : List Instr} (i : Nat) (g : Session → Session) {s : State} (hk : Keeps queue s) : Keeps queue (modSess i g
    s) := by
  unfold modSess
  with_reducible repeat' (first | assumption | apply putSess_keeps)

theorem writeSix_keeps {queue : List Instr} (u off : Nat) (l : List Byte) {s : State} (hk : Keeps queue s) : Keeps queue (writeSix u off l
    s) := by
  unfold writeSix
  with_reducible repeat' (first | assumption | apply pmWrite_keeps | refine Keeps.foldl ?_ (fun t a ht => ?_))

theorem writeDirs_keeps {queue : List Instr} (i : Nat) (old : Session) {s0 : State} (hk : Keeps queue s0) : Keeps queue (writeDirs i old
    s0) := by
  unfold writeDirs
  with_reducible repeat' first
      | assumption | apply noteLines_keeps | apply writeSix_keeps | refine Keeps.foldl ?_ (fun t a ht => ?_)

theorem writeHist_keeps {queue : List Instr} (i pos : Nat) (toks : List W32) {s : State} (hk : Keeps queue s) : Keeps queue (writeHist i
    pos toks s) := by
  unfold writeHist
  with_reducible repeat' (first | assumption | apply pmWrite_keeps | refine Keeps.foldl ?_ (fun t a ht => ?_))

theorem takeFree_keeps {queue : List Instr} (n : Nat) (used : List Nat) {s : State} (hk : Keeps queue s) : Keeps queue (takeFree n used
    s).2 := by
  unfold takeFree
  with_reducible repeat' (first | assumption | (simp only [Keeps.mk_iff]; refine Keeps.parts ?_))

theorem addPages_keeps {queue : List Instr} (i n : Nat) {s : State} (h : Keeps queue s) : Keeps queue (addPages i n s) := by
  induction n generalizing s with
  | zero => exact h
  | succ n ih =>
    unfold addPages
    refine ih ?_
    with_reducible repeat' first
        | assumption | apply takeFree_keeps | refine Keeps.ite ?_ ?_ | (simp only [Keeps.mk_iff]; refine Keeps.parts ?_)

theorem growTo_keeps {queue : List Instr} {i n : Nat} {s t : State} (h : Keeps queue s) (e : growTo i n s = some t) : Keeps queue t := by
  unfold growTo at e
  dsimp only at e
  split at e
  · cases e; exact h
  · split at e
    · cases e
      with_reducible repeat' (first | assumption | apply writeDirs_keeps | apply addPages_keeps)
    · cases e

theorem trimPages_keeps {queue : List Instr} (i n : Nat) {s : State} (hk : Keeps queue s) : Keeps queue (trimPages i n s) := by
  unfold trimPages
  with_reducible repeat' first
      | assumption | apply modRnd_keeps | apply writeDirs_keeps | refine Keeps.ite ?_ ?_
      | (simp only [Keeps.mk_iff]; refine Keeps.parts ?_)

theorem takeIndex_keeps {queue : List Instr} {s t : State} {i : Nat} (h : Keeps queue s) (e : takeIndex s = some (i, t)) : Keeps queue t
    := by
  unfold takeIndex at e
  split at e
  · cases e
  · cases e
    with_reducible repeat' (first | assumption | apply modRnd_keeps)

theorem dropPark_keeps {queue : List Instr} (i : Nat) {s : State} (hk : Keeps queue s) : Keeps queue (dropPark i s) := by
  unfold dropPark
  with_reducible repeat' (first | assumption | (simp only [Keeps.mk_iff]; refine Keeps.parts ?_))

theorem freeSession_keeps {queue : List Instr} (i : Nat) {s : State} (hk : Keeps queue s) : Keeps queue (freeSession i s) := by
  unfold freeSession
  with_reducible repeat' (first | assumption | apply trimPages_keeps | apply putSess_keeps | apply dropPark_keeps | apply modRnd_keeps)

theorem relimit_keeps {queue : List Instr} (old new : Nat) {s : State} (hk : Keeps queue s) : Keeps queue (relimit old new s) := by
  unfold relimit
  with_reducible repeat' (first | assumption | apply modRnd_keeps)

theorem tailEntry_keeps {queue : List Instr} (i : Nat) (round : W64) (kind nadd : Nat) (acrc : W32) (nemit : Nat) (body : List Byte)
    {s : State} (hk : Keeps queue s) : Keeps queue (tailEntry i round kind nadd acrc nemit body s) := by
  unfold tailEntry
  with_reducible repeat' (first | assumption | apply modSess_keeps | apply pmWrite_keeps | refine Keeps.ite ?_ ?_)

theorem tailCommit_keeps {queue : List Instr} (i : Nat) (round : W64) (kind : Nat) (added emitted : List W32) {s : State} (hk : Keeps
    queue s) : Keeps queue (tailCommit i round kind added emitted s) := by
  unfold tailCommit
  with_reducible repeat' (first | assumption | apply tailEntry_keeps | refine Keeps.ite ?_ ?_)

/-! ## Machine/Responses.lean -/

theorem bulkOut_keeps {queue : List Instr} (q : MbReq) (r : Rsp) {s : State} (hk : Keeps queue s) : Keeps queue (bulkOut q r s) := by
  unfold bulkOut
  with_reducible repeat' (first | assumption | apply emit_keeps | refine Keeps.ite ?_ ?_ | split)

theorem respond_keeps {queue : List Instr} (op : Nat) (q : MbReq) (r : Rsp) {s : State} (hk : Keeps queue s) : Keeps queue (respond op q r
    s) := by
  unfold respond
  with_reducible repeat' first
      | assumption | apply modMb_keeps | apply bulkOut_keeps | apply setCause_keeps | apply sendVec_keeps | refine Keeps.ite ?_ ?_

theorem hold_keeps {queue : List Instr} (q : MbReq) (op : LongOp) {s : State} (hk : Keeps queue s) : Keeps queue (hold q op s) := by
  unfold hold
  with_reducible repeat' (first | assumption | apply modMb_keeps)

theorem finishLongs_keeps {queue : List Instr} (p : LongOp → Bool) (r : LongOp → State → Rsp) {s : State} (hk : Keeps queue s) : Keeps
    queue (finishLongs p r s) := by
  unfold finishLongs
  with_reducible repeat' (first | assumption | apply respond_keeps | refine Keeps.foldl ?_ (fun t a ht => ?_) | split)

theorem unstageMode_keeps {queue : List Instr} (w : Swap) {s : State} (hk : Keeps queue s) : Keeps queue (unstageMode w s) := by
  unfold unstageMode
  with_reducible repeat' (first | assumption | apply modDies_keeps | (dsimp only) | split)

theorem refuseSwap_keeps {queue : List Instr} (l : List (Nat × Nat)) {s : State} (hk : Keeps queue s) : Keeps queue (refuseSwap l s) := by
  unfold refuseSwap
  with_reducible repeat' first
      | assumption | apply modDies_keeps | apply unstageMode_keeps | apply finishLongs_keeps
      | (simp only [Keeps.mk_iff]; refine Keeps.parts ?_) | (dsimp only) | split

/-! ## Machine/Abort.lean -/

theorem endFreeze_keeps {queue : List Instr} {s : State} (hk : Keeps queue s) : Keeps queue (endFreeze s) := by
  unfold endFreeze
  with_reducible repeat' first
      | assumption | apply modDies_keeps | refine Keeps.ite ?_ ?_ | (simp only [Keeps.mk_iff]; refine Keeps.parts ?_)

theorem cancelHold_keeps {queue : List Instr} {s : State} (hk : Keeps queue s) : Keeps queue (cancelHold s) := by
  unfold cancelHold
  with_reducible repeat' (first | assumption | apply endFreeze_keeps | (simp only [Keeps.mk_iff]; refine Keeps.parts ?_))

theorem drainFabric_keeps {queue : List Instr} {s : State} (hk : Keeps queue s) : Keeps queue (drainFabric s) := by
  unfold drainFabric
  with_reducible repeat' (first | assumption | (simp only [Keeps.mk_iff]; refine Keeps.parts ?_))

theorem fieldFresh_keeps {queue : List Instr} {s : State} (hk : Keeps queue s) : Keeps queue (fieldFresh s) := by
  unfold fieldFresh
  with_reducible repeat' first
      | assumption | apply modClu_keeps | apply modNI_keeps | apply modDie_keeps | refine Keeps.foldl ?_ (fun t a ht => ?_)

theorem abortField_keeps {queue : List Instr} {s : State} (hk : Keeps queue s) : Keeps queue (abortField s) := by
  unfold abortField
  with_reducible repeat' first
      | assumption | apply fieldFresh_keeps | apply cancelHold_keeps | apply refuseSwap_keeps | refine Keeps.ite ?_ ?_
      | (simp only [Keeps.mk_iff]; refine Keeps.parts ?_) | (dsimp only) | split

theorem modReq_keeps {queue : List Instr} (id : Nat) (g : Req → Req) {s : State} (hk : Keeps queue s) : Keeps queue (modReq id g s) := by
  unfold modReq
  with_reducible repeat' (first | assumption | apply modRnd_keeps)

theorem dropReq_keeps {queue : List Instr} (id : Nat) {s : State} (hk : Keeps queue s) : Keeps queue (dropReq id s) := by
  unfold dropReq
  with_reducible repeat' (first | assumption | apply modRnd_keeps)

theorem tailImport_keeps {queue : List Instr} (index : Nat) {s : State} (hk : Keeps queue s) : Keeps queue (tailImport index s) := by
  unfold tailImport
  with_reducible repeat' (first | assumption | apply tailEntry_keeps)

theorem finishImport_keeps {queue : List Instr} (index : Nat) (ok : Bool) {s : State} (hk : Keeps queue s) : Keeps queue (finishImport
    index ok s) := by
  unfold finishImport
  with_reducible repeat' first
      | assumption | apply tailImport_keeps | apply freeSession_keeps | apply finishLongs_keeps | refine Keeps.ite ?_ ?_
      | (simp only [Keeps.mk_iff]; refine Keeps.parts ?_)

theorem finishReq_keeps {queue : List Instr} (r : Req) (status : Nat) (round : W64) {s : State} (hk : Keeps queue s) : Keeps queue
    (finishReq r status round s) := by
  unfold finishReq
  with_reducible repeat' first
      | assumption | apply dropReq_keeps | apply finishImport_keeps | apply putRecord_keeps | (dsimp only) | split

theorem clearLive_keeps {queue : List Instr} (i : Nat) {s : State} (hk : Keeps queue s) : Keeps queue (clearLive i s) := by
  unfold clearLive
  with_reducible repeat' first
      | assumption | apply pmWrite_keeps | apply modRnd_keeps | refine Keeps.foldl ?_ (fun t a ht => ?_) | (dsimp only) | split

theorem failSession_keeps {queue : List Instr} (i : Nat) {s : State} (hk : Keeps queue s) : Keeps queue (failSession i s) := by
  unfold failSession
  with_reducible repeat' first
      | assumption | apply clearLive_keeps | apply trimPages_keeps | apply putSess_keeps | apply dropPark_keeps | apply modBoot_keeps
      | apply setCause_keeps | apply fnCount_keeps | apply finishReq_keeps | refine Keeps.foldl ?_ (fun t a ht => ?_)

theorem releaseTentative_keeps {queue : List Instr} {s : State} (hk : Keeps queue s) : Keeps queue (releaseTentative s) := by
  unfold releaseTentative
  with_reducible repeat' (first | assumption | apply trimPages_keeps | refine Keeps.ite ?_ ?_ | refine Keeps.foldl ?_ (fun t a ht => ?_))

theorem stopPattern_keeps {queue : List Instr} {s : State} (hk : Keeps queue s) : Keeps queue (stopPattern s) := by
  unfold stopPattern
  with_reducible repeat' first
      | assumption | apply abortField_keeps | apply finishReq_keeps | apply releaseTentative_keeps | apply modRnd_keeps
      | refine Keeps.ite ?_ ?_ | refine Keeps.foldl ?_ (fun t a ht => ?_) | (simp only [Keeps.mk_iff]; refine Keeps.parts ?_)

theorem stopAtBoundary_keeps {queue : List Instr} {s : State} (hk : Keeps queue s) : Keeps queue (stopAtBoundary s) := by
  unfold stopAtBoundary
  with_reducible repeat' first
      | assumption | apply abortField_keeps | apply modRnd_keeps | (simp only [Keeps.mk_iff]; refine Keeps.parts ?_)

theorem markStop_keeps {queue : List Instr} {s : State} (hk : Keeps queue s) : Keeps queue (markStop s) := by
  unfold markStop
  with_reducible repeat' (first | assumption | (simp only [Keeps.mk_iff]; refine Keeps.parts ?_))

theorem markStopRun_keeps {queue : List Instr} {s : State} (hk : Keeps queue s) : Keeps queue (markStopRun s) := by
  unfold markStopRun
  with_reducible repeat' (first | assumption | (simp only [Keeps.mk_iff]; refine Keeps.parts ?_) | (dsimp only) | split)

theorem stopOnFault_keeps {queue : List Instr} {s : State} (hk : Keeps queue s) : Keeps queue (stopOnFault s) := by
  unfold stopOnFault
  with_reducible repeat' first
      | assumption | apply stopNotice_keeps | apply stopPattern_keeps | apply markStop_keeps | refine Keeps.ite ?_ ?_

theorem replayRound_keeps {queue : List Instr} {s : State} (hk : Keeps queue s) : Keeps queue (replayRound s) := by
  unfold replayRound
  with_reducible repeat' (first | assumption | apply modDies_keeps | (simp only [Keeps.mk_iff]; refine Keeps.parts ?_))

theorem abortReplay_keeps {queue : List Instr} {s : State} (hk : Keeps queue s) : Keeps queue (abortReplay s) := by
  unfold abortReplay
  with_reducible repeat' first
      | assumption | apply abortField_keeps | apply stopOnFault_keeps | apply replayRound_keeps | refine Keeps.ite ?_ ?_
      | (simp only [Keeps.mk_iff]; refine Keeps.parts ?_)

theorem abortRound_keeps {queue : List Instr} (_cause : Nat) {s : State} (hk : Keeps queue s) : Keeps queue (abortRound _cause s) := by
  unfold abortRound
  with_reducible repeat' (first | assumption | apply abortReplay_keeps)

theorem abortPatternFault_keeps {queue : List Instr} {s : State} (hk : Keeps queue s) : Keeps queue (abortPatternFault s) := by
  unfold abortPatternFault
  with_reducible repeat' first
      | assumption | apply stopNotice_keeps | apply stopPattern_keeps | apply markStopRun_keeps | apply abortReplay_keeps
      | refine Keeps.ite ?_ ?_ | (simp only [Keeps.mk_iff]; refine Keeps.parts ?_)

theorem goOut_keeps {queue : List Instr} (d : Nat) (rec : FaultRec) {s : State} (hk : Keeps queue s) : Keeps queue (goOut d rec s) := by
  unfold goOut
  with_reducible repeat' first
      | assumption | apply stopPattern_keeps | apply modBoot_keeps | apply stopNotice_keeps | apply addFault_keeps
      | refine Keeps.ite ?_ ?_

theorem goOutOfService_keeps {queue : List Instr} (d : Nat) {s : State} (hk : Keeps queue s) : Keeps queue (goOutOfService d s) := by
  unfold goOutOfService
  with_reducible repeat' (first | assumption | apply goOut_keeps)

theorem dropStaging_keeps {queue : List Instr} {s : State} (hk : Keeps queue s) : Keeps queue (dropStaging s) := by
  unfold dropStaging
  with_reducible repeat' (first | assumption | refine Keeps.ite ?_ ?_ | (simp only [Keeps.mk_iff]; refine Keeps.parts ?_))

theorem mpoHandle_keeps {queue : List Instr} (paddr : Nat) (mask : BitVec 4) {s : State} (hk : Keeps queue s) : Keeps queue (mpoHandle
    paddr mask s) := by
  unfold mpoHandle
  with_reducible repeat' first
      | assumption | apply stopOnFault_keeps | apply abortReplay_keeps | apply dropStaging_keeps | apply raiseOwners_keeps
      | apply failSession_keeps | refine Keeps.ite ?_ ?_ | refine Keeps.foldl ?_ (fun t a ht => ?_)
      | (simp only [Keeps.mk_iff]; refine Keeps.parts ?_)

/-! ## Machine/Park.lean -/

theorem modPort_keeps {queue : List Instr} (p : Nat) (g : ParkPort → ParkPort) {s : State} (hk : Keeps queue s) : Keeps queue (modPort p g
    s) := by
  unfold modPort
  with_reducible repeat' (first | assumption | (simp only [Keeps.mk_iff]; refine Keeps.parts ?_))

theorem tabWfFrom_filter {α : Type} [DecidableEq α] (d : α) (p : Nat × α → Bool) (t : Tab α) (b : Option Nat)
    (h : tabWfFrom d b t = true) : tabWfFrom d b (t.filter p) = true := by
  induction t generalizing b with
  | nil => simpa [tabWfFrom] using h
  | cons x t ih =>
    obtain ⟨k, v⟩ := x
    simp only [tabWfFrom, Bool.and_eq_true, decide_eq_true_eq] at h
    obtain ⟨⟨hb, hv⟩, ht⟩ := h
    rw [List.filter_cons]
    split
    · simp only [tabWfFrom, Bool.and_eq_true, decide_eq_true_eq]
      exact ⟨⟨hb, hv⟩, ih _ ht⟩
    · refine ih b ?_
      cases b with
      | none => exact tabWfFrom_weaken d t ht (by intro l e; cases e)
      | some l => exact tabWfFrom_weaken d t ht (by intro m e; cases e; simpa using le_of_lt (by simpa using hb))

theorem layMem_keeps {queue : List Instr} (a n : Nat) (c : Mem) {s : State} (h : Keeps queue s) : Keeps queue (layMem a n c s) := by
  refine ⟨?_, h.2⟩
  have hf : Memory.wf (s.pmem.data.filter fun x => decide (x.1 < a) || decide (a + n ≤ x.1)) :=
    tabWfFrom_filter 0 _ _ none h.1
  show Memory.wf (c.foldl (fun m x => memPut m (a + x.1) x.2) _)
  generalize s.pmem.data.filter _ = m at hf
  induction c generalizing m with
  | nil => exact hf
  | cons x c ih => exact ih _ (memPut_wf _ _ _ hf)

theorem layPages_keeps {queue : List Instr} (i : Nat) (c : List (List Mem × Mem)) {s : State} (hk : Keeps queue s) : Keeps queue (layPages
    i c s) := by
  unfold layPages
  with_reducible repeat' (first | assumption | apply layMem_keeps | refine Keeps.foldl ?_ (fun t a ht => ?_))

theorem startMark_keeps {queue : List Instr} {i : Nat} {bind : Bool} {s t : State} (h : Keeps queue s) (e : startMark i bind s = some t) :
    Keeps queue t := by
  unfold startMark at e
  dsimp only at e
  split at e
  · cases e
  · cases e
    with_reducible repeat' (first | assumption | apply modSess_keeps | apply modPort_keeps)

theorem cancelMark_keeps {queue : List Instr} (i : Nat) {s : State} (hk : Keeps queue s) : Keeps queue (cancelMark i s) := by
  unfold cancelMark
  with_reducible repeat' (first | assumption | apply modSess_keeps | apply dropPark_keeps | refine Keeps.ite ?_ ?_)

theorem dropJob_keeps {queue : List Instr} (p i : Nat) {s : State} (hk : Keeps queue s) : Keeps queue (dropJob p i s) := by
  unfold dropJob
  with_reducible repeat' (first | assumption | apply modPort_keeps)

theorem commitMove_keeps {queue : List Instr} (p : Nat) (j : ParkJob) {s : State} (hk : Keeps queue s) : Keeps queue (commitMove p j s) :=
    by
  unfold commitMove
  with_reducible repeat' first
      | assumption | apply modPort_keeps | apply dropJob_keeps | apply modSess_keeps | apply trimPages_keeps | apply fnCount_keeps

theorem commitMoves_keeps {queue : List Instr} {s : State} (hk : Keeps queue s) : Keeps queue (commitMoves s) := by
  unfold commitMoves
  with_reducible repeat' (first | assumption | apply commitMove_keeps | refine Keeps.foldl ?_ (fun t a ht => ?_))

theorem freeGoing_keeps {queue : List Instr} {s : State} (hk : Keeps queue s) : Keeps queue (freeGoing s) := by
  unfold freeGoing
  with_reducible repeat' (first | assumption | (simp only [Keeps.mk_iff]; refine Keeps.parts ?_))

theorem startUnpark_keeps {queue : List Instr} {i : Nat} {s t : State} (h : Keeps queue s) (e : startUnpark i s = some t) :
    Keeps queue t := by
  unfold startUnpark at e
  dsimp only at e
  split at e
  · cases e
  · cases e
    with_reducible repeat' (first | assumption | apply modSess_keeps | apply modPort_keeps | refine growTo_keeps ?_ (by assumption))

theorem unparkDone_keeps {queue : List Instr} (i : Nat) {s : State} (hk : Keeps queue s) : Keeps queue (unparkDone i s) := by
  unfold unparkDone
  with_reducible repeat' first
      | assumption | apply layPages_keeps | apply dropJob_keeps | apply modPort_keeps | apply writeDirs_keeps | apply modSess_keeps
      | apply fnCount_keeps | apply flushCq_keeps | apply finishReq_keeps | refine Keeps.ite ?_ ?_
      | refine Keeps.foldl ?_ (fun t a ht => ?_) | refine Keeps.foldlPair ?_ (fun t a ht => ?_)
      | (simp only [Keeps.mk_iff]; refine Keeps.parts ?_) | (dsimp only) | split

theorem copyFailed_keeps {queue : List Instr} (p : Nat) (j : ParkJob) {s : State} (hk : Keeps queue s) : Keeps queue (copyFailed p j s) :=
    by
  unfold copyFailed
  with_reducible repeat' (first | assumption | apply modSess_keeps | apply modPort_keeps | apply dropJob_keeps)

theorem transferFail_keeps {queue : List Instr} (i : Nat) (poison : Bool) {s : State} (hk : Keeps queue s) : Keeps queue (transferFail i
    poison s) := by
  unfold transferFail
  with_reducible repeat' first
      | assumption | apply failSession_keeps | apply dropJob_keeps | apply raiseOwners_keeps | apply logPush_keeps
      | apply raiseFaultFor_keeps | apply flushCq_keeps | apply copyFailed_keeps | refine Keeps.ite ?_ ?_ | (dsimp only) | split

theorem portDown_keeps {queue : List Instr} (p : Nat) {s : State} (hk : Keeps queue s) : Keeps queue (portDown p s) := by
  unfold portDown
  with_reducible repeat' first
      | assumption | apply modPort_keeps | apply failSession_keeps | apply copyFailed_keeps | apply flushCq_keeps
      | apply raiseOwners_keeps | apply logPush_keeps | refine Keeps.ite ?_ ?_ | refine Keeps.foldl ?_ (fun t a ht => ?_) | (dsimp only)
      | split

/-! ## Machine/Image.lean -/

theorem writeBlocks_keeps {queue : List Instr} (b : List Byte) {s : State} (hk : Keeps queue s) : Keeps queue (writeBlocks b s) := by
  unfold writeBlocks
  with_reducible repeat' first
      | assumption | apply pmWrite_keeps | refine Keeps.foldl ?_ (fun t a ht => ?_)

theorem writeResident_keeps {queue : List Instr} (b : List Byte) {s : State} (hk : Keeps queue s) : Keeps queue (writeResident b s) :=
    by
  unfold writeResident
  with_reducible repeat' first
      | assumption | apply pmWrite_keeps | apply writeBlocks_keeps | refine Keeps.foldl ?_ (fun t a ht => ?_)
      | refine Keeps.foldlPair ?_ (fun t a ht => ?_) | (simp only [Keeps.mk_iff]; refine Keeps.parts ?_)

theorem loadSite_keeps {queue : List Instr} (b : List Byte) (r : Nat) (x : SiteBlock) {s : State} (hk : Keeps queue s) : Keeps queue
    (loadSite b r x s) := by
  unfold loadSite
  with_reducible repeat' (first | assumption | apply modClu_keeps | refine Keeps.foldl ?_ (fun t a ht => ?_))

theorem loadAll_keeps {queue : List Instr} (b : List Byte) {s : State} (hk : Keeps queue s) : Keeps queue (loadAll b s) := by
  unfold loadAll
  with_reducible repeat' (first | assumption | apply loadSite_keeps | refine Keeps.foldl ?_ (fun t a ht => ?_))

theorem reloadWindows_keeps {queue : List Instr} (b : List Byte) {s : State} (hk : Keeps queue s) : Keeps queue (reloadWindows b s) := by
  unfold reloadWindows
  with_reducible repeat' (first | assumption | apply modClu_keeps | refine Keeps.foldl ?_ (fun t a ht => ?_))

end Sys2Proof.Machine
end

