-- ==== Sys2Proof/Laws/KeepsFabric.lean ====
section
/-! SUPPORT. The operations of the fabric, panel memory, transfers, the timebase and the links keep the canonical form of panel memory and the queue. -/

namespace Sys2Proof.Machine

open Sys2Proof

/-! ## Machine/Fabric.lean -/

theorem dirCount_keeps {queue : List Instr} (d p i : Nat) {s : State} (hk : Keeps queue s) : Keeps queue (dirCount d p i s) := by
  unfold dirCount
  with_reducible repeat' (first | assumption | apply modTx_keeps)

theorem frameOut_keeps {queue : List Instr} (d p chan : Nat) (seq : BitVec 12) (replay : Bool) (hdr : BitVec 128) (payload : List Byte)
    {s : State} (hk : Keeps queue s) : Keeps queue (frameOut d p chan seq replay hdr payload s) := by
  unfold frameOut
  with_reducible repeat' first
      | assumption | apply modTx_keeps | apply modRx_keeps

theorem axustSend_keeps {queue : List Instr} (d p chan : Nat) (hdr : BitVec 128) (payload : List Byte) {s : State} (hk : Keeps queue s)
    : Keeps queue (axustSend d p chan hdr payload s) := by
  unfold axustSend
  with_reducible repeat' first
      | assumption | apply modTx_keeps | apply frameOut_keeps

theorem sendReplay_keeps {queue : List Instr} (d p slot : Nat) {s : State} (hk : Keeps queue s) : Keeps queue (sendReplay d p slot s) :=
    by
  unfold sendReplay
  with_reducible repeat' first
      | assumption | apply modTx_keeps | apply dirCount_keeps | apply frameOut_keeps | refine Keeps.ite ?_ ?_
      | (simp only [Keeps.mk_iff]; refine Keeps.parts ?_) | (dsimp only) | split

theorem setLeave_keeps {queue : List Instr} (die port slot : Nat) (f : SetFlit) {s : State} (hk : Keeps queue s) : Keeps queue (setLeave
    die port slot f s) := by
  unfold setLeave
  with_reducible repeat' first
      | assumption | apply addPatFault_keeps | apply modNI_keeps | apply dirCount_keeps | apply axustSend_keeps | apply modTx_keeps
      | refine Keeps.ite ?_ ?_

theorem setDepart_keeps {queue : List Instr} (die port slot : Nat) (f : SetFlit) {s : State} (hk : Keeps queue s) : Keeps queue
    (setDepart die port slot f s) := by
  unfold setDepart
  with_reducible repeat' first
      | assumption | apply setLeave_keeps | apply modClu_keeps | refine Keeps.ite ?_ ?_
      | (simp only [Keeps.mk_iff]; refine Keeps.parts ?_) | (dsimp only) | split

theorem setTransit_keeps {queue : List Instr} (die port slot : Nat) (f : SetFlit) {s : State} (hk : Keeps queue s) : Keeps queue
    (setTransit die port slot f s) := by
  unfold setTransit
  with_reducible repeat' first
      | assumption | apply modNI_keeps | apply setLeave_keeps | refine Keeps.ite ?_ ?_

theorem setForward_keeps {queue : List Instr} (die port slot : Nat) (f : SetFlit) {s : State} (hk : Keeps queue s) : Keeps queue
    (setForward die port slot f s) := by
  unfold setForward
  with_reducible repeat' (first | assumption | apply setDepart_keeps | apply setTransit_keeps | refine Keeps.ite ?_ ?_)

theorem setLanding_keeps {queue : List Instr} (rank slot : Nat) (f : SetFlit) {s : State} (hk : Keeps queue s) : Keeps queue (setLanding
    rank slot f s) := by
  unfold setLanding
  with_reducible repeat' (first | assumption | apply modNI_keeps | apply modRx_keeps | (dsimp only) | split)

theorem freeAck_keeps {queue : List Instr} (die : Nat) (drank : W16) (dclass : BitVec 4) (recs : List AckRec) (ece : Bool) {s : State} (hk
    : Keeps queue s) : Keeps queue (freeAck die drank dclass recs ece s) := by
  unfold freeAck
  with_reducible repeat' first
      | assumption | apply modNI_keeps | apply modClu_keeps | refine Keeps.ite ?_ ?_ | refine Keeps.foldl ?_ (fun t a ht => ?_)

theorem sendAck_keeps {queue : List Instr} (die : Nat) (r : RxMsg) {s : State} (hk : Keeps queue s) : Keeps queue (sendAck die r s) := by
  unfold sendAck
  with_reducible repeat' (first | assumption | apply modNI_keeps)

theorem ackTimer_keeps {queue : List Instr} (die : Nat) (srank : W16) (msg : BitVec 12) {s : State} (hk : Keeps queue s) : Keeps queue
    (ackTimer die srank msg s) := by
  unfold ackTimer
  with_reducible repeat' (first | assumption | apply sendAck_keeps | split)

theorem frvDeliver_keeps {queue : List Instr} {s : State} (d : Nat) (f : FreeFlit) (first : Bool) (at_ : Nat × Nat × Nat) (hk : Keeps
    queue s) : Keeps queue (frvDeliver s d f first at_) := by
  unfold frvDeliver
  with_reducible repeat' (first | assumption | apply modClu_keeps | apply addPatFault_keeps | refine Keeps.ite ?_ ?_ | (dsimp only) | split)

theorem dmrDeliver_keeps {queue : List Instr} {s : State} (d : Nat) (f : FreeFlit) (first : Bool) (hk : Keeps queue s) : Keeps queue
    (dmrDeliver s d f first) := by
  unfold dmrDeliver
  with_reducible repeat' (first | assumption | apply modClu_keeps | refine Keeps.ite ?_ ?_ | (dsimp only) | split)

theorem eject_keeps {queue : List Instr} (serve : MemServe) (hs : ∀ d f s, Keeps queue s → Keeps queue (serve d f s)) (die : Nat)
    (f : FreeFlit) {s : State} (h : Keeps queue s) : Keeps queue (eject serve die f s) := by
  unfold eject
  with_reducible repeat' first
      | apply hs | assumption | apply freeAck_keeps | apply modNI_keeps | apply dmrDeliver_keeps | apply frvDeliver_keeps
      | apply niCount_keeps | refine Keeps.ite ?_ ?_ | split

theorem ackAt32_keeps {queue : List Instr} (die : Nat) (h : RouteHdr) {s : State} (hk : Keeps queue s) : Keeps queue (ackAt32 die h s) := by
  unfold ackAt32
  with_reducible repeat' (first | assumption | apply sendAck_keeps | refine Keeps.ite ?_ ?_ | split)

theorem freeSend_keeps {queue : List Instr} (die port : Nat) (deflected : Bool) (f : FreeFlit) {s : State} (hk : Keeps queue s) : Keeps
    queue (freeSend die port deflected f s) := by
  unfold freeSend
  with_reducible repeat' (first | assumption | apply dirCount_keeps | apply axustSend_keeps | refine Keeps.ite ?_ ?_)

theorem routeOne_keeps {queue : List Instr} (serve : MemServe) (hs : ∀ d f s, Keeps queue s → Keeps queue (serve d f s)) (die : Nat)
    (x : Nat × FreeFlit) {st : State × List Nat} (h : Keeps queue st.1) : Keeps queue (routeOne serve die x st).1 := by
  unfold routeOne
  with_reducible repeat' first
      | exact hs | apply eject_keeps | assumption | apply niCount_keeps | apply ackAt32_keeps | apply freeSend_keeps | apply modNI_keeps
      | (simp only [Keeps.mk_iff]; refine Keeps.parts ?_) | (dsimp only) | split

theorem injectOne_keeps {queue : List Instr} (serve : MemServe) (hs : ∀ d f s, Keeps queue s → Keeps queue (serve d f s)) (die : Nat)
    {st : State × List Nat} (h : Keeps queue st.1) : Keeps queue (injectOne serve die st).1 := by
  unfold injectOne
  with_reducible repeat' first
      | exact hs | assumption | apply niCount_keeps | apply ackAt32_keeps | apply eject_keeps | apply freeSend_keeps | apply modNI_keeps
      | apply modClu_keeps | refine Keeps.ite ?_ ?_ | (simp only [Keeps.mk_iff]; refine Keeps.parts ?_) | (dsimp only) | split

theorem slotReplay_keeps {queue : List Instr} (die slot p : Nat) {s : State} (hk : Keeps queue s) : Keeps queue (slotReplay die slot p
    s) := by
  unfold slotReplay
  with_reducible repeat' first
      | assumption | apply dirCount_keeps | apply sendReplay_keeps | apply modNI_keeps | refine Keeps.ite ?_ ?_

theorem slotIdle_keeps {queue : List Instr} (die slot p : Nat) {s : State} (hk : Keeps queue s) : Keeps queue (slotIdle die slot p s) :=
    by
  unfold slotIdle
  with_reducible repeat' first
      | assumption | apply frameOut_keeps | apply modNI_keeps | refine Keeps.ite ?_ ?_

theorem freeRoute_keeps {queue : List Instr} (serve : MemServe) (hs : ∀ d f s, Keeps queue s → Keeps queue (serve d f s))
    (die slot : Nat) {s : State} (h : Keeps queue s) : Keeps queue (freeRoute serve die slot s) := by
  unfold freeRoute
  with_reducible repeat' first
      | exact hs | assumption | apply slotReplay_keeps | apply injectOne_keeps | apply routeOne_keeps | apply modNI_keeps
      | apply slotIdle_keeps | refine Keeps.foldl ?_ (fun t a ht => ?_) | refine Keeps.foldlPair ?_ (fun t a ht => ?_)

theorem retransmit_keeps {queue : List Instr} (die : Nat) (msg : BitVec 12) (off : BitVec 17) {s : State} (hk : Keeps queue s) : Keeps
    queue (retransmit die msg off s) := by
  unfold retransmit
  with_reducible repeat' first
      | assumption | apply modNI_keeps | apply abortRound_keeps | apply addFault_keeps | refine Keeps.ite ?_ ?_ | (dsimp only) | split

theorem ctlSend_keeps {queue : List Instr} (die : Nat) (b : List Byte) {s : State} (p : Nat) (hk : Keeps queue s) : Keeps queue (ctlSend
    die b s p) := by
  unfold ctlSend
  with_reducible repeat' (first | assumption | apply modNI_keeps)

theorem packetReply_keeps {queue : List Instr} (ty die dest : Nat) (payload : List Byte) {s : State} (hk : Keeps queue s) : Keeps queue
    (packetReply ty die dest payload s) := by
  unfold packetReply
  with_reducible repeat' first
      | assumption | apply ctlSend_keeps | apply modNI_keeps | (simp only [Keeps.mk_iff]; refine Keeps.parts ?_) | (dsimp only) | split

theorem ctlAct_keeps {queue : List Instr} (die : Nat) (b : List Byte) {s : State} (hk : Keeps queue s) : Keeps queue (ctlAct die b s) :=
    by
  unfold ctlAct
  with_reducible repeat' first
      | assumption | apply modNI_keeps | apply drainFabric_keeps | apply packetReply_keeps | apply niCount_keeps | refine Keeps.ite ?_ ?_
      | (simp only [Keeps.mk_iff]; refine Keeps.parts ?_) | (dsimp only) | split

theorem controlPacket_keeps {queue : List Instr} (die port : Nat) (b : List Byte) {s : State} (hk : Keeps queue s) : Keeps queue
    (controlPacket die port b s) := by
  unfold controlPacket
  with_reducible repeat' first
      | assumption | apply niCount_keeps | apply modNI_keeps | apply ctlAct_keeps | apply ctlSend_keeps | refine Keeps.ite ?_ ?_
      | refine Keeps.foldl ?_ (fun t a ht => ?_) | refine Keeps.foldlPair ?_ (fun t a ht => ?_)
      | (simp only [Keeps.mk_iff]; refine Keeps.parts ?_) | (dsimp only) | split

theorem controlResend_keeps {queue : List Instr} (die port : Nat) (seq : W16) {s : State} (hk : Keeps queue s) : Keeps queue
    (controlResend die port seq s) := by
  unfold controlResend
  with_reducible repeat' (first | assumption | apply modNI_keeps | refine Keeps.ite ?_ ?_)

theorem syncPathSwitch_keeps {queue : List Instr} (die : Nat) {s : State} (hk : Keeps queue s) : Keeps queue (syncPathSwitch die s) := by
  unfold syncPathSwitch
  with_reducible repeat' (first | assumption | apply modNI_keeps | apply modDie_keeps)

/-! ## Machine/Meaning.lean -/

/-- The action of a micro-op keeps panel memory's form and the queue. -/
abbrev KeepsUop (queue : List Instr) (act : UopAct) : Prop := ∀ x s, Keeps queue s → Keeps queue (act x s).1

theorem issueUop_keeps {queue : List Instr} (i : Issue) (u : Uop) {act : UopAct} (ha : KeepsUop queue act) {s : State}
    (h : Keeps queue s) : Keeps queue (issueUop i u act s) := by
  unfold issueUop
  with_reducible repeat' first
      | refine ha _ _ ?_ | assumption | apply modClu_keeps | apply addPatFault_keeps | refine Keeps.ite ?_ ?_
      | refine Keeps.foldl ?_ (fun t a ht => ?_)

theorem onCluster_keeps {queue : List Instr} (op : Ctx → Cluster → Cluster × List Pf) : KeepsUop queue (onCluster op) :=
  fun _ _ h => modClu_keeps _ _ _ h

/-! ## Machine/PanelMemory.lean -/

theorem stackCount_keeps {queue : List Instr} (c m i : Nat) (n : Nat := 1) {s : State} (hk : Keeps queue s) : Keeps queue (stackCount c m
    i n s) := by
  unfold stackCount
  with_reducible repeat' (first | assumption | apply modStack_keeps)

theorem poisonUnit_keeps {queue : List Instr} (paddr : Nat) (mask : BitVec 4) {s : State} (hk : Keeps queue s) : Keeps queue (poisonUnit
    paddr mask s) := by
  unfold poisonUnit
  with_reducible repeat' (first | assumption | (simp only [Keeps.mk_iff]; refine Keeps.partsPut ?_))

theorem countRead_keeps {queue : List Instr} (paddr : Nat) {s : State} (hk : Keeps queue s) : Keeps queue (countRead paddr s) := by
  unfold countRead
  with_reducible repeat' first
      | assumption | apply stackCount_keeps | refine Keeps.ite ?_ ?_ | (simp only [Keeps.mk_iff]; refine Keeps.parts ?_)

theorem notePoison_keeps {queue : List Instr} (paddr d : Nat) {s : State} (hk : Keeps queue s) : Keeps queue (notePoison paddr d s) := by
  unfold notePoison
  with_reducible repeat' (first | assumption | apply mpoHandle_keeps | apply addFault_keeps | refine Keeps.ite ?_ ?_)

theorem serveRead_keeps {queue : List Instr} (paddr : Nat) (req : RouteHdr) {s : State} (hk : Keeps queue s) : Keeps queue (serveRead
    paddr req s) := by
  unfold serveRead
  with_reducible repeat' (first | assumption | apply countRead_keeps | apply modNI_keeps | apply notePoison_keeps)

theorem serveWrite_keeps {queue : List Instr} (paddr : Nat) (mask : BitVec 4) (bytes : List Byte) {s : State} (hk : Keeps queue s) : Keeps
    queue (serveWrite paddr mask bytes s) := by
  unfold serveWrite
  with_reducible repeat' first
      | assumption | apply stackCount_keeps | refine Keeps.ite ?_ ?_ | (simp only [Keeps.mk_iff]; refine Keeps.partsPut ?_)

theorem serveOp_keeps {queue : List Instr} (d : Nat) (f : FreeFlit) {s : State} (hk : Keeps queue s) : Keeps queue (serveOp d f s) := by
  unfold serveOp
  with_reducible repeat' first
      | assumption | apply serveRead_keeps | apply ackAt32_keeps | apply serveWrite_keeps | apply modNI_keeps | refine Keeps.ite ?_ ?_

theorem takeOp_keeps {queue : List Instr} (c m a : Nat) (p : FreeFlit → Bool) {s : State} (hk : Keeps queue s) : Keeps queue (takeOp c m
    a p s).2 := by
  unfold takeOp
  with_reducible repeat' first
      | assumption | apply modStack_keeps | apply serveOp_keeps | refine Keeps.foldl ?_ (fun t a ht => ?_)

theorem writeAfter_keeps {queue : List Instr} (a : Nat) (mask : BitVec 4) (l : List Byte) {s : State} (hk : Keeps queue s) : Keeps queue
    (writeAfter a mask l s) := by
  unfold writeAfter
  with_reducible repeat' (first | assumption | apply serveWrite_keeps | apply takeOp_keeps)

theorem checkRead_keeps {queue : List Instr} (a : Nat) (found : MemCheck) {s : State} (hk : Keeps queue s) : Keeps queue (checkRead a
    found s) := by
  unfold checkRead
  with_reducible repeat' first
      | assumption | apply stackCount_keeps | apply poisonUnit_keeps | refine Keeps.ite ?_ ?_

theorem memReadOp_keeps {queue : List Instr} (paddr : BitVec 34) (rank : W16) (cls : BitVec 4) (tag : RouteHdr) (found : MemCheck) {s :
    State} (hk : Keeps queue s) : Keeps queue (memReadOp paddr rank cls tag found s) := by
  unfold memReadOp
  with_reducible repeat' first
      | assumption | apply niCount_keeps | apply takeOp_keeps | apply serveRead_keeps | apply checkRead_keeps | refine Keeps.ite ?_ ?_
      | (simp only [Keeps.mk_iff]; refine Keeps.parts ?_) | (dsimp only) | split

theorem memWriteOp_keeps {queue : List Instr} (paddr : BitVec 34) (mask : BitVec 4) (data : List Byte) {s : State} (hk : Keeps queue s)
    : Keeps queue (memWriteOp paddr mask data s) := by
  unfold memWriteOp
  with_reducible repeat' first
      | assumption | apply takeOp_keeps | apply serveOp_keeps | apply serveWrite_keeps | refine Keeps.ite ?_ ?_
      | (simp only [Keeps.mk_iff]; refine Keeps.parts ?_) | (dsimp only) | split

theorem settleTorn_keeps {queue : List Instr} (m : Nat) (rows : List Nat) {s : State} (hk : Keeps queue s) : Keeps queue (settleTorn m
    rows s) := by
  unfold settleTorn
  with_reducible repeat' first
      | assumption | apply stackCount_keeps | apply poisonUnit_keeps | apply addFault_keeps | refine Keeps.ite ?_ ?_
      | refine Keeps.foldl ?_ (fun t a ht => ?_)

theorem saveStackMap_keeps {queue : List Instr} {s : State} (hk : Keeps queue s) : Keeps queue (saveStackMap s) := by
  unfold saveStackMap
  with_reducible repeat' (first | assumption | (simp only [Keeps.mk_iff]; refine Keeps.parts ?_))

theorem markLost_keeps {queue : List Instr} (c m : Nat) (cause : StackCause) {s : State} (hk : Keeps queue s) : Keeps queue (markLost c m
    cause s) := by
  unfold markLost
  with_reducible repeat' first
      | assumption | apply saveStackMap_keeps | apply modStack_keeps | apply addFault_keeps | refine Keeps.ite ?_ ?_
      | (simp only [Keeps.mk_iff]; refine Keeps.parts ?_)

theorem stackOut_keeps {queue : List Instr} (c m : Nat) (cause : StackCause) (env : RepairEnv) {s : State} (hk : Keeps queue s) : Keeps
    queue (stackOut c m cause env s) := by
  unfold stackOut
  with_reducible repeat' first
      | assumption | apply markLost_keeps | apply settleTorn_keeps | apply drainFabric_keeps | apply goOutOfService_keeps
      | apply abortRound_keeps | refine Keeps.ite ?_ ?_

theorem scrubPoison_keeps {queue : List Instr} (px m r : Nat) (l : List (Nat × BitVec 4)) {s : State} (hk : Keeps queue s) : Keeps queue
    (scrubPoison px m r l s) := by
  unfold scrubPoison
  with_reducible repeat' first
      | assumption | apply stackCount_keeps | apply poisonUnit_keeps | refine Keeps.ite ?_ ?_ | refine Keeps.foldl ?_ (fun t a ht => ?_)

theorem scrubVisit_keeps {queue : List Instr} (m : Nat) (found : ScrubFind) {s : State} (hk : Keeps queue s) : Keeps queue (scrubVisit m
    found s) := by
  have ha : Keeps queue { s with pmem := scrubAdvance m found.written s.pmem } := hk
  unfold scrubVisit
  with_reducible repeat' first
      | assumption | apply stackCount_keeps | apply scrubPoison_keeps | refine Keeps.ite ?_ ?_

theorem refreshChange_keeps {queue : List Instr} (c m t : Nat) {s : State} (hk : Keeps queue s) : Keeps queue (refreshChange c m t s) := by
  unfold refreshChange
  with_reducible repeat' (first | assumption | apply modStack_keeps | apply stackOut_keeps | refine Keeps.ite ?_ ?_)

theorem refreshTick_keeps {queue : List Instr} {s : State} (hk : Keeps queue s) : Keeps queue (refreshTick s) := by
  unfold refreshTick
  with_reducible repeat' first
      | assumption | apply modStack_keeps | refine Keeps.ite ?_ ?_ | refine Keeps.foldl ?_ (fun t a ht => ?_)

theorem rebuildDone_keeps {queue : List Instr} (c m : Nat) {s : State} (hk : Keeps queue s) : Keeps queue (rebuildDone c m s) := by
  unfold rebuildDone
  with_reducible repeat' first
      | assumption | apply saveStackMap_keeps | apply drainFabric_keeps | apply modStack_keeps | refine Keeps.ite ?_ ?_
      | (simp only [Keeps.mk_iff]; refine Keeps.parts ?_)

/-! ## Machine/Transfer.lean -/

theorem modCore_keeps {queue : List Instr} (d k n : Nat) (g : Core → Core) {s : State} (hk : Keeps queue s) : Keeps queue (modCore d k n g
    s) := by
  unfold modCore
  with_reducible repeat' (first | assumption | apply modClu_keeps)

theorem postXfer_keeps {queue : List Instr} (x : Ctx) (t : Xfer) {s : State} (hk : Keeps queue s) : Keeps queue (postXfer x t s) := by
  unfold postXfer
  with_reducible repeat' (first | assumption | apply modCore_keeps | apply modNI_keeps)

theorem actDm_keeps {queue : List Instr} (write : Bool) (f : DmF) : KeepsUop queue (actDm write f) := by
  intro x s h
  unfold actDm
  with_reducible repeat' (first | assumption | apply postXfer_keeps | (dsimp only) | split)

theorem actFsn_keeps {queue : List Instr} (f : FmF) : KeepsUop queue (actFsn f) := by
  intro x s h
  unfold actFsn
  with_reducible repeat' first
      | assumption | apply postXfer_keeps | apply modNI_keeps | (simp only [Keeps.mk_iff]; refine Keeps.parts ?_) | (dsimp only) | split

theorem actFrv_keeps {queue : List Instr} (f : FmF) : KeepsUop queue (actFrv f) := by
  intro x s h
  unfold actFrv
  with_reducible repeat' first
      | assumption | apply postXfer_keeps | apply modNI_keeps | apply frvDeliver_keeps | refine Keeps.foldl ?_ (fun t a ht => ?_)
      | (dsimp only) | split

theorem srvFlit_keeps {queue : List Instr} (x : Ctx) (j : SrvJob) {s : State} (hk : Keeps queue s) : Keeps queue (srvFlit x j s).1 := by
  unfold srvFlit
  with_reducible repeat' first
      | assumption | apply modNI_keeps | apply modClu_keeps | (simp only [Keeps.mk_iff]; refine Keeps.parts ?_) | (dsimp only) | split

theorem srvFlits_keeps {queue : List Instr} (x : Ctx) (l : List SrvJob) {s : State} (h : Keeps queue s) :
    Keeps queue (srvFlits x l s).1 := by
  induction l generalizing s with
  | nil => exact h
  | cons j l ih =>
    unfold srvFlits
    with_reducible repeat' (first | apply ih | assumption | apply srvFlit_keeps)

theorem actSrv_keeps {queue : List Instr} (f : FmF) : KeepsUop queue (actSrv f) := by
  intro x s h
  unfold actSrv
  with_reducible repeat' (first | assumption | apply srvFlits_keeps | apply modClu_keeps | (dsimp only) | split)

theorem actKnot_keeps {queue : List Instr} (kidx : BitVec 12) : KeepsUop queue (actKnot kidx) := by
  intro x s h
  unfold actKnot
  with_reducible repeat' (first | assumption | apply modCore_keeps | apply modClu_keeps | (dsimp only) | split)

theorem freeClu_keeps {queue : List Instr} (d k ref : Nat) {s : State} (hk : Keeps queue s) : Keeps queue (freeClu d k ref s) := by
  unfold freeClu
  with_reducible repeat' (first | assumption | apply modClu_keeps | refine Keeps.ite ?_ ?_)

theorem sywDone_keeps {queue : List Instr} (i : Issue) {s : State} (hk : Keeps queue s) : Keeps queue (sywDone i s) := by
  unfold sywDone
  with_reducible repeat' first
      | assumption | apply freeClu_keeps | apply modCore_keeps | refine Keeps.ite ?_ ?_
      | (simp only [Keeps.mk_iff]; refine Keeps.parts ?_) | (dsimp only) | split

theorem endXfer_keeps {queue : List Instr} (d k n idx : Nat) {s : State} (hk : Keeps queue s) : Keeps queue (endXfer d k n idx s) := by
  unfold endXfer
  with_reducible repeat' first
      | assumption | apply freeClu_keeps | apply modCore_keeps

theorem dmrRest_keeps {queue : List Instr} (d k : Nat) (t : Xfer) (l : List Nat) {s : State} (h : Keeps queue s) :
    Keeps queue (dmrRest d k t l s).1 := by
  induction l generalizing s with
  | nil => exact h
  | cons o l ih =>
    unfold dmrRest
    with_reducible repeat' first
        | apply ih | assumption | apply modClu_keeps | apply countRead_keeps | apply notePoison_keeps | (dsimp only) | split

theorem dmwRest_keeps {queue : List Instr} (d k : Nat) (t : Xfer) (l : List Nat) {s : State} (hk : Keeps queue s) : Keeps queue (dmwRest
    d k t l s) := by
  unfold dmwRest
  with_reducible repeat' first
      | assumption | apply writeAfter_keeps | refine Keeps.foldl ?_ (fun t a ht => ?_)

theorem dmComplete_keeps {queue : List Instr} (rank clu sc idx : Nat) {s : State} (h : Keeps queue s) :
    Keeps queue (dmComplete rank clu sc idx s) := by
  unfold dmComplete
  with_reducible repeat' first
      | assumption | apply dmrRest_keeps | apply endXfer_keeps | apply dmwRest_keeps | refine Keeps.ite ?_ ?_ | (dsimp only) | split

theorem fsnRest_keeps {queue : List Instr} (d k rank : Nat) (t : Xfer) {s : State} (hk : Keeps queue s) : Keeps queue (fsnRest d k rank
    t s) := by
  unfold fsnRest
  with_reducible repeat' first
      | assumption | apply writeAfter_keeps | apply modNI_keeps | apply frvDeliver_keeps | refine Keeps.ite ?_ ?_
      | refine Keeps.foldl ?_ (fun t a ht => ?_) | refine Keeps.foldlPair ?_ (fun t a ht => ?_)
      | (simp only [Keeps.mk_iff]; refine Keeps.parts ?_) | (dsimp only) | split

theorem freeComplete_keeps {queue : List Instr} (rank clu sc idx : Nat) {s : State} (hk : Keeps queue s) : Keeps queue (freeComplete rank
    clu sc idx s) := by
  unfold freeComplete
  with_reducible repeat' (first | assumption | apply endXfer_keeps | apply fsnRest_keeps | refine Keeps.ite ?_ ?_ | (dsimp only) | split)

theorem dieArrive_keeps {queue : List Instr} (d : Nat) {s : State} (hk : Keeps queue s) : Keeps queue (dieArrive d s) := by
  unfold dieArrive
  with_reducible repeat' first
      | assumption | apply modDie_keeps | apply modClu_keeps | refine Keeps.ite ?_ ?_ | refine Keeps.foldl ?_ (fun t a ht => ?_) | split

/-! ## Machine/Timebase.lean -/

theorem edgeOvr_keeps {queue : List Instr} (d k : Nat) {s : State} (hk : Keeps queue s) : Keeps queue (edgeOvr d k s) := by
  unfold edgeOvr
  with_reducible repeat' (first | assumption | apply addPatFault_keeps | (dsimp only) | split)

theorem clustersEdge_keeps {queue : List Instr} (d : Nat) {s : State} (hk : Keeps queue s) : Keeps queue (clustersEdge d s) := by
  unfold clustersEdge
  with_reducible repeat' first
      | assumption | apply modClu_keeps | apply edgeOvr_keeps | refine Keeps.ite ?_ ?_ | refine Keeps.foldl ?_ (fun t a ht => ?_)

theorem srvEdge_keeps {queue : List Instr} (d k : Nat) {s : State} (hk : Keeps queue s) : Keeps queue (srvEdge d k s) := by
  unfold srvEdge
  with_reducible repeat' first
      | assumption | apply hold_keeps | apply srvFlit_keeps | apply addPatFault_keeps | apply modClu_keeps | refine Keeps.ite ?_ ?_
      | refine Keeps.foldl ?_ (fun t a ht => ?_)

theorem stitchStart_keeps {queue : List Instr} (die : Nat) {s : State} (hk : Keeps queue s) : Keeps queue (stitchStart die s) := by
  unfold stitchStart
  with_reducible repeat' first
      | assumption | apply clustersEdge_keeps | apply modNI_keeps | apply modDie_keeps | apply srvEdge_keeps | refine Keeps.ite ?_ ?_
      | refine Keeps.foldl ?_ (fun t a ht => ?_) | refine Keeps.foldlPair ?_ (fun t a ht => ?_)
      | (simp only [Keeps.mk_iff]; refine Keeps.parts ?_)

theorem holdLine_keeps {queue : List Instr} (die : Nat) (left : List (Nat × Nat)) {s : State} (hk : Keeps queue s) : Keeps queue (holdLine
    die left s) := by
  unfold holdLine
  with_reducible repeat' first
      | assumption | apply modDie_keeps | apply modClu_keeps | refine Keeps.ite ?_ ?_ | refine Keeps.foldl ?_ (fun t a ht => ?_)

theorem report_keeps {queue : List Instr} (die : Nat) {s : State} (hk : Keeps queue s) : Keeps queue (report die s) := by
  unfold report
  with_reducible repeat' (first | assumption | refine Keeps.ite ?_ ?_ | (simp only [Keeps.mk_iff]; refine Keeps.parts ?_))

theorem extend_keeps {queue : List Instr} {s : State} (hk : Keeps queue s) : Keeps queue (extend s) := by
  unfold extend
  with_reducible repeat' first
      | assumption | apply modDies_keeps | refine Keeps.ite ?_ ?_ | (simp only [Keeps.mk_iff]; refine Keeps.parts ?_)

theorem freq_keeps {queue : List Instr} (die : Nat) {s : State} (hk : Keeps queue s) : Keeps queue (freq die s) := by
  unfold freq
  with_reducible repeat' (first | assumption | (simp only [Keeps.mk_iff]; refine Keeps.parts ?_))

theorem freeze_keeps {queue : List Instr} (point : BitVec 48) {s : State} (hk : Keeps queue s) : Keeps queue (freeze point s) := by
  unfold freeze
  with_reducible repeat' (first | assumption | (simp only [Keeps.mk_iff]; refine Keeps.parts ?_))

theorem freezePoint_keeps {queue : List Instr} {s : State} (hk : Keeps queue s) : Keeps queue (freezePoint s) := by
  unfold freezePoint
  with_reducible repeat' first
      | assumption | apply modDies_keeps | refine Keeps.ite ?_ ?_ | (simp only [Keeps.mk_iff]; refine Keeps.parts ?_) | (dsimp only)
      | split

theorem release_keeps {queue : List Instr} (die : Nat) {s : State} (hk : Keeps queue s) : Keeps queue (release die s) := by
  unfold release
  with_reducible repeat' (first | assumption | (simp only [Keeps.mk_iff]; refine Keeps.parts ?_))

theorem resume_keeps {queue : List Instr} (point : BitVec 48) {s : State} (hk : Keeps queue s) : Keeps queue (resume point s) := by
  unfold resume
  with_reducible repeat' (first | assumption | (simp only [Keeps.mk_iff]; refine Keeps.parts ?_))

theorem resumePoint_keeps {queue : List Instr} {s : State} (hk : Keeps queue s) : Keeps queue (resumePoint s) := by
  unfold resumePoint
  with_reducible repeat' first
      | assumption | apply modDies_keeps | refine Keeps.ite ?_ ?_ | (simp only [Keeps.mk_iff]; refine Keeps.parts ?_) | (dsimp only)
      | split

theorem timebaseFault_keeps {queue : List Instr} (die : Nat) (code : Byte) (detail : W16) {s : State} (hk : Keeps queue s) : Keeps queue
    (timebaseFault die code detail s) := by
  unfold timebaseFault
  with_reducible repeat' (first | assumption | apply chargeFault_keeps | apply addFault_keeps | apply modDie_keeps | refine Keeps.ite ?_ ?_)

theorem loadMark_keeps {queue : List Instr} (die : Nat) (count : BitVec 48) {s : State} (hk : Keeps queue s) : Keeps queue (loadMark die
    count s) := by
  unfold loadMark
  with_reducible repeat' first
      | assumption | apply modDie_keeps | apply modClu_keeps | refine Keeps.ite ?_ ?_ | refine Keeps.foldl ?_ (fun t a ht => ?_)

theorem mark_keeps {queue : List Instr} (die : Nat) (count : BitVec 48) (e : Int) {s : State} (hk : Keeps queue s) : Keeps queue (mark
    die count e s) := by
  unfold mark
  with_reducible repeat' first
      | assumption | apply loadMark_keeps | apply modDie_keeps | apply timebaseFault_keeps | refine Keeps.ite ?_ ?_

theorem syncFrame_keeps {queue : List Instr} (die : Nat) (f : BitVec 80) {s : State} (hk : Keeps queue s) : Keeps queue (syncFrame die f
    s) := by
  unfold syncFrame
  with_reducible repeat' first
      | assumption | apply niCount_keeps | apply timebaseFault_keeps | apply modDie_keeps | refine Keeps.ite ?_ ?_

theorem tbuFault_keeps {queue : List Instr} (rank clu : Nat) {s : State} (hk : Keeps queue s) : Keeps queue (tbuFault rank clu s) := by
  unfold tbuFault
  with_reducible repeat' (first | assumption | apply timebaseFault_keeps | apply modClu_keeps)

theorem tbsFault_keeps {queue : List Instr} {s : State} (hk : Keeps queue s) : Keeps queue (tbsFault s) := by
  unfold tbsFault
  with_reducible repeat' first
      | assumption | apply addFault_keeps | apply modDie_keeps | apply stopOnFault_keeps | apply cancelHold_keeps | apply abortRound_keeps
      | refine Keeps.ite ?_ ?_ | (simp only [Keeps.mk_iff]; refine Keeps.parts ?_)

theorem retime_keeps {queue : List Instr} {s : State} (d : Nat) (hk : Keeps queue s) : Keeps queue (retime s d) := by
  unfold retime
  with_reducible repeat' first
      | assumption | apply modDie_keeps | refine Keeps.ite ?_ ?_ | (simp only [Keeps.mk_iff]; refine Keeps.parts ?_) | (dsimp only)
      | split

theorem reforest_keeps {queue : List Instr} {s : State} (hk : Keeps queue s) : Keeps queue (reforest s) := by
  unfold reforest
  with_reducible repeat' first
      | assumption | apply retime_keeps | apply modDies_keeps | refine Keeps.foldl ?_ (fun t a ht => ?_)

theorem timingLinkLost_keeps {queue : List Instr} (die : Nat) (retraining : Bool) {s : State} (hk : Keeps queue s) : Keeps queue
    (timingLinkLost die retraining s).1 := by
  unfold timingLinkLost
  with_reducible repeat' first
      | assumption | apply modDie_keeps | refine Keeps.ite ?_ ?_ | (simp only [Keeps.mk_iff]; refine Keeps.parts ?_) | (dsimp only)
      | split

/-! ## Machine/Links.lean -/

theorem acceptSet_keeps {queue : List Instr} (die : Nat) (hdr : BitVec 128) (payload : List Byte) {s : State} (hk : Keeps queue s) : Keeps
    queue (acceptSet die hdr payload s) := by
  unfold acceptSet
  with_reducible repeat' (first | assumption | apply modNI_keeps)

theorem takeFrame_keeps {queue : List Instr} (die port : Nat) (f : AxFrame) {s : State} (hk : Keeps queue s) : Keeps queue (takeFrame
    die port f s) := by
  unfold takeFrame
  with_reducible repeat' first
      | assumption | apply modTx_keeps | apply modRx_keeps | apply acceptSet_keeps | apply modNI_keeps | refine Keeps.ite ?_ ?_

theorem unsent_keeps {queue : List Instr} (die port : Nat) (x : LinkDir) {s : State} (hk : Keeps queue s) : Keeps queue (unsent die port
    x s) := by
  unfold unsent
  with_reducible repeat' first
      | assumption | apply modNI_keeps

theorem climb_keeps {queue : List Instr} (die port first : Nat) (env : LadderEnv) {s : State} (hk : Keeps queue s) : Keeps queue (climb
    die port first env s) := by
  unfold climb
  with_reducible repeat' first
      | assumption | apply modLink_keeps | apply unsent_keeps | refine Keeps.ite ?_ ?_ | (simp only [Keeps.mk_iff]; refine Keeps.parts ?_)
      | (dsimp only) | split

theorem linkFreeze_keeps {queue : List Instr} (die port : Nat) {s : State} (hk : Keeps queue s) : Keeps queue (linkFreeze die port s) :=
    by
  unfold linkFreeze
  with_reducible repeat' first
      | assumption | apply freq_keeps | apply modLink_keeps | refine Keeps.ite ?_ ?_ | refine Keeps.foldl ?_ (fun t a ht => ?_)

theorem linkRelease_keeps {queue : List Instr} (asked : List Nat) {s : State} (hk : Keeps queue s) : Keeps queue (linkRelease asked s)
    := by
  unfold linkRelease
  with_reducible repeat' first
      | assumption | apply release_keeps | refine Keeps.ite ?_ ?_ | refine Keeps.foldl ?_ (fun t a ht => ?_)

theorem keepaliveLost_keeps {queue : List Instr} (die port : Nat) {s : State} (hk : Keeps queue s) : Keeps queue (keepaliveLost die port
    s) := by
  unfold keepaliveLost
  with_reducible repeat' (first | assumption | apply modLink_keeps)

theorem wakeBy_keeps {queue : List Instr} (found : Option LadderEnv) (die port : Nat) {s : State} (hk : Keeps queue s) : Keeps queue
    (wakeBy found die port s) := by
  unfold wakeBy
  with_reducible repeat' first
      | assumption | apply modLink_keeps | apply climb_keeps | refine Keeps.ite ?_ ?_ | (simp only [Keeps.mk_iff]; refine Keeps.parts ?_)
      | (dsimp only) | split

theorem wakeLink_keeps {queue : List Instr} (failed : List (Nat × LadderEnv)) (die port : Nat) {s : State} (hk : Keeps queue s) : Keeps
    queue (wakeLink failed die port s) := by
  unfold wakeLink
  with_reducible repeat' (first | assumption | apply wakeBy_keeps)

theorem standbyCheck_keeps {queue : List Instr} (die port : Nat) (found : StandbyFind) {s : State} (hk : Keeps queue s) : Keeps queue
    (standbyCheck die port found s) := by
  unfold standbyCheck
  with_reducible repeat' first
      | assumption | apply wakeBy_keeps | apply linkFreeze_keeps | apply modLink_keeps | apply linkRelease_keeps | refine Keeps.ite ?_ ?_

theorem noteDepths_keeps {queue : List Instr} (d p : Nat) {s : State} (hk : Keeps queue s) : Keeps queue (noteDepths d p s) := by
  unfold noteDepths
  with_reducible repeat' first
      | assumption | refine Keeps.ite ?_ ?_ | (simp only [Keeps.mk_iff]; refine Keeps.parts ?_) | (dsimp only) | split

end Sys2Proof.Machine
end

