-- ==== Sys2Proof/Laws/KeepsRounds.lean ====
section
/-! SUPPORT. The operations of repair, rings, swaps, rounds and bind-off keep the canonical form of panel memory and the queue. -/

namespace Sys2Proof.Machine

open Sys2Proof

/-! ## Machine/Repair.lean -/

theorem modGrid_keeps {queue : List Instr} (g : Grid → Grid) {s : State} (hk : Keeps queue s) : Keeps queue (modGrid g s) := by
  unfold modGrid
  with_reducible repeat' (first | assumption | (simp only [Keeps.mk_iff]; refine Keeps.parts ?_))

theorem setSkip_keeps {queue : List Instr} (w c : Nat) {s : State} (hk : Keeps queue s) : Keeps queue (setSkip w c s) := by
  unfold setSkip
  with_reducible repeat' (first | assumption | apply modGrid_keeps)

theorem markRetired_keeps {queue : List Instr} (d : Nat) {s : State} (hk : Keeps queue s) : Keeps queue (markRetired d s) := by
  unfold markRetired
  with_reducible repeat' (first | assumption | apply modGrid_keeps | (simp only [Keeps.mk_iff]; refine Keeps.parts ?_))

theorem disableLinks_keeps {queue : List Instr} (d : Nat) {s : State} (hk : Keeps queue s) : Keeps queue (disableLinks d s) := by
  unfold disableLinks
  with_reducible repeat' (first | assumption | apply modLink_keeps | refine Keeps.ite ?_ ?_ | refine Keeps.foldl ?_ (fun t a ht => ?_))

theorem recomputeLoads_keeps {queue : List Instr} {s : State} (hk : Keeps queue s) : Keeps queue (recomputeLoads s) := by
  unfold recomputeLoads
  with_reducible repeat' first
      | assumption | apply modLink_keeps | apply modGrid_keeps | refine Keeps.ite ?_ ?_ | refine Keeps.foldl ?_ (fun t a ht => ?_)

theorem plan_keeps {queue : List Instr} (d cause : Nat) {s : State} (hk : Keeps queue s) : Keeps queue (plan d cause s) := by
  unfold plan
  with_reducible repeat' (first | assumption | refine Keeps.ite ?_ ?_ | (simp only [Keeps.mk_iff]; refine Keeps.parts ?_))

theorem afterLinkChange_keeps {queue : List Instr} {s : State} (hk : Keeps queue s) : Keeps queue (afterLinkChange s) := by
  unfold afterLinkChange
  with_reducible repeat' first
      | assumption | apply recomputeLoads_keeps | apply reforest_keeps | apply plan_keeps | refine Keeps.ite ?_ ?_
      | refine Keeps.foldl ?_ (fun t a ht => ?_) | refine Keeps.foldlPair ?_ (fun t a ht => ?_)
      | (simp only [Keeps.mk_iff]; refine Keeps.parts ?_) | (dsimp only) | split

theorem moveSites_keeps {queue : List Instr} (oldSkip : List Nat) {s : State} (hk : Keeps queue s) : Keeps queue (moveSites oldSkip s)
    := by
  unfold moveSites
  with_reducible repeat' first
      | assumption | apply modDie_keeps | apply modClu_keeps | refine Keeps.ite ?_ ?_ | refine Keeps.foldl ?_ (fun t a ht => ?_)
      | refine Keeps.foldlPair ?_ (fun t a ht => ?_) | (simp only [Keeps.mk_iff]; refine Keeps.parts ?_) | (dsimp only) | split

theorem closeHeaders_keeps {queue : List Instr} (d : Nat) {s : State} (hk : Keeps queue s) : Keeps queue (closeHeaders d s) := by
  unfold closeHeaders
  with_reducible repeat' first
      | assumption | apply modClu_keeps | refine Keeps.foldl ?_ (fun t a ht => ?_)

theorem openHeaders_keeps {queue : List Instr} (d : Nat) {s : State} (hk : Keeps queue s) : Keeps queue (openHeaders d s) := by
  unfold openHeaders
  with_reducible repeat' first
      | assumption | apply modClu_keeps | refine Keeps.foldl ?_ (fun t a ht => ?_)

theorem powerSpare_keeps {queue : List Instr} (from_ d : Nat) {s : State} (hk : Keeps queue s) : Keeps queue (powerSpare from_ d s) :=
    by
  unfold powerSpare
  with_reducible repeat' first
      | assumption | apply closeHeaders_keeps | apply modDie_keeps

theorem wakeWale_keeps {queue : List Instr} (w c : Nat) (env : RepairEnv) {s : State} (hk : Keeps queue s) : Keeps queue (wakeWale w c env
    s).1 := by
  unfold wakeWale
  with_reducible repeat' (first | assumption | apply wakeLink_keeps | refine Keeps.foldl ?_ (fun t a ht => ?_) | (dsimp only) | split)

theorem retireOne_keeps {queue : List Instr} (env : RepairEnv) {s : State} (f : Fail) (hk : Keeps queue s) : Keeps queue (retireOne env
    s f) := by
  unfold retireOne
  with_reducible repeat' first
      | assumption | apply addFault_keeps | apply openHeaders_keeps | apply disableLinks_keeps | apply markRetired_keeps
      | apply setSkip_keeps | apply goOut_keeps | apply wakeWale_keeps | apply powerSpare_keeps | refine Keeps.ite ?_ ?_

theorem reportRepair_keeps {queue : List Instr} (d : Nat) (course : Option Nat) (oldSkip : List Nat) (env : RepairEnv) {s : State} (hk :
    Keeps queue s) : Keeps queue (reportRepair d course oldSkip env s) := by
  unfold reportRepair
  with_reducible repeat' first
      | assumption | apply addFault_keeps | apply logPush_keeps | apply eventPf_keeps | (simp only [Keeps.mk_iff]; refine Keeps.parts ?_)
      | split

theorem fieldFreshIf_keeps {queue : List Instr} {s : State} (h : Keeps queue s) : Keeps queue (repairBody.fieldFreshIf s) := by
  unfold repairBody.fieldFreshIf
  with_reducible repeat' (first | assumption | apply fieldFresh_keeps | refine Keeps.ite ?_ ?_)

theorem repairBody_keeps {queue : List Instr} (d : Nat) (course : Option Nat) (env : RepairEnv) (act : State → State)
    (ha : ∀ t, Keeps queue t → Keeps queue (act t)) {s : State} (hk : Keeps queue s) : Keeps queue (repairBody d course env act s) := by
  unfold repairBody
  with_reducible repeat' first
      | apply ha | apply afterLinkChange_keeps | apply fieldFreshIf_keeps | assumption | apply drainFabric_keeps | apply moveSites_keeps | apply reportRepair_keeps
      | refine Keeps.ite ?_ ?_ | (simp only [Keeps.mk_iff]; refine Keeps.parts ?_)

theorem disarmAll_keeps {queue : List Instr} {s : State} (hk : Keeps queue s) : Keeps queue (disarmAll s) := by
  unfold disarmAll
  with_reducible repeat' (first | assumption | apply refuseSwap_keeps | refine Keeps.ite ?_ ?_ | split)

theorem repairNow_keeps {queue : List Instr} (d : Nat) (course : Option Nat) (env : RepairEnv) (act : State → State) (ha : ∀ t, Keeps
    queue t → Keeps queue (act t)) {s : State} (hk : Keeps queue s) : Keeps queue (repairNow d course env act s) := by
  unfold repairNow
  with_reducible repeat' first
      | apply ha | assumption | apply repairBody_keeps | apply disarmAll_keeps | apply abortField_keeps | apply stopOnFault_keeps
      | apply replayRound_keeps | refine Keeps.ite ?_ ?_ | (simp only [Keeps.mk_iff]; refine Keeps.parts ?_)

theorem retireSites_keeps {queue : List Instr} (fs : List Fail) (env : RepairEnv) {s : State} (hk : Keeps queue s) : Keeps queue
    (retireSites fs env s) := by
  unfold retireSites
  with_reducible repeat' first
      | assumption | apply retireOne_keeps | apply repairNow_keeps | refine Keeps.ite ?_ ?_ | refine Keeps.foldl ?_ (fun t a ht => ?_)
      | intro t ht | (dsimp only) | split

theorem retirePlanned_keeps {queue : List Instr} (d cause : Nat) (env : RepairEnv) {s : State} (hk : Keeps queue s) : Keeps queue
    (retirePlanned d cause env s) := by
  unfold retirePlanned
  with_reducible repeat' first
      | assumption | apply retireOne_keeps | apply repairBody_keeps | apply disarmAll_keeps | apply abortField_keeps
      | apply replayRound_keeps | refine Keeps.ite ?_ ?_ | (simp only [Keeps.mk_iff]; refine Keeps.parts ?_) | intro t ht

theorem linksDown_keeps {queue : List Instr} (d : Nat) {s : State} (hk : Keeps queue s) : Keeps queue (linksDown d s) := by
  unfold linksDown
  with_reducible repeat' first
      | assumption | apply modLink_keeps | refine Keeps.ite ?_ ?_ | refine Keeps.foldl ?_ (fun t a ht => ?_)

theorem loseCourse_keeps {queue : List Instr} (c : Nat) (cause : CourseCause) (vinOnly : Bool) (env : RepairEnv) {s : State} (hk : Keeps
    queue s) : Keeps queue (loseCourse c cause vinOnly env s) := by
  unfold loseCourse
  with_reducible repeat' first
      | assumption | apply logPush_keeps | apply modGrid_keeps | apply openHeaders_keeps | apply disableLinks_keeps
      | apply linksDown_keeps | apply saveStackMap_keeps | apply modStack_keeps | apply markLost_keeps | apply settleTorn_keeps
      | apply goOut_keeps | apply setSkip_keeps | apply wakeWale_keeps | apply powerSpare_keeps | apply wakeLink_keeps
      | refine Keeps.ite ?_ ?_ | refine Keeps.foldl ?_ (fun t a ht => ?_) | refine Keeps.foldlPair ?_ (fun t a ht => ?_)
      | (simp only [Keeps.mk_iff]; refine Keeps.parts ?_) | (dsimp only) | split

theorem countCourse_keeps {queue : List Instr} (c item : Nat) {s : State} (hk : Keeps queue s) : Keeps queue (countCourse c item s) := by
  unfold countCourse
  with_reducible repeat' (first | assumption | apply modPwr_keeps)

theorem courseLoss_keeps {queue : List Instr} (c : Nat) (cause : CourseCause) (vinOnly : Bool) (env : RepairEnv) {s : State} (hk : Keeps
    queue s) : Keeps queue (courseLoss c cause vinOnly env s) := by
  unfold courseLoss
  with_reducible repeat' first
      | assumption | apply repairNow_keeps | apply loseCourse_keeps | apply countCourse_keeps | refine Keeps.ite ?_ ?_

theorem linkFailed_keeps {queue : List Instr} (d p : Nat) (env : RepairEnv) {s : State} (hk : Keeps queue s) : Keeps queue (linkFailed d p
    env s) := by
  unfold linkFailed
  with_reducible repeat' first
      | assumption | apply modLink_keeps | apply chargeFault_keeps | apply retireSites_keeps | apply abortReplay_keeps | apply afterLinkChange_keeps
      | apply goOutOfService_keeps | apply afterLinkChange_keeps | refine Keeps.ite ?_ ?_ | (dsimp only) | split

/-! ## Machine/Rings.lean -/

theorem applyShaper_keeps {queue : List Instr} (t sh rate depth : Nat) {s : State} (hk : Keeps queue s) : Keeps queue (applyShaper t sh
    rate depth s) := by
  unfold applyShaper
  with_reducible repeat' (first | assumption | apply modTen_keeps)

theorem accrueAll_keeps {queue : List Instr} {s : State} (hk : Keeps queue s) : Keeps queue (accrueAll s) := by
  unfold accrueAll
  with_reducible repeat' (first | assumption | apply modTen_keeps | refine Keeps.ite ?_ ?_ | refine Keeps.foldl ?_ (fun t a ht => ?_))

theorem hit_keeps {queue : List Instr} (op i : Nat) {s : State} (hk : Keeps queue s) : Keeps queue (hit op i s) := by
  unfold hit
  with_reducible repeat' first
      | assumption | apply cancelMark_keeps | refine startUnpark_keeps ?_ (by assumption) | refine Keeps.ite ?_ ?_
      | refine Keeps.getD ?_ (fun t e => ?_) | split

theorem actCancel_keeps {queue : List Instr} (r : Req) {s : State} (hk : Keeps queue s) : Keeps queue (actCancel r s) := by
  unfold actCancel
  with_reducible repeat' first
      | assumption | apply putRecord_keeps | apply modReq_keeps | apply finishReq_keeps | refine Keeps.ite ?_ ?_ | (dsimp only) | split

theorem takeDesc_keeps {queue : List Instr} (t i : Nat) (p : Nat × Desc) {s : State} (hk : Keeps queue s) : Keeps queue (takeDesc t i p s)
    := by
  unfold takeDesc
  with_reducible repeat' first
      | assumption | apply modRing_keeps | apply fnCount64_keeps | apply fnCount_keeps | apply modRnd_keeps | apply actCancel_keeps
      | apply hit_keeps | refine Keeps.ite ?_ ?_

theorem fetchRing_keeps {queue : List Instr} (t i n : Nat) {s : State} (h : Keeps queue s) : Keeps queue (fetchRing t i n s) := by
  induction n generalizing s with
  | zero => exact h
  | succ n ih =>
    unfold fetchRing
    with_reducible repeat' (first | apply ih | assumption | apply fnCount_keeps | apply takeDesc_keeps | refine Keeps.ite ?_ ?_ | split)

theorem fetchAll_keeps {queue : List Instr} {s : State} (hk : Keeps queue s) : Keeps queue (fetchAll s) := by
  unfold fetchAll
  with_reducible repeat' (first | assumption | apply fetchRing_keeps | refine Keeps.ite ?_ ?_ | refine Keeps.foldl ?_ (fun t a ht => ?_))

/-- What a turn keeps of the state that it leaves. -/
def KeepsTurn (queue : List Instr) : Turn → Prop
  | .finish _ t => Keeps queue t
  | .wait t => Keeps queue t
  | .rows => True

theorem keepsTurn_finish {queue : List Instr} {n : Nat} {s : State} (h : Keeps queue s) : KeepsTurn queue (.finish n s) := h

theorem keepsTurn_wait {queue : List Instr} {s : State} (h : Keeps queue s) : KeepsTurn queue (.wait s) := h

theorem keepsTurn_rows {queue : List Instr} : KeepsTurn queue .rows := trivial

theorem keepsTurn_ite {queue : List Instr} {c : Prop} [Decidable c] {s t : Turn} (hs : KeepsTurn queue s) (ht : KeepsTurn queue t) :
    KeepsTurn queue (if c then s else t) := by split <;> assumption

theorem openSession_keeps {queue : List Instr} (r : Req) {s : State} (h : Keeps queue s) : KeepsTurn queue (openSession r s) := by
  unfold openSession
  split
  · exact h
  · split
    · exact h
    · rename_i e
      exact modReq_keeps _ _ (tailEntry_keeps _ _ _ _ _ _ _ (putSess_keeps _ _ (takeIndex_keeps h e)))

theorem appendFirst_keeps {queue : List Instr} (r : Req) {s : State} (h : Keeps queue s) : KeepsTurn queue (appendFirst r s) := by
  unfold appendFirst
  split
  · exact h
  · show Keeps queue _
    with_reducible repeat' first
        | assumption | apply modSess_keeps | apply writeHist_keeps | apply tailEntry_keeps | refine growTo_keeps ?_ (by assumption)

theorem rowTurn_keeps {queue : List Instr} (r : Req) {s : State} (h : Keeps queue s) : KeepsTurn queue (rowTurn r s) := by
  unfold rowTurn
  dsimp only
  repeat' (first | with_reducible exact appendFirst_keeps r h | split | exact h | exact trivial)

theorem cancelOnly_keeps {queue : List Instr} (r : Req) {s : State} (h : Keeps queue s) : Keeps queue (turnOf.actCancelOnly r s) := by
  unfold turnOf.actCancelOnly
  with_reducible repeat' (first | assumption | apply modReq_keeps | apply finishReq_keeps | refine Keeps.ite ?_ ?_ | split)

theorem turnOf_keeps {queue : List Instr} (r : Req) {s : State} (h : Keeps queue s) : KeepsTurn queue (turnOf r s) := by
  unfold turnOf
  with_reducible repeat' first
      | refine keepsTurn_ite ?_ ?_ | refine keepsTurn_finish ?_ | refine keepsTurn_wait ?_ | apply openSession_keeps | apply rowTurn_keeps
      | apply cancelOnly_keeps | assumption | apply cancelMark_keeps | apply freeSession_keeps | refine startMark_keeps ?_ (by assumption)
      | refine startUnpark_keeps ?_ (by assumption) | refine Keeps.getD ?_ (fun t e => ?_) | split

theorem finishNow_keeps {queue : List Instr} (id status : Nat) {s : State} (hk : Keeps queue s) : Keeps queue (finishNow id status s) := by
  unfold finishNow
  with_reducible repeat' (first | assumption | apply finishReq_keeps | (dsimp only) | split)

theorem carryOne_keeps {queue : List Instr} (id : Nat) {s : State} (h : Keeps queue s) : Keeps queue (carryOne id s) := by
  unfold carryOne
  split
  · exact h
  · rename_i r _
    have ht := turnOf_keeps r h
    split
    · exact h
    · split
      · exact h
      · split
        · rename_i e; rw [e] at ht; exact finishNow_keeps _ _ ht
        · rename_i e; rw [e] at ht; exact modReq_keeps _ _ ht
        · exact h

theorem carryOut_keeps {queue : List Instr} {s : State} (hk : Keeps queue s) : Keeps queue (carryOut s) := by
  unfold carryOut
  with_reducible repeat' (first | assumption | apply carryOne_keeps | refine Keeps.foldl ?_ (fun t a ht => ?_))

theorem endCancelled_keeps {queue : List Instr} {s : State} (hk : Keeps queue s) : Keeps queue (endCancelled s) := by
  unfold endCancelled
  with_reducible repeat' (first | assumption | apply finishReq_keeps | refine Keeps.foldl ?_ (fun t a ht => ?_))

theorem stopRing_keeps {queue : List Instr} (t i why : Nat) {s : State} (hk : Keeps queue s) : Keeps queue (stopRing t i why s) := by
  unfold stopRing
  with_reducible repeat' (first | assumption | apply raiseFaultFor_keeps | apply setCause_keeps | apply modRing_keeps)

theorem doorbell_keeps {queue : List Instr} (t i : Nat) (tail head : Option W16) {s : State} (hk : Keeps queue s) : Keeps queue (doorbell
    t i tail head s) := by
  unfold doorbell
  with_reducible repeat' first
      | assumption | apply fnCount_keeps | apply modRing_keeps | apply stopRing_keeps | refine Keeps.ite ?_ ?_ | (dsimp only) | split

/-! ## Machine/Swaps.lean -/

theorem armAnswer_keeps {queue : List Instr} (die : Nat) (ready : Bool) {s : State} (hk : Keeps queue s) : Keeps queue (armAnswer die
    ready s) := by
  unfold armAnswer
  with_reducible repeat' first
      | assumption | apply modDie_keeps | apply refuseSwap_keeps | refine Keeps.ite ?_ ?_
      | (simp only [Keeps.mk_iff]; refine Keeps.parts ?_) | (dsimp only) | split

theorem armTimeout_keeps {queue : List Instr} {s : State} (hk : Keeps queue s) : Keeps queue (armTimeout s) := by
  unfold armTimeout
  with_reducible repeat' (first | assumption | apply refuseSwap_keeps | refine Keeps.ite ?_ ?_ | split)

theorem sendSwap_keeps {queue : List Instr} (target : BitVec 48) {s : State} (hk : Keeps queue s) : Keeps queue (sendSwap target s) := by
  unfold sendSwap
  with_reducible repeat' first
      | assumption | apply modDies_keeps | (simp only [Keeps.mk_iff]; refine Keeps.parts ?_) | (dsimp only) | split

theorem swapFrame_keeps {queue : List Instr} (target : BitVec 48) {s : State} (hk : Keeps queue s) : Keeps queue (swapFrame target s) := by
  unfold swapFrame
  with_reducible repeat' (first | assumption | apply sendSwap_keeps | refine Keeps.ite ?_ ?_ | split)

theorem nack_keeps {queue : List Instr} (die : Nat) {s : State} (hk : Keeps queue s) : Keeps queue (nack die s) := by
  unfold nack
  with_reducible repeat' first
      | assumption | refine Keeps.ite ?_ ?_ | (simp only [Keeps.mk_iff]; refine Keeps.parts ?_) | (dsimp only) | split

theorem withhold_keeps {queue : List Instr} (_target : BitVec 48) {s : State} (hk : Keeps queue s) : Keeps queue (withhold _target s) := by
  unfold withhold
  with_reducible repeat' first
      | assumption | apply modDies_keeps | (simp only [Keeps.mk_iff]; refine Keeps.parts ?_) | (dsimp only) | split

theorem copySets_keeps {queue : List Instr} {s : State} (hk : Keeps queue s) : Keeps queue (copySets s) := by
  unfold copySets
  with_reducible repeat' first
      | assumption | refine Keeps.ite ?_ ?_ | (simp only [Keeps.mk_iff]; refine Keeps.parts ?_)

theorem putMode_keeps {queue : List Instr} (m : Mode) {s : State} (hk : Keeps queue s) : Keeps queue (putMode m s) := by
  unfold putMode
  with_reducible repeat' first
      | assumption | apply modDies_keeps | refine Keeps.ite ?_ ?_ | (simp only [Keeps.mk_iff]; refine Keeps.parts ?_)

theorem useSets_keeps {queue : List Instr} (old : CfgSet) {s : State} (hk : Keeps queue s) : Keeps queue (useSets old s) := by
  unfold useSets
  with_reducible repeat' first
      | assumption | apply putMode_keeps | apply modClu_keeps | apply applyShaper_keeps | refine Keeps.ite ?_ ?_
      | refine Keeps.foldl ?_ (fun t a ht => ?_)

theorem doSwap_keeps {queue : List Instr} {s : State} (hk : Keeps queue s) : Keeps queue (doSwap s) := by
  unfold doSwap
  with_reducible repeat' first
      | assumption | apply useSets_keeps | apply modDies_keeps | apply finishLongs_keeps
      | (simp only [Keeps.mk_iff]; refine Keeps.parts ?_) | (dsimp only) | split

theorem returnSwapped_keeps {queue : List Instr} {s : State} (hk : Keeps queue s) : Keeps queue (returnSwapped s) := by
  unfold returnSwapped
  with_reducible repeat' first
      | assumption | apply useSets_keeps | apply modDies_keeps | refine Keeps.ite ?_ ?_
      | (simp only [Keeps.mk_iff]; refine Keeps.parts ?_)

theorem partSwap_keeps {queue : List Instr} (t : BitVec 48) (missed : List Nat) {s : State} (hk : Keeps queue s) : Keeps queue (partSwap
    t missed s) := by
  unfold partSwap
  with_reducible repeat' first
      | assumption | apply useSets_keeps | apply modDies_keeps | apply refuseSwap_keeps | apply returnSwapped_keeps
      | refine Keeps.ite ?_ ?_ | (simp only [Keeps.mk_iff]; refine Keeps.parts ?_)

theorem swapAtTarget_keeps {queue : List Instr} {s : State} (hk : Keeps queue s) : Keeps queue (swapAtTarget s) := by
  unfold swapAtTarget
  with_reducible repeat' first
      | assumption | apply refuseSwap_keeps | apply doSwap_keeps | apply partSwap_keeps | refine Keeps.ite ?_ ?_
      | (simp only [Keeps.mk_iff]; refine Keeps.parts ?_) | (dsimp only) | split

theorem applyWindows_keeps {queue : List Instr} {s : State} (hk : Keeps queue s) : Keeps queue (applyWindows s) := by
  unfold applyWindows
  with_reducible repeat' first
      | assumption | apply writeBlocks_keeps | apply reloadWindows_keeps | (simp only [Keeps.mk_iff]; refine Keeps.parts ?_)
      | (dsimp only) | split

theorem windowSwap_keeps {queue : List Instr} {s : State} (hk : Keeps queue s) : Keeps queue (windowSwap s) := by
  unfold windowSwap
  with_reducible repeat' first
      | assumption | apply modTen_keeps | apply refuseSwap_keeps | apply modDies_keeps | apply applyWindows_keeps
      | apply finishLongs_keeps | refine Keeps.ite ?_ ?_ | (simp only [Keeps.mk_iff]; refine Keeps.parts ?_) | (dsimp only) | split

theorem modeCommit_keeps {queue : List Instr} (at_ : BitVec 48) {s : State} (hk : Keeps queue s) : Keeps queue (modeCommit at_ s) := by
  unfold modeCommit
  with_reducible repeat' (first | assumption | apply refuseSwap_keeps | apply sendSwap_keeps | refine Keeps.ite ?_ ?_ | split)

theorem modeAfterStop_keeps {queue : List Instr} {s : State} (hk : Keeps queue s) : Keeps queue (modeAfterStop s) := by
  unfold modeAfterStop
  with_reducible repeat' (first | assumption | refine Keeps.ite ?_ ?_ | (simp only [Keeps.mk_iff]; refine Keeps.parts ?_) | split)

theorem forceLean_keeps {queue : List Instr} {s : State} (hk : Keeps queue s) : Keeps queue (forceLean s) := by
  unfold forceLean
  with_reducible repeat' first
      | assumption | apply putMode_keeps | apply modDies_keeps

theorem leanNow_keeps {queue : List Instr} (how : W32) {s : State} (hk : Keeps queue s) : Keeps queue (leanNow how s) := by
  unfold leanNow
  with_reducible repeat' (first | assumption | apply modPwr_keeps | apply eventPf_keeps | apply forceLean_keeps | refine Keeps.ite ?_ ?_)

theorem leanPoint_keeps {queue : List Instr} (die : Nat) {s : State} (hk : Keeps queue s) : Keeps queue (leanPoint die s) := by
  unfold leanPoint
  with_reducible repeat' (first | assumption | apply leanNow_keeps | refine Keeps.ite ?_ ?_)

theorem timerFire_keeps {queue : List Instr} (fn timer : Nat) (late : Bool) {s : State} (hk : Keeps queue s) : Keeps queue (timerFire fn
    timer late s) := by
  unfold timerFire
  with_reducible repeat' (first | assumption | apply event_keeps | apply modFn_keeps | split)

/-! ## Machine/Rounds.lean -/

theorem chargeRows_keeps {queue : List Instr} (r : Req) (n : Nat) {s : State} (hk : Keeps queue s) : Keeps queue (chargeRows r n s) := by
  unfold chargeRows
  with_reducible repeat' (first | assumption | apply fnCount64_keeps | apply modTen_keeps | refine Keeps.ite ?_ ?_)

theorem takeOffer_keeps {queue : List Instr} (r : Req) (o : Offer) {s : State} (hk : Keeps queue s) : Keeps queue (takeOffer r o s) := by
  unfold takeOffer
  with_reducible repeat' (first | assumption | apply writeHist_keeps | apply modReq_keeps | apply chargeRows_keeps | apply modRnd_keeps)

theorem admitOne_keeps {queue : List Instr} (id : Nat) {s : State} (h : Keeps queue s) : Keeps queue (admitOne id s).1 := by
  unfold admitOne
  with_reducible repeat' first
      | assumption | apply takeOffer_keeps | apply modReq_keeps | refine growTo_keeps ?_ (by assumption) | apply cancelMark_keeps
      | refine Keeps.ite ?_ ?_ | split

theorem admitContinuing_keeps {queue : List Instr} {s : State} (hk : Keeps queue s) : Keeps queue (admitContinuing s) := by
  unfold admitContinuing
  with_reducible repeat' (first | assumption | apply admitOne_keeps | refine Keeps.foldl ?_ (fun t a ht => ?_))

theorem takeTurn_keeps {queue : List Instr} (t : Nat) (l : List Req) {s : State} (h : Keeps queue s) :
    Keeps queue (takeTurn t l s).1 := by
  induction l generalizing s with
  | nil => exact h
  | cons r l ih =>
    unfold takeTurn
    with_reducible repeat' (first | apply ih | assumption | apply admitOne_keeps | apply modTen_keeps | (dsimp only) | split)

theorem oneTurn_keeps {queue : List Instr} {s : State} (h : Keeps queue s) : Keeps queue (oneTurn s).1 := by
  unfold oneTurn
  with_reducible repeat' first
      | assumption | apply modRnd_keeps | apply takeTurn_keeps | refine Keeps.foldlPair ?_ (fun t a ht => ?_) | (dsimp only) | split

theorem allTurns_keeps {queue : List Instr} (n : Nat) {s : State} (h : Keeps queue s) : Keeps queue (allTurns n s) := by
  induction n generalizing s with
  | zero => exact h
  | succ n ih =>
    unfold allTurns
    with_reducible repeat' (first | apply ih | assumption | apply oneTurn_keeps | refine Keeps.ite ?_ ?_)

theorem admitAll_keeps {queue : List Instr} {s : State} (hk : Keeps queue s) : Keeps queue (admitAll s) := by
  unfold admitAll
  with_reducible repeat' (first | assumption | apply admitContinuing_keeps | apply modRnd_keeps | apply allTurns_keeps)

theorem pressMarks_keeps {queue : List Instr} (need n : Nat) {s : State} (h : Keeps queue s) : Keeps queue (pressMarks need n s) := by
  induction n generalizing s with
  | zero => exact h
  | succ n ih =>
    unfold pressMarks
    with_reducible repeat' (first | apply ih | assumption | refine startMark_keeps ?_ (by assumption) | refine Keeps.ite ?_ ?_ | split)

theorem pressure_keeps {queue : List Instr} {s : State} (hk : Keeps queue s) : Keeps queue (pressure s) := by
  unfold pressure
  with_reducible repeat' (first | assumption | apply pressMarks_keeps | refine Keeps.ite ?_ ?_)

theorem ageSessions_keeps {queue : List Instr} (inRound : List Nat) {s : State} (hk : Keeps queue s) : Keeps queue (ageSessions inRound s)
    := by
  unfold ageSessions
  with_reducible repeat' (first | assumption | apply modSess_keeps | refine Keeps.ite ?_ ?_ | refine Keeps.foldl ?_ (fun t a ht => ?_))

theorem thresholdMarks_keeps {queue : List Instr} {s : State} (hk : Keeps queue s) : Keeps queue (thresholdMarks s) := by
  unfold thresholdMarks
  with_reducible repeat' first
      | assumption | refine startMark_keeps ?_ (by assumption) | refine Keeps.ite ?_ ?_ | refine Keeps.foldl ?_ (fun t a ht => ?_)
      | refine Keeps.getD ?_ (fun t e => ?_)

theorem fieldStart_keeps {queue : List Instr} {s : State} (hk : Keeps queue s) : Keeps queue (fieldStart s) := by
  unfold fieldStart
  with_reducible repeat' (first | assumption | apply modClu_keeps | apply modDie_keeps | refine Keeps.foldl ?_ (fun t a ht => ?_))

theorem beginRound_keeps {queue : List Instr} (k : BitVec 48) {s : State} (hk : Keeps queue s) : Keeps queue (beginRound k s) := by
  unfold beginRound
  with_reducible repeat' first
      | assumption | apply modRnd_keeps | apply pmWrite_keeps | apply fieldStart_keeps | refine Keeps.ite ?_ ?_
      | (simp only [Keeps.mk_iff]; refine Keeps.parts ?_)

theorem commitPart_keeps {queue : List Instr} (x : Part × List W32) {s : State} (hk : Keeps queue s) : Keeps queue (commitPart x s) := by
  unfold commitPart
  with_reducible repeat' first
      | assumption | apply writeHist_keeps | apply modSess_keeps | apply trimPages_keeps | apply tailCommit_keeps | refine Keeps.ite ?_ ?_

theorem tokenRecords_keeps {queue : List Instr} (r : Req) (fin : Nat × Bool) (before : Nat) (l : List W32) {s : State}
    (h : Keeps queue s) : Keeps queue (tokenRecords r fin before l s) := by
  induction l generalizing s before with
  | nil => exact h
  | cons t l ih =>
    unfold tokenRecords
    with_reducible repeat' (first | apply ih | assumption | apply putRecord_keeps)

theorem recordPart_keeps {queue : List Instr} (x : Part × List W32) {s : State} (hk : Keeps queue s) : Keeps queue (recordPart x s) := by
  unfold recordPart
  with_reducible repeat' first
      | assumption | apply finishReq_keeps | apply modReq_keeps | apply tokenRecords_keeps | apply dropReq_keeps | refine Keeps.ite ?_ ?_
      | (dsimp only) | split

theorem commitFlags_keeps {queue : List Instr} {s : State} (hk : Keeps queue s) : Keeps queue (commitFlags s) := by
  unfold commitFlags
  with_reducible repeat' first
      | assumption | apply modClu_keeps | apply modDie_keeps | apply modRnd_keeps | refine Keeps.foldl ?_ (fun t a ht => ?_)

theorem chargeReplayed_keeps {queue : List Instr} {s : State} (hk : Keeps queue s) : Keeps queue (chargeReplayed s) := by
  unfold chargeReplayed
  with_reducible repeat' first
      | assumption | apply chargeFault_keeps | refine Keeps.ite ?_ ?_ | refine Keeps.foldl ?_ (fun t a ht => ?_)
      | (simp only [Keeps.mk_iff]; refine Keeps.parts ?_)

theorem commitRound_keeps {queue : List Instr} {s : State} (hk : Keeps queue s) : Keeps queue (commitRound s) := by
  unfold commitRound
  with_reducible repeat' first
      | assumption | apply commitPart_keeps | apply fnCount64_keeps | apply recordPart_keeps | apply chargeReplayed_keeps
      | apply commitFlags_keeps | apply ageSessions_keeps | apply modRnd_keeps | refine Keeps.foldl ?_ (fun t a ht => ?_)

theorem clearFlags_keeps {queue : List Instr} (mask : Byte) {s : State} (hk : Keeps queue s) : Keeps queue (clearFlags mask s) := by
  unfold clearFlags
  with_reducible repeat' first
      | assumption | apply modClu_keeps | apply modRnd_keeps | refine Keeps.foldl ?_ (fun t a ht => ?_)
      | (simp only [Keeps.mk_iff]; refine Keeps.parts ?_)

theorem finishClears_keeps {queue : List Instr} (round : W64) {s : State} (hk : Keeps queue s) : Keeps queue (finishClears round s) := by
  unfold finishClears
  with_reducible repeat' first
      | assumption | apply respond_keeps | apply clearFlags_keeps | refine Keeps.foldl ?_ (fun t a ht => ?_) | split

theorem setPace_keeps {queue : List Instr} (env : BoundaryEnv) {s : State} (hk : Keeps queue s) : Keeps queue (setPace env s) := by
  unfold setPace
  with_reducible repeat' (first | assumption | apply modPwr_keeps)

theorem parkUnder_keeps {queue : List Instr} (l : Option Licence) {s : State} (hk : Keeps queue s) : Keeps queue (parkUnder l s) := by
  unfold parkUnder
  with_reducible repeat' first
      | assumption | refine Keeps.foldl ?_ (fun t a ht => ?_) | refine Keeps.foldlPair ?_ (fun t a ht => ?_)
      | (simp only [Keeps.mk_iff]; refine Keeps.parts ?_)

theorem takeLicence_keeps {queue : List Instr} {s : State} (hk : Keeps queue s) : Keeps queue (takeLicence s) := by
  unfold takeLicence
  with_reducible repeat' first
      | assumption | apply eventPf_keeps | apply relimit_keeps | apply parkUnder_keeps | apply modBoot_keeps
      | (simp only [Keeps.mk_iff]; refine Keeps.parts ?_) | (dsimp only) | split

theorem countHeld_keeps {queue : List Instr} {s : State} (hk : Keeps queue s) : Keeps queue (countHeld s) := by
  unfold countHeld
  with_reducible repeat' (first | assumption | apply fnCount_keeps | refine Keeps.foldl ?_ (fun t a ht => ?_))

theorem finishReset_keeps {queue : List Instr} (t : Nat) {s : State} (hk : Keeps queue s) : Keeps queue (finishReset t s) := by
  unfold finishReset
  with_reducible repeat' first
      | assumption | apply finishImport_keeps | apply freeSession_keeps | apply modRnd_keeps | apply modTen_keeps
      | apply finishLongs_keeps | refine Keeps.foldl ?_ (fun t a ht => ?_)

theorem finishResets_keeps {queue : List Instr} {s : State} (hk : Keeps queue s) : Keeps queue (finishResets s) := by
  unfold finishResets
  with_reducible repeat' (first | assumption | apply finishReset_keeps | refine Keeps.foldl ?_ (fun t a ht => ?_))

theorem finishFence_keeps {queue : List Instr} {s : State} (hk : Keeps queue s) : Keeps queue (finishFence s) := by
  unfold finishFence
  with_reducible repeat' (first | assumption | apply finishLongs_keeps)

theorem boundaryWork_keeps {queue : List Instr} (committed : Bool) {s : State} (hk : Keeps queue s) : Keeps queue (boundaryWork committed
    s) := by
  unfold boundaryWork
  with_reducible repeat' first
      | assumption | apply carryOut_keeps | apply fetchAll_keeps | apply freeGoing_keeps | apply accrueAll_keeps
      | apply endCancelled_keeps | apply finishFence_keeps | apply finishResets_keeps | apply takeLicence_keeps
      | apply thresholdMarks_keeps | apply windowSwap_keeps | apply commitMoves_keeps | refine Keeps.ite ?_ ?_

theorem boundary_keeps {queue : List Instr} (k : BitVec 48) (committed : Bool) {s : State} (hk : Keeps queue s) : Keeps queue (boundary k
    committed s) := by
  unfold boundary
  with_reducible repeat' first
      | assumption | apply boundaryWork_keeps | apply admitAll_keeps | apply modRnd_keeps | apply flushCq_keeps | apply beginRound_keeps
      | apply countHeld_keeps | apply pressure_keeps | refine Keeps.ite ?_ ?_

theorem plannedRepair_keeps {queue : List Instr} (env : RepairEnv) {s : State} (hk : Keeps queue s) : Keeps queue (plannedRepair env s) :=
    by
  unfold plannedRepair
  with_reducible repeat' first
      | assumption | apply retirePlanned_keeps | (simp only [Keeps.mk_iff]; refine Keeps.parts ?_) | (dsimp only) | split

theorem lgrStop_keeps {queue : List Instr} (x : Nat × Nat) {s : State} (hk : Keeps queue s) : Keeps queue (lgrStop x s) := by
  unfold lgrStop
  with_reducible repeat' first
      | assumption | apply stopNotice_keeps | apply stopPattern_keeps | apply markStop_keeps | apply addFault_keeps

theorem endRound_keeps {queue : List Instr} (k : BitVec 48) (env : BoundaryEnv) {s : State} (hk : Keeps queue s) : Keeps queue (endRound k
    env s) := by
  unfold endRound
  with_reducible repeat' first
      | assumption | apply setPace_keeps | apply finishClears_keeps | apply commitRound_keeps | apply flushCq_keeps
      | apply stopAtBoundary_keeps | apply lgrStop_keeps | apply plannedRepair_keeps | apply modeCommit_keeps | apply boundary_keeps
      | refine Keeps.ite ?_ ?_ | (simp only [Keeps.mk_iff]; refine Keeps.parts ?_) | (dsimp only) | split

theorem idleBoundary_keeps {queue : List Instr} {s : State} (hk : Keeps queue s) : Keeps queue (idleBoundary s) := by
  unfold idleBoundary
  with_reducible repeat' first
      | assumption | apply stopAtBoundary_keeps | apply flushCq_keeps | apply lgrStop_keeps | apply boundary_keeps
      | apply modeCommit_keeps | refine Keeps.ite ?_ ?_ | (simp only [Keeps.mk_iff]; refine Keeps.parts ?_) | (dsimp only) | split

theorem idleSnapshot_keeps {queue : List Instr} {s : State} (hk : Keeps queue s) : Keeps queue (idleSnapshot s) := by
  unfold idleSnapshot
  with_reducible repeat' (first | assumption | apply idleBoundary_keeps | apply modPwr_keeps | refine Keeps.ite ?_ ?_)

/-! ## Machine/BindOff.lean -/

theorem fieldDown_keeps {queue : List Instr} {s : State} (hk : Keeps queue s) : Keeps queue (fieldDown s) := by
  unfold fieldDown
  with_reducible repeat' first
      | assumption | apply modLink_keeps | apply drainFabric_keeps | refine Keeps.ite ?_ ?_ | refine Keeps.foldl ?_ (fun t a ht => ?_)
      | (simp only [Keeps.mk_iff]; refine Keeps.parts ?_)

theorem beginBind_keeps {queue : List Instr} (round sess : Nat) {s : State} (hk : Keeps queue s) : Keeps queue (beginBind round sess s) :=
    by
  unfold beginBind
  with_reducible repeat' first
      | assumption | apply modBoot_keeps | apply stopPattern_keeps | apply stopAtBoundary_keeps | refine Keeps.ite ?_ ?_
      | (simp only [Keeps.mk_iff]; refine Keeps.parts ?_)

theorem bindMarks_keeps {queue : List Instr} {s : State} (hk : Keeps queue s) : Keeps queue (bindMarks s) := by
  unfold bindMarks
  with_reducible repeat' first
      | assumption | refine startMark_keeps ?_ (by assumption) | apply modBoot_keeps | refine Keeps.ite ?_ ?_
      | refine Keeps.foldl ?_ (fun t a ht => ?_) | refine Keeps.getD ?_ (fun t e => ?_)

theorem healthWrite_keeps {queue : List Instr} {s : State} (hk : Keeps queue s) : Keeps queue (healthWrite s) := by
  unfold healthWrite
  with_reducible repeat' (first | assumption | (simp only [Keeps.mk_iff]; refine Keeps.parts ?_))

theorem bindEnd_keeps {queue : List Instr} (sess : Nat) {s : State} (hk : Keeps queue s) : Keeps queue (bindEnd sess s) := by
  unfold bindEnd
  with_reducible repeat' first
      | assumption | apply modBoot_keeps | apply healthWrite_keeps | apply fieldDown_keeps | apply finishLongs_keeps

theorem bindGoOn_keeps {queue : List Instr} {s : State} (hk : Keeps queue s) : Keeps queue (bindGoOn s) := by
  unfold bindGoOn
  with_reducible repeat' first
      | assumption | apply finishLongs_keeps | apply modBoot_keeps | apply bindEnd_keeps | apply cancelMark_keeps | apply bindMarks_keeps
      | refine Keeps.ite ?_ ?_ | refine Keeps.foldl ?_ (fun t a ht => ?_) | (dsimp only) | split

theorem whenStopped_keeps {queue : List Instr} {s : State} (hk : Keeps queue s) : Keeps queue (whenStopped s) := by
  unfold whenStopped
  with_reducible repeat' first
      | assumption | apply finishLongs_keeps | apply windowSwap_keeps | apply modeAfterStop_keeps | apply finishClears_keeps

theorem plannedNow_keeps {queue : List Instr} {s : State} (hk : Keeps queue s) : Keeps queue (plannedNow s) := by
  unfold plannedNow
  with_reducible repeat' (first | assumption | apply plannedRepair_keeps | refine Keeps.foldl ?_ (fun t a ht => ?_))

theorem finishRetires_keeps {queue : List Instr} {s : State} (hk : Keeps queue s) : Keeps queue (finishRetires s) := by
  unfold finishRetires
  with_reducible repeat' (first | assumption | apply finishLongs_keeps)

theorem sendInvals_keeps {queue : List Instr} {s : State} (hk : Keeps queue s) : Keeps queue (sendInvals s) := by
  unfold sendInvals
  with_reducible repeat' first
      | assumption | apply modNI_keeps | apply modRnd_keeps | refine Keeps.ite ?_ ?_ | (simp only [Keeps.mk_iff]; refine Keeps.parts ?_)

theorem duties_keeps {queue : List Instr} {s : State} (hk : Keeps queue s) : Keeps queue (duties s) := by
  unfold duties
  with_reducible repeat' first
      | assumption | apply returnSwapped_keeps | apply plannedNow_keeps | apply whenStopped_keeps | apply finishFence_keeps
      | apply finishResets_keeps | apply sendInvals_keeps | apply bindGoOn_keeps | apply finishRetires_keeps | refine Keeps.ite ?_ ?_

end Sys2Proof.Machine
end

