-- ==== Sys2Proof/Laws/KeepsMailbox.lean ====
section
/-! SUPPORT. The operations of registers and mailbox commands keep the canonical form of panel memory and the queue. -/

namespace Sys2Proof.Machine

open Sys2Proof

/-! ## Machine/Registers.lean -/

theorem readWord_keeps {queue : List Instr} (f off : Nat) (byte0 : Bool) {s : State} (hk : Keeps queue s) : Keeps queue (readWord f off
    byte0 s).2 := by
  unfold readWord
  with_reducible repeat' (first | assumption | apply modFn_keeps | split)

theorem readWords_keeps {queue : List Instr} (f off n w : Nat) {s : State} (h : Keeps queue s) :
    Keeps queue (readWords f off n w s).2 := by
  induction n generalizing w s with
  | zero => exact h
  | succ n ih =>
    unfold readWords
    exact ih _ (readWord_keeps _ _ _ h)

theorem access_keeps {queue : List Instr} (f off : Nat) (act : State → State) (ha : ∀ t, Keeps queue t → Keeps queue (act t)) {s : State}
    (hk : Keeps queue s) : Keeps queue (access f off act s) := by
  unfold access
  with_reducible repeat' (first | apply ha | assumption | apply emit_keeps | refine Keeps.ite ?_ ?_)

theorem unsupported_keeps {queue : List Instr} (f off : Nat) {s : State} (hk : Keeps queue s) : Keeps queue (unsupported f off s) := by
  unfold unsupported
  with_reducible repeat' (first | assumption | apply emit_keeps | apply accErr_keeps)

theorem hostRead_keeps {queue : List Instr} (f off len : Nat) {s : State} (hk : Keeps queue s) : Keeps queue (hostRead f off len s) := by
  unfold hostRead
  with_reducible repeat' (first | assumption | apply unsupported_keeps | apply readWords_keeps | apply emit_keeps | refine Keeps.ite ?_ ?_)

/-! ## Machine/MbCore.lean -/

theorem submit_keeps {queue : List Instr} (f : Nat) {s : State} (hk : Keeps queue s) : Keeps queue (submit f s) := by
  unfold submit
  with_reducible repeat' (first | assumption | apply modMb_keeps)

/-! ## Machine/MbInfo.lean -/

theorem answer_keeps {queue : List Instr} (op : Nat) {f : Imm} (q : MbReq) (p : List Byte) {s : State}
    (hf : ∀ t, Keeps queue t → Keeps queue (f q p t).2) (h : Keeps queue s) : Keeps queue (answer op f q p s) := by
  unfold answer
  exact respond_keeps _ _ _ (hf _ h)

theorem checked_keeps {queue : List Instr} (l : List (Bool × Rsp)) {s : State} {act : Rsp × State} (ha : Keeps queue act.2)
    (h : Keeps queue s) : Keeps queue (checked l s act).2 := by
  unfold checked
  split
  · exact h
  · exact ha

theorem licenceInstallImm_keeps {queue : List Instr} (q : MbReq) (p : List Byte) {s : State} (h : Keeps queue s) : Keeps queue
    (licenceInstallImm q p s).2 := by
  unfold licenceInstallImm
  with_reducible repeat' first
      | assumption | apply checked_keeps | apply modBoot_keeps | apply takeLicence_keeps | refine Keeps.ite ?_ ?_
      | (simp only [Keeps.mk_iff]; refine Keeps.parts ?_) | (dsimp only) | split

theorem setTimer_keeps {queue : List Instr} (f t : Nat) (v : Option (BitVec 48)) {s : State} (hk : Keeps queue s) : Keeps queue (setTimer
    f t v s) := by
  unfold setTimer
  with_reducible repeat' (first | assumption | apply modFn_keeps)

theorem timerArmImm_keeps {queue : List Instr} (q : MbReq) (p : List Byte) {s : State} (h : Keeps queue s) : Keeps queue (timerArmImm q p
    s).2 := by
  unfold timerArmImm
  with_reducible repeat' (first | assumption | apply checked_keeps | apply setTimer_keeps | apply event_keeps | refine Keeps.ite ?_ ?_)

theorem flagsClearCmd_keeps {queue : List Instr} (q : MbReq) (p : List Byte) {s : State} (hk : Keeps queue s) : Keeps queue (flagsClearCmd
    q p s) := by
  unfold flagsClearCmd
  with_reducible repeat' (first | assumption | apply hold_keeps | apply respond_keeps | apply clearFlags_keeps | refine Keeps.ite ?_ ?_)

theorem repairPolicyImm_keeps {queue : List Instr} (q : MbReq) (p : List Byte) {s : State} (h : Keeps queue s) : Keeps queue
    (repairPolicyImm q p s).2 := by
  unfold repairPolicyImm
  with_reducible repeat' (first | assumption | apply checked_keeps | (simp only [Keeps.mk_iff]; refine Keeps.parts ?_))

theorem scrubSetImm_keeps {queue : List Instr} (q : MbReq) (p : List Byte) {s : State} (h : Keeps queue s) : Keeps queue (scrubSetImm q p
    s).2 := by
  unfold scrubSetImm
  with_reducible repeat' first
      | assumption | apply checked_keeps | apply saveStackMap_keeps | apply modStack_keeps | refine Keeps.ite ?_ ?_
      | (simp only [Keeps.mk_iff]; refine Keeps.parts ?_)

theorem firmwareStageImm_keeps {queue : List Instr} (q : MbReq) (p : List Byte) {s : State} (h : Keeps queue s) : Keeps queue
    (firmwareStageImm q p s).2 := by
  unfold firmwareStageImm
  with_reducible repeat' (first | assumption | (simp only [Keeps.mk_iff]; refine Keeps.parts ?_) | (dsimp only) | split)

theorem firmwareActivateImm_keeps {queue : List Instr} (q : MbReq) (p : List Byte) {s : State} (h : Keeps queue s) : Keeps queue
    (firmwareActivateImm q p s).2 := by
  unfold firmwareActivateImm
  with_reducible repeat' first
      | assumption | apply checked_keeps | apply modBoot_keeps | refine Keeps.ite ?_ ?_
      | (simp only [Keeps.mk_iff]; refine Keeps.parts ?_) | (dsimp only) | split

/-! ## Machine/Cooling.lean -/

theorem modThm_keeps {queue : List Instr} (g : Thermal → Thermal) {s : State} (hk : Keeps queue s) : Keeps queue (modThm g s) := by
  unfold modThm
  with_reducible repeat' (first | assumption | (simp only [Keeps.mk_iff]; refine Keeps.parts ?_))

theorem setCaps_keeps {queue : List Instr} {s : State} (hk : Keeps queue s) : Keeps queue (setCaps s) := by
  unfold setCaps
  with_reducible repeat' first
      | assumption | apply modThm_keeps | refine Keeps.ite ?_ ?_ | (simp only [Keeps.mk_iff]; refine Keeps.parts ?_)

theorem reportCap_keeps {queue : List Instr} {s : State} (hk : Keeps queue s) : Keeps queue (reportCap s) := by
  unfold reportCap
  with_reducible repeat' (first | assumption | apply eventPf_keeps | apply modPwr_keeps | refine Keeps.ite ?_ ?_)

theorem setHostCap_keeps {queue : List Instr} (cap : Nat) {s : State} (hk : Keeps queue s) : Keeps queue (setHostCap cap s) := by
  unfold setHostCap
  with_reducible repeat' (first | assumption | apply reportCap_keeps | apply modPwr_keeps)

theorem coolantReport_keeps {queue : List Instr} (tmem tcmp : W16) {s : State} (hk : Keeps queue s) : Keeps queue (coolantReport tmem tcmp
    s) := by
  unfold coolantReport
  with_reducible repeat' (first | assumption | apply reportCap_keeps | apply setCaps_keeps | apply modThm_keeps)

/-! ## Machine/LinkEvents.lean -/

theorem runLadder_keeps {queue : List Instr} (die port first : Nat) (env : LadderEnv) (rep : RepairEnv) {s : State} (hk : Keeps queue s)
    : Keeps queue (runLadder die port first env rep s) := by
  unfold runLadder
  with_reducible repeat' first
      | assumption | apply climb_keeps | apply linkFreeze_keeps | apply linkFailed_keeps | apply afterLinkChange_keeps
      | apply linkRelease_keeps | refine Keeps.ite ?_ ?_

theorem replayOr_keeps {queue : List Instr} (die port : Nat) (q : BitVec 12) (env : LadderEnv) (rep : RepairEnv) {s : State} (hk : Keeps
    queue s) : Keeps queue (replayOr die port q env rep s) := by
  unfold replayOr
  with_reducible repeat' (first | assumption | apply runLadder_keeps | apply modTx_keeps | refine Keeps.ite ?_ ?_)

theorem axustReceive_keeps {queue : List Instr} (die port : Nat) (b : BitVec 256) (payload : List Byte) (env : LadderEnv) (rep :
    RepairEnv) {s : State} (hk : Keeps queue s) : Keeps queue (axustReceive die port b payload env rep s) := by
  unfold axustReceive
  with_reducible repeat' first
      | assumption | apply modRx_keeps | apply takeFrame_keeps | apply replayOr_keeps | refine Keeps.ite ?_ ?_

theorem replayTimeout_keeps {queue : List Instr} (die port : Nat) (q : BitVec 12) (env : LadderEnv) (rep : RepairEnv) {s : State} (hk :
    Keeps queue s) : Keeps queue (replayTimeout die port q env rep s) := by
  unfold replayTimeout
  with_reducible repeat' first
      | assumption | apply replayOr_keeps | apply dirCount_keeps | refine Keeps.ite ?_ ?_
      | (simp only [Keeps.mk_iff]; refine Keeps.parts ?_) | split

theorem linkFault_keeps {queue : List Instr} (die port : Nat) (env : LadderEnv) (rep : RepairEnv) {s : State} (hk : Keeps queue s) : Keeps
    queue (linkFault die port env rep s) := by
  unfold linkFault
  with_reducible repeat' (first | assumption | apply runLadder_keeps | split)

theorem rawReceive_keeps {queue : List Instr} (die port : Nat) (b : List Byte) {s : State} (hk : Keeps queue s) : Keeps queue
    (rawReceive die port b s) := by
  unfold rawReceive
  with_reducible repeat' first
      | assumption | apply acceptSet_keeps | apply modRx_keeps | apply addFault_keeps | apply chargeFault_keeps | apply abortRound_keeps
      | apply modLink_keeps | refine Keeps.ite ?_ ?_ | (simp only [Keeps.mk_iff]; refine Keeps.parts ?_) | (dsimp only) | split

theorem retrainRequest_keeps {queue : List Instr} (die port : Nat) (kind : SideReq) (own : Option SideReq) (env : LadderEnv) (rep :
    RepairEnv) {s : State} (hk : Keeps queue s) : Keeps queue (retrainRequest die port kind own env rep s) := by
  unfold retrainRequest
  with_reducible repeat' first
      | assumption | apply modLink_keeps | apply runLadder_keeps | refine Keeps.ite ?_ ?_

/-! ## Machine/MbHealth.lean -/

theorem powerCapImm_keeps {queue : List Instr} (q : MbReq) (p : List Byte) {s : State} (h : Keeps queue s) : Keeps queue (powerCapImm q p
    s).2 := by
  unfold powerCapImm
  with_reducible repeat' (first | assumption | apply setHostCap_keeps)

theorem powerReadImm_keeps {queue : List Instr} (q : MbReq) (p : List Byte) {s : State} (h : Keeps queue s) : Keeps queue (powerReadImm q
    p s).2 := by
  unfold powerReadImm
  with_reducible repeat' (first | assumption | (simp only [Keeps.mk_iff]; refine Keeps.parts ?_))

theorem coolantImm_keeps {queue : List Instr} (q : MbReq) (p : List Byte) {s : State} (h : Keeps queue s) : Keeps queue (coolantImm q p
    s).2 := by
  unfold coolantImm
  with_reducible repeat' (first | assumption | apply coolantReport_keeps)

theorem healthReadImm_keeps {queue : List Instr} (q : MbReq) (p : List Byte) {s : State} (h : Keeps queue s) : Keeps queue (healthReadImm
    q p s).2 := by
  unfold healthReadImm
  with_reducible repeat' (first | assumption | apply checked_keeps | apply modDies_keeps)

theorem fullTrain_keeps {queue : List Instr} (env : LadderEnv) (d p : Nat) {s : State} (hk : Keeps queue s) : Keeps queue (fullTrain env
    d p s) := by
  unfold fullTrain
  with_reducible repeat' first
      | assumption | apply noteDepths_keeps | apply modLink_keeps | apply linkFailed_keeps | apply afterLinkChange_keeps
      | refine Keeps.ite ?_ ?_

theorem linkRetrainImm_keeps {queue : List Instr} (q : MbReq) (p : List Byte) {s : State} (h : Keeps queue s) : Keeps queue
    (linkRetrainImm q p s).2 := by
  unfold linkRetrainImm
  with_reducible repeat' first
      | assumption | apply checked_keeps | apply runLadder_keeps | apply fullTrain_keeps | apply modLink_keeps
      | refine Keeps.ite ?_ ?_ | (dsimp only) | split

/-! ## Machine/MbPattern.lean -/

theorem patternStageImm_keeps {queue : List Instr} (q : MbReq) (p : List Byte) {s : State} (h : Keeps queue s) : Keeps queue
    (patternStageImm q p s).2 := by
  unfold patternStageImm
  with_reducible repeat' (first | assumption | apply modPat_keeps | refine Keeps.ite ?_ ?_ | (dsimp only) | split)

theorem patternCommitImm_keeps {queue : List Instr} (q : MbReq) (p : List Byte) {s : State} (h : Keeps queue s) : Keeps queue
    (patternCommitImm q p s).2 := by
  unfold patternCommitImm
  with_reducible repeat' (first | assumption | apply modPat_keeps | (dsimp only) | split)

theorem loadAndStart_keeps {queue : List Instr} (b : List Byte) {s : State} (hk : Keeps queue s) : Keeps queue (loadAndStart b s) := by
  unfold loadAndStart
  with_reducible repeat' first
      | assumption | apply drainFabric_keeps | apply boundary_keeps | apply afterLinkChange_keeps | apply loadAll_keeps
      | apply writeResident_keeps | apply fieldFresh_keeps | (simp only [Keeps.mk_iff]; refine Keeps.parts ?_)

theorem retrainSaved_keeps {queue : List Instr} (d p : Nat) {s : State} (hk : Keeps queue s) : Keeps queue (retrainSaved d p s) := by
  unfold retrainSaved
  with_reducible repeat' (first | assumption | apply modLink_keeps)

theorem retireFailed_keeps {queue : List Instr} (d : Nat) {s : State} (hk : Keeps queue s) : Keeps queue (retireFailed d s) := by
  unfold retireFailed
  with_reducible repeat' first
      | assumption | apply markRetired_keeps | apply addFault_keeps | apply disableLinks_keeps | apply setSkip_keeps
      | refine Keeps.ite ?_ ?_

theorem rejoin_keeps {queue : List Instr} (d : Nat) {s : State} (hk : Keeps queue s) : Keeps queue (rejoin d s) := by
  unfold rejoin
  with_reducible repeat' first
      | assumption | apply closeHeaders_keeps | apply modDie_keeps

theorem fieldBack_keeps {queue : List Instr} (bad : List Nat) {s : State} (hk : Keeps queue s) : Keeps queue (fieldBack bad s).2 := by
  unfold fieldBack
  with_reducible repeat' first
      | assumption | apply retireFailed_keeps | apply modBoot_keeps | apply rejoin_keeps | apply retrainSaved_keeps
      | refine Keeps.ite ?_ ?_ | refine Keeps.foldl ?_ (fun t a ht => ?_) | (simp only [Keeps.mk_iff]; refine Keeps.parts ?_)
      | (dsimp only) | split

theorem startMode_keeps {queue : List Instr} (bound : Bool) {s : State} (hk : Keeps queue s) : Keeps queue (startMode bound s) := by
  unfold startMode
  with_reducible repeat' (first | assumption | apply forceLean_keeps | refine Keeps.ite ?_ ?_)

theorem patternStartImm_keeps {queue : List Instr} (q : MbReq) (p : List Byte) {s : State} (h : Keeps queue s) : Keeps queue
    (patternStartImm q p s).2 := by
  unfold patternStartImm
  with_reducible repeat' first
      | assumption | apply startMode_keeps | apply fieldBack_keeps | apply loadAndStart_keeps | apply drainFabric_keeps | (dsimp only)
      | split

theorem patternStopCmd_keeps {queue : List Instr} (q : MbReq) (p : List Byte) {s : State} (hk : Keeps queue s) : Keeps queue
    (patternStopCmd q p s) := by
  unfold patternStopCmd
  with_reducible repeat' first
      | assumption | apply respond_keeps | apply hold_keeps | apply stopPattern_keeps | apply modPat_keeps | apply stopAtBoundary_keeps
      | refine Keeps.ite ?_ ?_

theorem intakeOpenImm_keeps {queue : List Instr} (q : MbReq) (p : List Byte) {s : State} (h : Keeps queue s) : Keeps queue (intakeOpenImm
    q p s).2 := by
  unfold intakeOpenImm
  with_reducible repeat' (first | assumption | apply checked_keeps | (simp only [Keeps.mk_iff]; refine Keeps.parts ?_))

theorem intakeCloseImm_keeps {queue : List Instr} (q : MbReq) (p : List Byte) {s : State} (h : Keeps queue s) : Keeps queue
    (intakeCloseImm q p s).2 := by
  unfold intakeCloseImm
  with_reducible repeat' (first | assumption | (simp only [Keeps.mk_iff]; refine Keeps.parts ?_) | split)

/-! ## Machine/MbSets.lean -/

theorem setWriteImm_keeps {queue : List Instr} (q : MbReq) (p : List Byte) {s : State} (h : Keeps queue s) : Keeps queue (setWriteImm q p
    s).2 := by
  unfold setWriteImm
  with_reducible repeat' first
      | assumption | apply checked_keeps | apply modDies_keeps | apply copySets_keeps | (dsimp only) | split

theorem armSwap_keeps {queue : List Instr} (q : MbReq) (op : LongOp) (w : Swap) {s : State} (hk : Keeps queue s) : Keeps queue (armSwap q
    op w s) := by
  unfold armSwap
  with_reducible repeat' first
      | assumption | apply hold_keeps | apply refuseSwap_keeps | refine Keeps.ite ?_ ?_
      | (simp only [Keeps.mk_iff]; refine Keeps.parts ?_)

theorem setSwapCmd_keeps {queue : List Instr} (q : MbReq) (p : List Byte) {s0 : State} (hk : Keeps queue s0) : Keeps queue (setSwapCmd q
    p s0) := by
  unfold setSwapCmd
  with_reducible repeat' first
      | assumption | apply copySets_keeps | apply respond_keeps | apply armSwap_keeps | refine Keeps.ite ?_ ?_

theorem modeSetCmd_keeps {queue : List Instr} (q : MbReq) (p : List Byte) {s0 : State} (hk : Keeps queue s0) : Keeps queue (modeSetCmd q
    p s0) := by
  unfold modeSetCmd
  with_reducible repeat' first
      | assumption | apply copySets_keeps | apply respond_keeps | apply armSwap_keeps | apply modDies_keeps | refine Keeps.ite ?_ ?_
      | (simp only [Keeps.mk_iff]; refine Keeps.parts ?_) | (dsimp only) | split

/-! ## Machine/MbTenant.lean -/

theorem applyParts_keeps {queue : List Instr} (c : TenantCfg) {s : State} (hk : Keeps queue s) : Keeps queue (applyParts c s) := by
  unfold applyParts
  with_reducible repeat' (first | assumption | apply modTen_keeps)

theorem tenantConfigureCmd_keeps {queue : List Instr} (q : MbReq) (p : List Byte) {s : State} (hk : Keeps queue s) : Keeps queue
    (tenantConfigureCmd q p s) := by
  unfold tenantConfigureCmd
  with_reducible repeat' first
      | assumption | apply respond_keeps | apply armSwap_keeps | apply applyParts_keeps | apply modTen_keeps | refine Keeps.ite ?_ ?_
      | (dsimp only) | split

theorem beginReset_keeps {queue : List Instr} (t : Nat) {s : State} (hk : Keeps queue s) : Keeps queue (beginReset t s) := by
  unfold beginReset
  with_reducible repeat' (first | assumption | apply modTen_keeps | refine Keeps.ite ?_ ?_)

theorem tenantResetCmd_keeps {queue : List Instr} (q : MbReq) (p : List Byte) {s : State} (hk : Keeps queue s) : Keeps queue
    (tenantResetCmd q p s) := by
  unfold tenantResetCmd
  with_reducible repeat' (first | assumption | apply respond_keeps | apply beginReset_keeps | apply hold_keeps | refine Keeps.ite ?_ ?_)

theorem shaperSetImm_keeps {queue : List Instr} (q : MbReq) (p : List Byte) {s : State} (h : Keeps queue s) : Keeps queue (shaperSetImm q
    p s).2 := by
  unfold shaperSetImm
  with_reducible repeat' (first | assumption | apply applyShaper_keeps | apply checked_keeps)

/-! ## Machine/MbSession.lean -/

theorem sessionExportImm_keeps {queue : List Instr} (q : MbReq) (p : List Byte) {s : State} (h : Keeps queue s) : Keeps queue
    (sessionExportImm q p s).2 := by
  unfold sessionExportImm
  with_reducible repeat' (first | assumption | (simp only [Keeps.mk_iff]; refine Keeps.parts ?_) | (dsimp only) | split)

theorem importSession_keeps {queue : List Instr} (q : MbReq) (t : Nat) (b : List Byte) {s : State} (hk : Keeps queue s) : Keeps queue
    (importSession q t b s) := by
  unfold importSession
  with_reducible repeat' first
      | assumption | refine takeIndex_keeps ?_ (by assumption) | apply respond_keeps | apply putSess_keeps | apply modRnd_keeps
      | apply hold_keeps | apply tailImport_keeps | apply layPages_keeps | refine growTo_keeps ?_ (by assumption) | refine Keeps.ite ?_ ?_
      | refine Keeps.getD ?_ (fun t e => ?_) | (dsimp only) | split

theorem sessionImportCmd_keeps {queue : List Instr} (q : MbReq) (p : List Byte) {s : State} (hk : Keeps queue s) : Keeps queue
    (sessionImportCmd q p s) := by
  unfold sessionImportCmd
  with_reducible repeat' first
      | assumption | apply respond_keeps | apply importSession_keeps | refine Keeps.ite ?_ ?_ | (dsimp only) | split

theorem roundFenceCmd_keeps {queue : List Instr} (q : MbReq) (p : List Byte) {s : State} (hk : Keeps queue s) : Keeps queue (roundFenceCmd
    q p s) := by
  unfold roundFenceCmd
  with_reducible repeat' first
      | assumption | apply respond_keeps | apply hold_keeps | apply modRnd_keeps | refine Keeps.ite ?_ ?_ | (dsimp only) | split

/-! ## Machine/MbReset.lean -/

theorem siteRetireCmd_keeps {queue : List Instr} (q : MbReq) (p : List Byte) {s : State} (hk : Keeps queue s) : Keeps queue
    (siteRetireCmd q p s) := by
  unfold siteRetireCmd
  with_reducible repeat' first
      | assumption | apply respond_keeps | apply disableLinks_keeps | apply markRetired_keeps | apply hold_keeps | apply plan_keeps
      | refine Keeps.ite ?_ ?_

theorem fabricReset_keeps {queue : List Instr} {s : State} (hk : Keeps queue s) : Keeps queue (fabricReset s) := by
  unfold fabricReset
  with_reducible repeat' first
      | assumption | apply stopPattern_keeps | apply drainFabric_keeps | apply modBoot_keeps
      | (simp only [Keeps.mk_iff]; refine Keeps.parts ?_)

theorem resetFabricCmd_keeps {queue : List Instr} (q : MbReq) (x0 : List Byte) {s : State} (hk : Keeps queue s) : Keeps queue
    (resetFabricCmd q x0 s) := by
  unfold resetFabricCmd
  with_reducible repeat' (first | assumption | apply fabricReset_keeps | apply respond_keeps)

theorem resetWarmCmd_keeps {queue : List Instr} (q : MbReq) (x0 : List Byte) {s : State} (hk : Keeps queue s) : Keeps queue (resetWarmCmd
    q x0 s) := by
  unfold resetWarmCmd
  with_reducible repeat' first
      | assumption | apply respond_keeps | apply modBoot_keeps | (simp only [Keeps.mk_iff]; refine Keeps.parts ?_)

theorem bindOffCmd_keeps {queue : List Instr} (q : MbReq) (p : List Byte) {s : State} (hk : Keeps queue s) : Keeps queue (bindOffCmd q p
    s) := by
  unfold bindOffCmd
  with_reducible repeat' (first | assumption | apply respond_keeps | apply beginBind_keeps | apply hold_keeps | refine Keeps.ite ?_ ?_)

/-! ## Machine/Mailbox.lean -/

theorem runBody_keeps {queue : List Instr} (op : Nat) (q : MbReq) (p : List Byte) {s : State} (h : Keeps queue s) :
    Keeps queue (runBody op q p s) := by
  have read : ∀ (o : Nat) (f : MbReq → List Byte → State → Rsp), Keeps queue (answer o (reads f) q p s) :=
    fun o f => answer_keeps o q p (fun t ht => ht) h
  unfold runBody
  split
  all_goals first
    | with_reducible exact read _ _
    | with_reducible exact patternStopCmd_keeps _ _ h
    | with_reducible exact setSwapCmd_keeps _ _ h
    | with_reducible exact modeSetCmd_keeps _ _ h
    | with_reducible exact siteRetireCmd_keeps _ _ h
    | with_reducible exact flagsClearCmd_keeps _ _ h
    | with_reducible exact tenantConfigureCmd_keeps _ _ h
    | with_reducible exact tenantResetCmd_keeps _ _ h
    | with_reducible exact sessionImportCmd_keeps _ _ h
    | with_reducible exact roundFenceCmd_keeps _ _ h
    | with_reducible exact resetFabricCmd_keeps _ _ h
    | with_reducible exact resetWarmCmd_keeps _ _ h
    | with_reducible exact bindOffCmd_keeps _ _ h
    | with_reducible exact answer_keeps (f := licenceInstallImm) _ _ _ (fun t ht => licenceInstallImm_keeps _ _ ht) h
    | with_reducible exact answer_keeps (f := patternStageImm) _ _ _ (fun t ht => patternStageImm_keeps _ _ ht) h
    | with_reducible exact answer_keeps (f := patternCommitImm) _ _ _ (fun t ht => patternCommitImm_keeps _ _ ht) h
    | with_reducible exact answer_keeps (f := patternStartImm) _ _ _ (fun t ht => patternStartImm_keeps _ _ ht) h
    | with_reducible exact answer_keeps (f := intakeOpenImm) _ _ _ (fun t ht => intakeOpenImm_keeps _ _ ht) h
    | with_reducible exact answer_keeps (f := intakeCloseImm) _ _ _ (fun t ht => intakeCloseImm_keeps _ _ ht) h
    | with_reducible exact answer_keeps (f := setWriteImm) _ _ _ (fun t ht => setWriteImm_keeps _ _ ht) h
    | with_reducible exact answer_keeps (f := powerCapImm) _ _ _ (fun t ht => powerCapImm_keeps _ _ ht) h
    | with_reducible exact answer_keeps (f := powerReadImm) _ _ _ (fun t ht => powerReadImm_keeps _ _ ht) h
    | with_reducible exact answer_keeps (f := coolantImm) _ _ _ (fun t ht => coolantImm_keeps _ _ ht) h
    | with_reducible exact answer_keeps (f := healthReadImm) _ _ _ (fun t ht => healthReadImm_keeps _ _ ht) h
    | with_reducible exact answer_keeps (f := repairPolicyImm) _ _ _ (fun t ht => repairPolicyImm_keeps _ _ ht) h
    | with_reducible exact answer_keeps (f := shaperSetImm) _ _ _ (fun t ht => shaperSetImm_keeps _ _ ht) h
    | with_reducible exact answer_keeps (f := sessionExportImm) _ _ _ (fun t ht => sessionExportImm_keeps _ _ ht) h
    | with_reducible exact answer_keeps (f := timerArmImm) _ _ _ (fun t ht => timerArmImm_keeps _ _ ht) h
    | with_reducible exact answer_keeps (f := linkRetrainImm) _ _ _ (fun t ht => linkRetrainImm_keeps _ _ ht) h
    | with_reducible exact answer_keeps (f := scrubSetImm) _ _ _ (fun t ht => scrubSetImm_keeps _ _ ht) h
    | with_reducible exact answer_keeps (f := firmwareStageImm) _ _ _ (fun t ht => firmwareStageImm_keeps _ _ ht) h
    | with_reducible exact answer_keeps (f := firmwareActivateImm) _ _ _ (fun t ht => firmwareActivateImm_keeps _ _ ht) h
    | exact respond_keeps _ _ _ h

theorem backlog_keeps {queue : List Instr} (wait : Nat) {s : State} (hk : Keeps queue s) : Keeps queue (backlog wait s) := by
  unfold backlog
  with_reducible repeat' (first | assumption | (simp only [Keeps.mk_iff]; refine Keeps.parts ?_))

theorem takeUp_keeps {queue : List Instr} (op : Nat) (q : MbReq) (p : List Byte) {s : State} (hk : Keeps queue s) : Keeps queue (takeUp op
    q p s) := by
  unfold takeUp
  with_reducible repeat' first
      | assumption | apply backlog_keeps | apply modMb_keeps | apply respond_keeps | apply runBody_keeps
      | (simp only [Keeps.mk_iff]; refine Keeps.parts ?_) | (dsimp only) | split

theorem takeNext_keeps {queue : List Instr} (env : MbEnv) {s : State} (hk : Keeps queue s) : Keeps queue (takeNext env s) := by
  unfold takeNext
  with_reducible repeat' (first | assumption | apply takeUp_keeps | (dsimp only) | split)

theorem request_keeps {queue : List Instr} (op : Nat) (q : MbReq) (l : List (Nat × List Byte)) {s : State} (hk : Keeps queue s) : Keeps
    queue (request op q l s) := by
  unfold request
  with_reducible repeat' first
      | assumption | apply duties_keeps | apply access_keeps | apply accErr_keeps | apply submit_keeps | apply modMb_keeps
      | apply takeUp_keeps | refine Keeps.ite ?_ ?_ | intro t ht

end Sys2Proof.Machine
end

