-- ==== Sys2Proof/Laws/KeepsEvents.lean ====
section
/-! SUPPORT. The operations of the events keep the canonical form of panel memory and the queue. -/

namespace Sys2Proof.Machine

open Sys2Proof

/-! ## Machine/HostEvents.lean -/

theorem ringBell_keeps {queue : List Instr} (f i : Nat) (tail head : Option W16) {s : State} (hk : Keeps queue s) : Keeps queue (ringBell
    f i tail head s) := by
  unfold ringBell
  with_reducible repeat' (first | assumption | apply fnCount_keeps | apply doorbell_keeps | refine Keeps.ite ?_ ?_)

theorem ringPost_keeps {queue : List Instr} (r : RingRef) (op : Nat) (d : Desc) {s : State} (hk : Keeps queue s) : Keeps queue (ringPost r
    op d s) := by
  unfold ringPost
  with_reducible repeat' first
      | assumption | apply duties_keeps | apply access_keeps | apply fnCount_keeps | apply ringBell_keeps
      | apply modRing_keeps | refine Keeps.ite ?_ ?_ | intro t ht

theorem tokensArrive_keeps {queue : List Instr} (t : Nat) (tag : W64) (l : List W32) {s : State} (hk : Keeps queue s) : Keeps queue
    (tokensArrive t tag l s) := by
  unfold tokensArrive
  with_reducible repeat' (first | assumption | apply modReq_keeps | split)

theorem tokensFail_keeps {queue : List Instr} (t : Nat) (tag : W64) {s : State} (hk : Keeps queue s) : Keeps queue (tokensFail t tag s) :=
    by
  unfold tokensFail
  with_reducible repeat' (first | assumption | apply modReq_keeps | (dsimp only) | split)

theorem hostReadFailed_keeps {queue : List Instr} (r : HostRead) {s : State} (hk : Keeps queue s) : Keeps queue (hostReadFailed r s) := by
  unfold hostReadFailed
  with_reducible repeat' first
      | assumption | apply stopRing_keeps | apply tokensFail_keeps | apply takeUp_keeps | refine Keeps.ite ?_ ?_ | (dsimp only) | split

theorem releaseRing_keeps {queue : List Instr} (t i : Nat) {s : State} (hk : Keeps queue s) : Keeps queue (releaseRing t i s) := by
  unfold releaseRing
  with_reducible repeat' (first | assumption | apply emit_keeps | apply modRing_keeps | refine Keeps.foldl ?_ (fun t a ht => ?_))

theorem releaseHeld_keeps {queue : List Instr} (f : Nat) {s : State} (hk : Keeps queue s) : Keeps queue (releaseHeld f s) := by
  unfold releaseHeld
  with_reducible repeat' first
      | assumption | apply releaseRing_keeps | apply sendVec_keeps | apply modFn_keeps | refine Keeps.ite ?_ ?_
      | refine Keeps.foldl ?_ (fun t a ht => ?_)

theorem busMaster_keeps {queue : List Instr} (f : Nat) (en : Bool) {s : State} (hk : Keeps queue s) : Keeps queue (busMaster f en s) := by
  unfold busMaster
  with_reducible repeat' (first | assumption | apply modFn_keeps | apply releaseHeld_keeps | refine Keeps.ite ?_ ?_)

theorem writeMsix_keeps {queue : List Instr} (f i : Nat) (v : W32) {s : State} (hk : Keeps queue s) : Keeps queue (writeMsix f i v s) := by
  unfold writeMsix
  with_reducible repeat' (first | assumption | apply modFn_keeps | apply sendVec_keeps | refine Keeps.ite ?_ ?_)

theorem writeMb_keeps {queue : List Instr} (f o : Nat) (v : W32) {s : State} (hk : Keeps queue s) : Keeps queue (writeMb f o v s) := by
  unfold writeMb
  with_reducible repeat' (first | assumption | apply accErr_keeps | apply modMb_keeps | apply submit_keeps | refine Keeps.ite ?_ ?_)

theorem writeWord_keeps {queue : List Instr} (f off : Nat) (v : W32) {s : State} (hk : Keeps queue s) : Keeps queue (writeWord f off v s)
    := by
  unfold writeWord
  with_reducible repeat' first
      | assumption | apply writeMb_keeps | apply ringBell_keeps | apply modFn_keeps | apply writeMsix_keeps | refine Keeps.ite ?_ ?_

theorem writeWords_keeps {queue : List Instr} (f off : Nat) (l : List (List (Option Byte))) {s : State} (h : Keeps queue s) :
    Keeps queue (writeWords f off l s) := by
  induction l generalizing off s with
  | nil => exact h
  | cons w l ih =>
    unfold writeWords
    with_reducible repeat' (first | apply ih | assumption | apply writeWord_keeps | apply accErr_keeps | refine Keeps.ite ?_ ?_ | split)

theorem hostWrite_keeps {queue : List Instr} (f off : Nat) (data : List (Option Byte)) {s : State} (hk : Keeps queue s) : Keeps queue
    (hostWrite f off data s) := by
  unfold hostWrite
  with_reducible repeat' (first | assumption | apply ringBell_keeps | apply writeWords_keeps | refine Keeps.ite ?_ ?_)

theorem resetFn_keeps {queue : List Instr} (f : Nat) {s : State} (hk : Keeps queue s) : Keeps queue (resetFn f s) := by
  unfold resetFn
  with_reducible repeat' (first | assumption | apply modMb_keeps | apply modFn_keeps | (dsimp only) | split)

theorem resetTenantFn_keeps {queue : List Instr} (f : Nat) {s : State} (hk : Keeps queue s) : Keeps queue (resetTenantFn f s) := by
  unfold resetTenantFn
  with_reducible repeat' (first | assumption | apply beginReset_keeps | apply modTen_keeps | apply resetFn_keeps)

theorem disableVfs_keeps {queue : List Instr} {s : State} (hk : Keeps queue s) : Keeps queue (disableVfs s) := by
  unfold disableVfs
  with_reducible repeat' first
      | assumption | apply resetTenantFn_keeps | refine Keeps.foldl ?_ (fun t a ht => ?_)
      | (simp only [Keeps.mk_iff]; refine Keeps.parts ?_)

theorem portReset_keeps {queue : List Instr} (p : Nat) (kind : PortReset) {s : State} (hk : Keeps queue s) : Keeps queue (portReset p kind
    s) := by
  unfold portReset
  with_reducible repeat' first
      | assumption | apply resetTenantFn_keeps | apply disableVfs_keeps | apply resetFn_keeps | refine Keeps.ite ?_ ?_
      | (simp only [Keeps.mk_iff]; refine Keeps.parts ?_)

theorem vfReset_keeps {queue : List Instr} (f : Nat) {s : State} (hk : Keeps queue s) : Keeps queue (vfReset f s) := by
  unfold vfReset
  with_reducible repeat' (first | assumption | apply resetTenantFn_keeps | refine Keeps.ite ?_ ?_)

theorem vfEnable_keeps {queue : List Instr} (en : Bool) (n : Nat) {s : State} (hk : Keeps queue s) : Keeps queue (vfEnable en n s) := by
  unfold vfEnable
  with_reducible repeat' first
      | assumption | apply disableVfs_keeps | refine Keeps.ite ?_ ?_ | (simp only [Keeps.mk_iff]; refine Keeps.parts ?_)

/-! ## Machine/Aperture.lean -/

theorem aperturePart_keeps {queue : List Instr} (u o : Nat) (part : List Byte) {s : State} (hk : Keeps queue s) : Keeps queue
    (aperturePart u o part s) := by
  unfold aperturePart
  with_reducible repeat' first
      | assumption | apply writeAfter_keeps | refine Keeps.ite ?_ ?_ | (simp only [Keeps.mk_iff]; refine Keeps.parts ?_) | (dsimp only)
      | split

theorem apertureStore_keeps {queue : List Instr} (off : Nat) (data : List Byte) {s : State} (hk : Keeps queue s) : Keeps queue
    (apertureStore off data s) := by
  unfold apertureStore
  with_reducible repeat' (first | assumption | apply aperturePart_keeps | refine Keeps.foldl ?_ (fun t a ht => ?_))

theorem apertureTouch_keeps {queue : List Instr} (a : Nat) {s : State} (hk : Keeps queue s) : Keeps queue (apertureTouch a s) := by
  unfold apertureTouch
  with_reducible repeat' (first | assumption | apply notePoison_keeps | apply countRead_keeps)

theorem apertureLoad_keeps {queue : List Instr} (off len : Nat) {s : State} (hk : Keeps queue s) : Keeps queue (apertureLoad off len s) :=
    by
  unfold apertureLoad
  with_reducible repeat' (first | assumption | apply apertureTouch_keeps | apply emit_keeps | refine Keeps.foldl ?_ (fun t a ht => ?_))

/-! ## Machine/CastOn.lean -/

theorem powerOn_keeps {queue : List Instr} {s : State} (h : Keeps queue s) : Keeps queue (powerOn s) := ⟨rfl, h.2⟩

/-- Panel memory that is kept or emptied. -/
theorem keeps_memOr {queue : List Instr} {s : State} {c : Prop} [Decidable c] (h : Keeps queue s) :
    Memory.wf (if c then s.pmem.data else []) ∧ s.pending = queue :=
  ⟨by split; exact h.1; rfl, h.2⟩

theorem warmBase_keeps {queue : List Instr} {s : State} (h : Keeps queue s) : Keeps queue (warmBase s) := ⟨h.1, h.2⟩

theorem noteFail_keeps {queue : List Instr} (why die : Nat) {s : State} (hk : Keeps queue s) : Keeps queue (noteFail why die s) := by
  unfold noteFail
  with_reducible repeat' (first | assumption | apply modBoot_keeps)

theorem castFail_keeps {queue : List Instr} (why die : Nat) {s : State} (hk : Keeps queue s) : Keeps queue (castFail why die s) := by
  unfold castFail
  with_reducible repeat' first
      | assumption | apply modBoot_keeps | apply noteFail_keeps | apply logPush_keeps | refine Keeps.ite ?_ ?_
      | (simp only [Keeps.mk_iff]; refine Keeps.parts ?_)

theorem runStages_keeps {queue : List Instr} (l : List (Nat × (State → State × Option CastFail)))
    (hl : ∀ f ∈ l, ∀ t, Keeps queue t → Keeps queue (f.2 t).1) {s : State} (h : Keeps queue s) : Keeps queue (runStages l s) := by
  induction l generalizing s with
  | nil => exact h
  | cons f l ih =>
    have hf := hl f (by simp) _ (modBoot_keeps (fun b => { b with phase := f.1 }) h)
    unfold runStages
    dsimp only
    split
    · exact castFail_keeps _ _ hf
    · exact ih (fun g hg => hl g (by simp [hg])) hf

theorem co1_keeps {queue : List Instr} (env : CastOnEnv) {s : State} (hk : Keeps queue s) : Keeps queue (co1 env s).1 := by
  unfold co1
  with_reducible repeat' first
      | assumption | apply modBoot_keeps | refine Keeps.ite ?_ ?_ | (simp only [Keeps.mk_iff]; refine Keeps.parts ?_)

theorem castLink_keeps {queue : List Instr} (env : CastOnEnv) (fast : Bool) (d p : Nat) {s : State} (hk : Keeps queue s) : Keeps queue
    (castLink env fast d p s) := by
  unfold castLink
  with_reducible repeat' (first | assumption | apply modLink_keeps)

theorem co2_keeps {queue : List Instr} (env : CastOnEnv) (fast : Bool) {s : State} (hk : Keeps queue s) : Keeps queue (co2 env fast s).1
    := by
  unfold co2
  with_reducible repeat' (first | assumption | apply castLink_keeps | refine Keeps.foldl ?_ (fun t a ht => ?_))

theorem co3_keeps {queue : List Instr} (env : CastOnEnv) (fast : Bool) {s : State} (hk : Keeps queue s) : Keeps queue (co3 env fast s).1
    := by
  unfold co3
  with_reducible repeat' first
      | assumption | apply reforest_keeps | apply noteDepths_keeps | apply modBoot_keeps | refine Keeps.ite ?_ ?_
      | refine Keeps.foldl ?_ (fun t a ht => ?_) | refine Keeps.foldlPair ?_ (fun t a ht => ?_)
      | (simp only [Keeps.mk_iff]; refine Keeps.parts ?_) | (dsimp only) | split

theorem co4_keeps {queue : List Instr} (env : CastOnEnv) {s : State} (hk : Keeps queue s) : Keeps queue (co4 env s).1 := by
  unfold co4
  with_reducible repeat' first
      | (simp only [Keeps.mk_iff]; refine keeps_memOr ?_) | assumption | apply modStack_keeps | apply modBoot_keeps
      | apply saveStackMap_keeps | refine Keeps.foldl ?_ (fun t a ht => ?_) | (dsimp only) | split

theorem buildMap_keeps {queue : List Instr} (bad : List Nat) {s : State} (hk : Keeps queue s) : Keeps queue (buildMap bad s).1 := by
  unfold buildMap
  with_reducible repeat' first
      | assumption | apply disableLinks_keeps | apply markRetired_keeps | apply modGrid_keeps | refine Keeps.foldl ?_ (fun t a ht => ?_)
      | (dsimp only) | split

theorem co5_keeps {queue : List Instr} (env : CastOnEnv) {s : State} (hk : Keeps queue s) : Keeps queue (co5 env s).1 := by
  unfold co5
  with_reducible repeat' (first | assumption | apply buildMap_keeps | split)

theorem co6_keeps {queue : List Instr} (env : CastOnEnv) {s : State} (hk : Keeps queue s) : Keeps queue (co6 env s).1 := by
  unfold co6
  with_reducible repeat' (first | assumption | apply buildMap_keeps | split)

theorem standbyLinks_keeps {queue : List Instr} {s : State} (hk : Keeps queue s) : Keeps queue (standbyLinks s) := by
  unfold standbyLinks
  with_reducible repeat' first
      | assumption | apply openHeaders_keeps | apply modLink_keeps | refine Keeps.ite ?_ ?_ | refine Keeps.foldl ?_ (fun t a ht => ?_)

theorem readyLean_keeps {queue : List Instr} {s : State} (hk : Keeps queue s) : Keeps queue (readyLean s) := by
  unfold readyLean
  with_reducible repeat' (first | assumption | apply eventPf_keeps | apply forceLean_keeps | refine Keeps.ite ?_ ?_)

theorem ready_keeps {queue : List Instr} (fast : Bool) {s : State} (hk : Keeps queue s) : Keeps queue (ready fast s) := by
  unfold ready
  with_reducible repeat' (first | assumption | apply setCaps_keeps | apply modBoot_keeps | apply readyLean_keeps | apply modPwr_keeps)

theorem co7_keeps {queue : List Instr} (env : CastOnEnv) (fast : Bool) {s : State} (hk : Keeps queue s) : Keeps queue (co7 env fast s).1
    := by
  unfold co7
  with_reducible repeat' first
      | assumption | apply modBoot_keeps | apply ready_keeps | apply standbyLinks_keeps
      | (simp only [Keeps.mk_iff]; refine Keeps.parts ?_) | (dsimp only) | split

theorem castHandover_keeps {queue : List Instr} {s : State} (hk : Keeps queue s) : Keeps queue (castHandover s) := by
  unfold castHandover
  with_reducible repeat' first
      | assumption | apply modBoot_keeps | apply logPush_keeps | apply noteFail_keeps | apply modGrid_keeps | refine Keeps.ite ?_ ?_

theorem castGo_keeps {queue : List Instr} (env : CastOnEnv) {s : State} (h : Keeps queue s) : Keeps queue (castGo env s) := by
  have h0 : Keeps queue (modBoot (fun b => { b with cast := none, waiting := [] }) s) := modBoot_keeps _ h
  have h1 := h0
  unfold castGo
  extract_lets s0 s1 fast map
  have h1 : Keeps queue s1 := Keeps.ite (castHandover_keeps h0) h0
  refine Keeps.ite h1 (runStages_keeps _ ?_ h1)
  have hm : ∀ t, Keeps queue t → Keeps queue (map t).1 := by
    intro t ht
    show Keeps queue (if fast then _ else _ : State × Option CastFail).1
    split
    · exact modGrid_keeps _ ht
    · exact co5_keeps _ ht
  intro f hf t ht
  simp only [List.mem_cons, List.not_mem_nil, or_false] at hf
  obtain rfl | rfl | rfl | rfl | rfl | rfl | rfl := hf
  · exact co1_keeps _ ht
  · exact co2_keeps _ _ ht
  · exact co3_keeps _ _ ht
  · exact co4_keeps _ ht
  · exact hm _ ht
  · exact co6_keeps _ ht
  · exact co7_keeps _ _ ht

theorem copyHeld_keeps {queue : List Instr} {s : State} (hk : Keeps queue s) : Keeps queue (copyHeld s) := by
  unfold copyHeld
  with_reducible repeat' first
      | assumption | apply logPush_keeps | apply modBoot_keeps | refine Keeps.foldl ?_ (fun t a ht => ?_)
      | (simp only [Keeps.mk_iff]; refine Keeps.parts ?_) | split

theorem co1GoOn_keeps {queue : List Instr} {s : State} (hk : Keeps queue s) : Keeps queue (co1GoOn s) := by
  unfold co1GoOn
  with_reducible repeat' (first | assumption | apply castGo_keeps | refine Keeps.ite ?_ ?_ | split)

theorem enterCo1_keeps {queue : List Instr} (env : CastOnEnv) {s : State} (hk : Keeps queue s) : Keeps queue (enterCo1 env s) := by
  unfold enterCo1
  with_reducible repeat' (first | assumption | apply copyHeld_keeps | apply modGrid_keeps | apply co1GoOn_keeps | apply modBoot_keeps)

theorem runCo0_keeps {queue : List Instr} (env : CastOnEnv) {s : State} (hk : Keeps queue s) : Keeps queue (runCo0 env s) := by
  unfold runCo0
  with_reducible repeat' (first | assumption | apply castFail_keeps | apply enterCo1_keeps | apply modBoot_keeps | split)

theorem enterCo0_keeps {queue : List Instr} (env : CastOnEnv) {s : State} (hk : Keeps queue s) : Keeps queue (enterCo0 env s) := by
  unfold enterCo0
  with_reducible repeat' (first | assumption | apply modBoot_keeps | apply runCo0_keeps | refine Keeps.ite ?_ ?_)

/-! ## Machine/Lifecycle.lean -/

theorem programFlash_keeps {queue : List Instr} (env : CastOnEnv) {s : State} (hk : Keeps queue s) : Keeps queue (programFlash env s) :=
    by
  unfold programFlash
  with_reducible repeat' first
      | assumption | refine Keeps.ite ?_ ?_ | (simp only [Keeps.mk_iff]; refine Keeps.parts ?_) | (dsimp only) | split

theorem coldReset_keeps {queue : List Instr} (env : CastOnEnv) {s : State} (hk : Keeps queue s) : Keeps queue (coldReset env s) := by
  unfold coldReset
  with_reducible repeat' (first | assumption | apply enterCo0_keeps | apply powerOn_keeps | apply programFlash_keeps)

theorem holdReset_keeps {queue : List Instr} {s : State} (hk : Keeps queue s) : Keeps queue (holdReset s) := by
  unfold holdReset
  with_reducible repeat' (first | assumption | apply modBoot_keeps | apply powerOn_keeps)

theorem warmReset_keeps {queue : List Instr} (env : CastOnEnv) {s : State} (hk : Keeps queue s) : Keeps queue (warmReset env s) := by
  unfold warmReset
  with_reducible repeat' first
      | assumption | apply modBoot_keeps | apply coldReset_keeps | apply enterCo0_keeps | apply warmBase_keeps | refine Keeps.ite ?_ ?_

theorem courseTimeout_keeps {queue : List Instr} (c : Nat) {s : State} (hk : Keeps queue s) : Keeps queue (courseTimeout c s) := by
  unfold courseTimeout
  with_reducible repeat' (first | assumption | apply co1GoOn_keeps | apply modBoot_keeps | apply modGrid_keeps | refine Keeps.ite ?_ ?_)

theorem powerGood_keeps {queue : List Instr} (c : Nat) {s : State} (hk : Keeps queue s) : Keeps queue (powerGood c s) := by
  unfold powerGood
  with_reducible repeat' (first | assumption | apply co1GoOn_keeps | apply modBoot_keeps)

theorem backoffExpiry_keeps {queue : List Instr} (env : CastOnEnv) {s : State} (hk : Keeps queue s) : Keeps queue (backoffExpiry env s) :=
    by
  unfold backoffExpiry
  with_reducible repeat' (first | assumption | apply modBoot_keeps | apply enterCo0_keeps | apply enterCo1_keeps | refine Keeps.ite ?_ ?_)

theorem southLeads_keeps {queue : List Instr} {s : State} (hk : Keeps queue s) : Keeps queue (southLeads s) := by
  unfold southLeads
  with_reducible repeat' (first | assumption | apply modBoot_keeps | apply modGrid_keeps)

theorem flashTimeout_keeps {queue : List Instr} {s : State} (hk : Keeps queue s) : Keeps queue (flashTimeout s) := by
  unfold flashTimeout
  with_reducible repeat' (first | assumption | apply runCo0_keeps | apply southLeads_keeps | refine Keeps.ite ?_ ?_ | split)

theorem panelDead_keeps {queue : List Instr} {s : State} (hk : Keeps queue s) : Keeps queue (panelDead s) := by
  unfold panelDead
  with_reducible repeat' first
      | assumption | apply cancelHold_keeps | apply modBoot_keeps | (simp only [Keeps.mk_iff]; refine Keeps.parts ?_)

theorem takeover_keeps {queue : List Instr} {s : State} (hk : Keeps queue s) : Keeps queue (takeover s) := by
  unfold takeover
  with_reducible repeat' first
      | assumption | apply modDie_keeps | apply southLeads_keeps | apply modDies_keeps | apply finishLongs_keeps | apply abortReplay_keeps

theorem anchorTakeover_keeps {queue : List Instr} {s : State} (hk : Keeps queue s) : Keeps queue (anchorTakeover s) := by
  unfold anchorTakeover
  with_reducible repeat' first
      | assumption | apply panelDead_keeps | apply enterCo1_keeps | apply castHandover_keeps | apply southLeads_keeps
      | apply takeover_keeps | refine Keeps.ite ?_ ?_ | split

theorem standbyFails_keeps {queue : List Instr} {s : State} (hk : Keeps queue s) : Keeps queue (standbyFails s) := by
  unfold standbyFails
  with_reducible repeat' (first | assumption | apply modBoot_keeps | refine Keeps.ite ?_ ?_)

theorem soleFails_keeps {queue : List Instr} {s : State} (hk : Keeps queue s) : Keeps queue (soleFails s) := by
  unfold soleFails
  with_reducible repeat' (first | assumption | apply panelDead_keeps | refine Keeps.ite ?_ ?_)

theorem herusBindOff_keeps {queue : List Instr} {s : State} (hk : Keeps queue s) : Keeps queue (herusBindOff s) := by
  unfold herusBindOff
  with_reducible repeat' (first | assumption | apply modPwr_keeps | apply beginBind_keeps | apply eventPf_keeps | refine Keeps.ite ?_ ?_)

theorem perstRelease_keeps {queue : List Instr} (p : Nat) {s : State} (hk : Keeps queue s) : Keeps queue (perstRelease p s) := by
  unfold perstRelease
  with_reducible repeat' (first | assumption | (simp only [Keeps.mk_iff]; refine Keeps.parts ?_))

/-! ## Machine/RepairEvents.lean -/

theorem siteFails_keeps {queue : List Instr} (course wale clu cause : Nat) (env : RepairEnv) {s : State} (hk : Keeps queue s) : Keeps
    queue (siteFails course wale clu cause env s) := by
  unfold siteFails
  with_reducible repeat' (first | assumption | apply duties_keeps | apply retireSites_keeps | refine Keeps.ite ?_ ?_)

theorem dieSilent_keeps {queue : List Instr} (course wale : Nat) (env : RepairEnv) {s : State} (hk : Keeps queue s) : Keeps queue
    (dieSilent course wale env s) := by
  unfold dieSilent
  with_reducible repeat' (first | assumption | apply modGrid_keeps | apply siteFails_keeps | refine Keeps.ite ?_ ?_)

theorem timingLost_keeps {queue : List Instr} (d : Nat) (retraining : Bool) (env : RepairEnv) {s : State} (hk : Keeps queue s) : Keeps
    queue (timingLost d retraining env s) := by
  unfold timingLost
  with_reducible repeat' first
      | assumption | apply timingLinkLost_keeps | apply dieSilent_keeps | apply duties_keeps | apply stackOut_keeps | apply modGrid_keeps
      | refine Keeps.ite ?_ ?_

theorem courseGone_keeps {queue : List Instr} (c : Nat) (cause : CourseCause) (env : RepairEnv) {s : State} (hk : Keeps queue s) : Keeps
    queue (courseGone c cause env s) := by
  unfold courseGone
  with_reducible repeat' (first | assumption | apply duties_keeps | apply courseLoss_keeps | refine Keeps.ite ?_ ?_)

theorem vinRemoved_keeps {queue : List Instr} (c : Nat) {s : State} (hk : Keeps queue s) : Keeps queue (vinRemoved c s) := by
  unfold vinRemoved
  with_reducible repeat' first
      | assumption | apply openHeaders_keeps | apply linksDown_keeps | apply countCourse_keeps | apply modBoot_keeps
      | refine Keeps.foldl ?_ (fun t a ht => ?_)

theorem powerBad_keeps {queue : List Instr} (c ns : Nat) (railsOk : Bool) (env : RepairEnv) {s : State} (hk : Keeps queue s) : Keeps queue
    (powerBad c ns railsOk env s) := by
  unfold powerBad
  with_reducible repeat' first
      | assumption | apply countCourse_keeps | apply modBoot_keeps | apply duties_keeps | apply courseLoss_keeps | apply vinRemoved_keeps
      | refine Keeps.ite ?_ ?_

theorem courseStep_keeps {queue : List Instr} (c : Nat) (f : Nat → Nat) {s : State} (hk : Keeps queue s) : Keeps queue (courseStep c f s)
    := by
  unfold courseStep
  with_reducible repeat' (first | assumption | apply modPwr_keeps)

theorem courseMonitor_keeps {queue : List Instr} (c : Nat) (m : CourseMonitor) (env : RepairEnv) {s : State} (hk : Keeps queue s) : Keeps
    queue (courseMonitor c m env s) := by
  unfold courseMonitor
  with_reducible repeat' first
      | assumption | apply countCourse_keeps | apply modPwr_keeps | apply courseStep_keeps | apply duties_keeps | apply courseLoss_keeps
      | refine Keeps.ite ?_ ?_ | split

theorem stacksOut_keeps {queue : List Instr} (c : Nat) (env : RepairEnv) {s : State} (hk : Keeps queue s) : Keeps queue (stacksOut c env
    s) := by
  unfold stacksOut
  with_reducible repeat' first
      | assumption | apply drainFabric_keeps | apply markLost_keeps | apply settleTorn_keeps | apply goOutOfService_keeps
      | apply abortRound_keeps | refine Keeps.ite ?_ ?_ | refine Keeps.foldl ?_ (fun t a ht => ?_) | (dsimp only) | split

theorem memoryRail_keeps {queue : List Instr} (c : Nat) (rail : MemRail) (env : RepairEnv) {s : State} (hk : Keeps queue s) : Keeps queue
    (memoryRail c rail env s) := by
  unfold memoryRail
  with_reducible repeat' (first | assumption | apply duties_keeps | apply courseLoss_keeps | apply stacksOut_keeps | refine Keeps.ite ?_ ?_)

theorem supplyLoss_keeps {queue : List Instr} {s : State} (hk : Keeps queue s) : Keeps queue (supplyLoss s) := by
  unfold supplyLoss
  with_reducible repeat' (first | assumption | apply modBoot_keeps | apply panelDead_keeps)

theorem refclkGone_keeps {queue : List Instr} (d : Nat) {s : State} (hk : Keeps queue s) : Keeps queue (refclkGone d s) := by
  unfold refclkGone
  with_reducible repeat' first
      | assumption | apply portReset_keeps | apply anchorTakeover_keeps | apply panelDead_keeps | apply standbyFails_keeps
      | apply portDown_keeps | refine Keeps.ite ?_ ?_ | split

/-! ## Machine/PowerEvents.lean -/

theorem warnOn_keeps {queue : List Instr} {s : State} (hk : Keeps queue s) : Keeps queue (warnOn s) := by
  unfold warnOn
  with_reducible repeat' (first | assumption | apply modPwr_keeps | apply eventPf_keeps | refine Keeps.ite ?_ ?_)

theorem warnOff_keeps {queue : List Instr} {s : State} (hk : Keeps queue s) : Keeps queue (warnOff s) := by
  unfold warnOff
  with_reducible repeat' (first | assumption | apply modPwr_keeps | apply co1GoOn_keeps | apply eventPf_keeps | refine Keeps.ite ?_ ?_)

theorem forcedLean_keeps {queue : List Instr} {s : State} (hk : Keeps queue s) : Keeps queue (forcedLean s) := by
  unfold forcedLean
  with_reducible repeat' (first | assumption | apply modPwr_keeps | refine Keeps.ite ?_ ?_)

theorem marginTrim_keeps {queue : List Instr} (warns : List (Nat × Nat)) {s0 : State} (hk : Keeps queue s0) : Keeps queue (marginTrim
    warns s0) := by
  unfold marginTrim
  with_reducible repeat' first
      | assumption | apply refreshTick_keeps | apply copySets_keeps | apply modClu_keeps | refine Keeps.ite ?_ ?_
      | refine Keeps.foldl ?_ (fun t a ht => ?_)

theorem courseDraw_keeps {queue : List Instr} {s : State} (hk : Keeps queue s) : Keeps queue (courseDraw s) := by
  unfold courseDraw
  with_reducible repeat' first
      | assumption | apply modPwr_keeps | refine Keeps.foldl ?_ (fun t a ht => ?_) | (simp only [Keeps.mk_iff]; refine Keeps.parts ?_)

theorem capControl_keeps {queue : List Instr} (d : Draws) {s : State} (hk : Keeps queue s) : Keeps queue (capControl d s) := by
  unfold capControl
  with_reducible repeat' (first | assumption | apply courseDraw_keeps | apply modPwr_keeps | apply reportCap_keeps | refine Keeps.ite ?_ ?_)

theorem throttleEvents_keeps {queue : List Instr} {s : State} (hk : Keeps queue s) : Keeps queue (throttleEvents s) := by
  unfold throttleEvents
  with_reducible repeat' first
      | assumption | apply modPwr_keeps | apply eventPf_keeps | refine Keeps.ite ?_ ?_ | refine Keeps.foldl ?_ (fun t a ht => ?_)

theorem throttleSet_keeps {queue : List Instr} (raise : Bool) {s : State} (hk : Keeps queue s) : Keeps queue (throttleSet raise s) := by
  unfold throttleSet
  with_reducible repeat' (first | assumption | apply modPwr_keeps)

theorem noteTemps_keeps {queue : List Instr} (temps : List (Nat × Nat)) {s : State} (hk : Keeps queue s) : Keeps queue (noteTemps temps s)
    := by
  unfold noteTemps
  with_reducible repeat' (first | assumption | apply modThm_keeps)

theorem throttleStep_keeps {queue : List Instr} (temps : List (Nat × Nat)) (raise : Bool) {s : State} (hk : Keeps queue s) : Keeps queue
    (throttleStep temps raise s) := by
  unfold throttleStep
  with_reducible repeat' first
      | assumption | apply noteTemps_keeps | apply throttleEvents_keeps | apply throttleSet_keeps | refine Keeps.ite ?_ ?_

/-! ## Machine/ThermalEvents.lean -/

theorem resistanceMeasure_keeps {queue : List Instr} (compPower memPower hotC hotM : Nat) (steadyC steadyM : Bool) {s : State} (hk : Keeps
    queue s) : Keeps queue (resistanceMeasure compPower memPower hotC hotM steadyC steadyM s) := by
  unfold resistanceMeasure
  with_reducible repeat' (first | assumption | apply modThm_keeps | apply reportCap_keeps | apply setCaps_keeps | refine Keeps.ite ?_ ?_)

theorem alertChange_keeps {queue : List Instr} (env : AlertEnv) {s : State} (hk : Keeps queue s) : Keeps queue (alertChange env s) := by
  unfold alertChange
  with_reducible repeat' (first | assumption | apply modThm_keeps | refine Keeps.ite ?_ ?_)

theorem tripHardware_keeps {queue : List Instr} {s : State} (hk : Keeps queue s) : Keeps queue (tripHardware s) := by
  unfold tripHardware
  extract_lets s1
  have h1 : Keeps queue s1 := by
    with_reducible repeat' first
        | assumption | apply fieldDown_keeps | apply cancelHold_keeps | apply modLink_keeps | refine Keeps.ite ?_ ?_
        | refine Keeps.foldl ?_ (fun t a ht => ?_)
  simp only [Keeps.mk_iff]
  exact h1.partsEmpty

theorem thermalTrip_keeps {queue : List Instr} (die temp : Nat) {s : State} (hk : Keeps queue s) : Keeps queue (thermalTrip die temp s) :=
    by
  unfold thermalTrip
  with_reducible repeat' first
      | assumption | apply modBoot_keeps | apply tripHardware_keeps | apply finishLongs_keeps | apply healthWrite_keeps
      | apply logPush_keeps | refine Keeps.ite ?_ ?_

theorem cycleSample_keeps {queue : List Instr} (temps : List (Nat × Nat)) {s : State} (hk : Keeps queue s) : Keeps queue (cycleSample
    temps s) := by
  unfold cycleSample
  with_reducible repeat' (first | assumption | apply modThm_keeps | refine Keeps.ite ?_ ?_)

/-! ## Machine/HealthEvents.lean -/

theorem scoreAll_keeps {queue : List Instr} {s : State} (hk : Keeps queue s) : Keeps queue (scoreAll s) := by
  unfold scoreAll
  with_reducible repeat' (first | assumption | (simp only [Keeps.mk_iff]; refine Keeps.parts ?_))

theorem noteLow_keeps {queue : List Instr} {s : State} (hk : Keeps queue s) : Keeps queue (noteLow s) := by
  unfold noteLow
  with_reducible repeat' (first | assumption | (simp only [Keeps.mk_iff]; refine Keeps.parts ?_))

theorem wantOne_keeps {queue : List Instr} {s : State} (x : Nat × Nat) (hk : Keeps queue s) : Keeps queue (wantOne s x) := by
  unfold wantOne
  with_reducible repeat' first
      | assumption | apply plan_keeps | apply addFault_keeps | refine Keeps.ite ?_ ?_ | (simp only [Keeps.mk_iff]; refine Keeps.parts ?_)

theorem healthScoring_keeps {queue : List Instr} (minute : Nat) {s : State} (hk : Keeps queue s) : Keeps queue (healthScoring minute s) :=
    by
  unfold healthScoring
  with_reducible repeat' first
      | assumption | apply noteLow_keeps | apply scoreAll_keeps | apply duties_keeps | apply wantOne_keeps | refine Keeps.ite ?_ ?_
      | refine Keeps.foldl ?_ (fun t a ht => ?_) | (simp only [Keeps.mk_iff]; refine Keeps.parts ?_)

/-! ## Machine/Management.lean -/

theorem ctlReply_keeps {queue : List Instr} (cmd code : Nat) (data : List Byte) {s : State} (hk : Keeps queue s) : Keeps queue (ctlReply
    cmd code data s) := by
  unfold ctlReply
  with_reducible repeat' (first | assumption | apply emit_keeps)

theorem setEid_keeps {queue : List Instr} (eid : Byte) {s : State} (hk : Keeps queue s) : Keeps queue (setEid eid s) := by
  unfold setEid
  with_reducible repeat' first
      | assumption | apply ctlReply_keeps | refine Keeps.ite ?_ ?_ | (simp only [Keeps.mk_iff]; refine Keeps.parts ?_)

theorem getEid_keeps {queue : List Instr} {s : State} (hk : Keeps queue s) : Keeps queue (getEid s) := by
  unfold getEid
  with_reducible repeat' (first | assumption | apply ctlReply_keeps | refine Keeps.ite ?_ ?_)

theorem getVersions_keeps {queue : List Instr} {s : State} (hk : Keeps queue s) : Keeps queue (getVersions s) := by
  unfold getVersions
  with_reducible repeat' first
      | assumption | apply ctlReply_keeps | refine Keeps.ite ?_ ?_ | (simp only [Keeps.mk_iff]; refine Keeps.parts ?_)

theorem getTypes_keeps {queue : List Instr} {s : State} (hk : Keeps queue s) : Keeps queue (getTypes s) := by
  unfold getTypes
  with_reducible repeat' (first | assumption | apply ctlReply_keeps | refine Keeps.ite ?_ ?_)

theorem vendorReply_keeps {queue : List Instr} (cmd status : Nat) (data : List Byte) {s : State} (hk : Keeps queue s) : Keeps queue
    (vendorReply cmd status data s) := by
  unfold vendorReply
  with_reducible repeat' (first | assumption | apply emit_keeps)

theorem readout_keeps {queue : List Instr} (cmd : Nat) (offs : List Nat) {s : State} (hk : Keeps queue s) : Keeps queue (readout cmd offs
    s) := by
  unfold readout
  with_reducible repeat' (first | assumption | apply vendorReply_keeps | refine Keeps.ite ?_ ?_)

theorem coolantMsg_keeps {queue : List Instr} (tmem tcmp : W16) {s : State} (hk : Keeps queue s) : Keeps queue (coolantMsg tmem tcmp s)
    := by
  unfold coolantMsg
  with_reducible repeat' first
      | assumption | apply vendorReply_keeps | apply coolantReport_keeps | refine Keeps.ite ?_ ?_
      | (simp only [Keeps.mk_iff]; refine Keeps.parts ?_) | (dsimp only) | split

theorem modPins_keeps {queue : List Instr} (g : Pins → Pins) {s : State} (hk : Keeps queue s) : Keeps queue (modPins g s) := by
  unfold modPins
  with_reducible repeat' (first | assumption | (simp only [Keeps.mk_iff]; refine Keeps.parts ?_))

theorem jtagBypassShift_keeps {queue : List Instr} (tdi : Bool) {s : State} (hk : Keeps queue s) : Keeps queue (jtagBypassShift tdi s) := by
  unfold jtagBypassShift
  with_reducible repeat' (first | assumption | apply emit_keeps | apply modPins_keeps | refine Keeps.ite ?_ ?_)

theorem jtagSample_keeps {queue : List Instr} (l : List Bool) {s : State} (hk : Keeps queue s) : Keeps queue (jtagSample l s) := by
  unfold jtagSample
  with_reducible repeat' first
      | assumption | apply jtagBypassShift_keeps | apply emit_keeps | apply modPins_keeps | refine Keeps.ite ?_ ?_

theorem jtagExtest_keeps {queue : List Instr} (l : List Bool) {s : State} (hk : Keeps queue s) : Keeps queue (jtagExtest l s) := by
  unfold jtagExtest
  with_reducible repeat' first
      | assumption | apply jtagBypassShift_keeps | apply emit_keeps | apply modPins_keeps | refine Keeps.ite ?_ ?_

/-! ## Machine/RoundEvents.lean -/

theorem arriveAt_keeps {queue : List Instr} (die : Nat) (kidx : BitVec 12) {s : State} (hk : Keeps queue s) : Keeps queue (arriveAt die
    kidx s) := by
  unfold arriveAt
  with_reducible repeat' (first | assumption | refine Keeps.ite ?_ ?_ | (simp only [Keeps.mk_iff]; refine Keeps.parts ?_))

theorem innerKnot_keeps {queue : List Instr} (k : BitVec 48) {s : State} (hk : Keeps queue s) : Keeps queue (innerKnot k s) := by
  unfold innerKnot
  with_reducible repeat' (first | assumption | apply modeCommit_keeps | (simp only [Keeps.mk_iff]; refine Keeps.parts ?_))

theorem fireKnot_keeps {queue : List Instr} (k : BitVec 48) (kidx : BitVec 12) (env : BoundaryEnv) {s : State} (hk : Keeps queue s) :
    Keeps queue (fireKnot k kidx env s) := by
  unfold fireKnot
  with_reducible repeat' first
      | assumption | apply endRound_keeps | apply innerKnot_keeps | refine Keeps.ite ?_ ?_
      | (simp only [Keeps.mk_iff]; refine Keeps.parts ?_)

theorem startSection_keeps {queue : List Instr} {s : State} (hk : Keeps queue s) : Keeps queue (startSection s) := by
  unfold startSection
  with_reducible repeat' first
      | assumption | apply modClu_keeps | apply leanNow_keeps | apply swapAtTarget_keeps | refine Keeps.ite ?_ ?_
      | refine Keeps.foldl ?_ (fun t a ht => ?_) | (simp only [Keeps.mk_iff]; refine Keeps.parts ?_)

theorem knotTimeout_keeps {queue : List Instr} {s : State} (hk : Keeps queue s) : Keeps queue (knotTimeout s) := by
  unfold knotTimeout
  with_reducible repeat' first
      | assumption | apply abortPatternFault_keeps | apply addPatFault_keeps | refine Keeps.ite ?_ ?_
      | refine Keeps.foldl ?_ (fun t a ht => ?_)

theorem faultFrame_keeps {queue : List Instr} (code : Byte) {s : State} (hk : Keeps queue s) : Keeps queue (faultFrame code s) := by
  unfold faultFrame
  with_reducible repeat' (first | assumption | apply abortPatternFault_keeps | apply abortRound_keeps | refine Keeps.ite ?_ ?_)

theorem abortFrame_keeps {queue : List Instr} (cause : BitVec 12) (bad : List Nat) {s : State} (hk : Keeps queue s) : Keeps queue
    (abortFrame cause bad s) := by
  unfold abortFrame
  with_reducible repeat' first
      | assumption | apply raiseOwners_keeps | apply failSession_keeps | apply abortPatternFault_keeps | apply stopPattern_keeps
      | apply abortRound_keeps | refine Keeps.foldl ?_ (fun t a ht => ?_) | (dsimp only) | split

theorem pageTimeout_keeps {queue : List Instr} (t : Nat) (usertag : W64) {s : State} (hk : Keeps queue s) : Keeps queue (pageTimeout t
    usertag s) := by
  unfold pageTimeout
  with_reducible repeat' (first | assumption | apply flushCq_keeps | apply finishReq_keeps | split)

theorem copyDone_keeps {queue : List Instr} (i : Nat) {s : State} (hk : Keeps queue s) : Keeps queue (copyDone i s) := by
  unfold copyDone
  with_reducible repeat' first
      | assumption | apply modPort_keeps | apply commitMoves_keeps | refine Keeps.ite ?_ ?_ | (dsimp only) | split

/-! ## Machine/TimeEvents.lean -/

theorem thawAll_keeps {queue : List Instr} {s : State} (hk : Keeps queue s) : Keeps queue (thawAll s) := by
  unfold thawAll
  with_reducible repeat' first
      | assumption | apply modClu_keeps | refine Keeps.ite ?_ ?_ | refine Keeps.foldl ?_ (fun t a ht => ?_)

theorem windowNow_keeps {queue : List Instr} {s : State} (hk : Keeps queue s) : Keeps queue (windowNow s) := by
  unfold windowNow
  with_reducible repeat' (first | assumption | apply windowSwap_keeps | refine Keeps.ite ?_ ?_)

end Sys2Proof.Machine
end

