-- ==== Sys2Proof/Laws/PerInstr.lean ====
section
/-! SUPPORT. Laws per command.  The family `Uops` says of every command what it is as a micro-op: the command that its place and
descriptor give, well formed exactly when the place exists and the descriptor passes staging. -/

namespace Sys2Proof.Laws.Uops

open Sys2Proof Sys2Proof.Machine

/-- The place and the descriptor of a command that issues a micro-op. -/
def parts : Instr → Option (Issue × Uop)
  | .nop i f => some (i, .ctl .nop f)
  | .loop i f => some (i, .ctl .loop f)
  | .seti i f => some (i, .ctl .seti f)
  | .alu i f => some (i, .ctl .alu f)
  | .ldw i f => some (i, .ctl .ldw f)
  | .stw i f => some (i, .ctl .stw f)
  | .mask i f => some (i, .ctl .mask f)
  | .syw i f => some (i, .ctl .syw f)
  | .vld i f => some (i, .vec .vld f)
  | .vst i f => some (i, .vec .vst f)
  | .vew i f => some (i, .vec .vew f)
  | .vrd i f => some (i, .vec .vrd f)
  | .vsf i f => some (i, .vec .vsf f)
  | .vsmx i f => some (i, .vec .vsmx f)
  | .vnrm i f => some (i, .vec .vnrm f)
  | .vtopk i f => some (i, .vec .vtopk f)
  | .vrng i f => some (i, .vec .vrng f)
  | .cvt i f => some (i, .vec .cvt f)
  | .vflg i f => some (i, .vec .vflg f)
  | .mtl i f => some (i, .mtl f)
  | .mma i f => some (i, .mma f)
  | .mdr i f => some (i, .mdr f)
  | .dmr i f => some (i, .dm false f)
  | .dmw i f => some (i, .dm true f)
  | .ssn i f => some (i, .fm .ssn f)
  | .srv i f => some (i, .fm .srv f)
  | .fsn i f => some (i, .fm .fsn f)
  | .frv i f => some (i, .fm .frv f)
  | .knot i k => some (i, .knot k)
  | _ => none

/-- What is said of a command. -/
def Statement (c : Instr) : Prop :=
  match parts c with
  | some (i, u) => uopCommand i u = c ∧ c.wf = (issueOk i && u.wf)
  | none => ∀ (i : Issue) (u : Uop), uopCommand i u ≠ c

/-- The command of every place and descriptor has them as its parts. -/
theorem parts_uopCommand (i : Issue) (u : Uop) : parts (uopCommand i u) = some (i, u) := by
  rcases u with ⟨op, f⟩ | ⟨op, f⟩ | f | f | f | ⟨w, f⟩ | ⟨op, f⟩ | k
  · cases op <;> rfl
  · cases op <;> rfl
  · rfl
  · rfl
  · rfl
  · cases w <;> rfl
  · cases op <;> rfl
  · rfl

/-- A command without parts issues no micro-op. -/
theorem no_uop (c : Instr) (h : parts c = none) : Statement c := by
  unfold Statement
  rw [h]
  intro i u e
  rw [← e, parts_uopCommand] at h
  cases h

theorem identify (q : MbReq) : Statement (.identify q) := no_uop _ rfl
theorem statusRead (q : MbReq) : Statement (.statusRead q) := no_uop _ rfl
theorem interfaceCaps (q : MbReq) : Statement (.interfaceCaps q) := no_uop _ rfl
theorem licenceInstall (q : MbReq) : Statement (.licenceInstall q) := no_uop _ rfl
theorem licenceRead (q : MbReq) : Statement (.licenceRead q) := no_uop _ rfl
theorem patternStage (q : MbReq) : Statement (.patternStage q) := no_uop _ rfl
theorem patternCommit (q : MbReq) : Statement (.patternCommit q) := no_uop _ rfl
theorem patternStart (q : MbReq) : Statement (.patternStart q) := no_uop _ rfl
theorem patternStop (q : MbReq) (form : Byte) : Statement (.patternStop q form) := no_uop _ rfl
theorem weightsIntakeOpen (q : MbReq) (base len woff : W64) : Statement (.weightsIntakeOpen q base len woff) := no_uop _ rfl
theorem weightsIntakeClose (q : MbReq) : Statement (.weightsIntakeClose q) := no_uop _ rfl
theorem setWrite (q : MbReq) (scope : W16) (item count : Byte) (entries : List Byte) : Statement (.setWrite q scope item count entries) := no_uop _ rfl
theorem setSwapAt (q : MbReq) (target : W64) : Statement (.setSwapAt q target) := no_uop _ rfl
theorem setRead (q : MbReq) (die : W16) (which item : Byte) : Statement (.setRead q die which item) := no_uop _ rfl
theorem modeSet (q : MbReq) (mode : Byte) : Statement (.modeSet q mode) := no_uop _ rfl
theorem powerCapSet (q : MbReq) (cap : W32) : Statement (.powerCapSet q cap) := no_uop _ rfl
theorem powerRead (q : MbReq) : Statement (.powerRead q) := no_uop _ rfl
theorem coolantReport (q : MbReq) (tmem tcmp : W16) : Statement (.coolantReport q tmem tcmp) := no_uop _ rfl
theorem thermalRead (q : MbReq) : Statement (.thermalRead q) := no_uop _ rfl
theorem healthRead (q : MbReq) (scope port : Byte) (index : W16) : Statement (.healthRead q scope port index) := no_uop _ rfl
theorem darnRead (q : MbReq) : Statement (.darnRead q) := no_uop _ rfl
theorem repairPolicySet (q : MbReq) (impaired scoremin repeats : Byte) : Statement (.repairPolicySet q impaired scoremin repeats) := no_uop _ rfl
theorem siteRetire (q : MbReq) (course wale : Byte) : Statement (.siteRetire q course wale) := no_uop _ rfl
theorem faultLogRead (q : MbReq) (first : W64) (max : W32) : Statement (.faultLogRead q first max) := no_uop _ rfl
theorem flagsRead (q : MbReq) : Statement (.flagsRead q) := no_uop _ rfl
theorem flagsClear (q : MbReq) (mask : Byte) : Statement (.flagsClear q mask) := no_uop _ rfl
theorem tenantConfigure (q : MbReq) (cfg : TenantCfg) : Statement (.tenantConfigure q cfg) := no_uop _ rfl
theorem tenantReset (q : MbReq) (tenant : Byte) : Statement (.tenantReset q tenant) := no_uop _ rfl
theorem shaperSet (q : MbReq) (tenant shaper : Byte) (rate depth : W32) : Statement (.shaperSet q tenant shaper rate depth) := no_uop _ rfl
theorem sessionExport (q : MbReq) (handle : W32) : Statement (.sessionExport q handle) := no_uop _ rfl
theorem sessionImport (q : MbReq) (tenant : Byte) : Statement (.sessionImport q tenant) := no_uop _ rfl
theorem tailLogRead (q : MbReq) (handle first : W32) : Statement (.tailLogRead q handle first) := no_uop _ rfl
theorem roundFence (q : MbReq) (action : Byte) : Statement (.roundFence q action) := no_uop _ rfl
theorem resetFabric (q : MbReq) : Statement (.resetFabric q) := no_uop _ rfl
theorem resetWarm (q : MbReq) : Statement (.resetWarm q) := no_uop _ rfl
theorem bindOff (q : MbReq) (round sess : Byte) : Statement (.bindOff q round sess) := no_uop _ rfl
theorem timeRead (q : MbReq) : Statement (.timeRead q) := no_uop _ rfl
theorem timerArm (q : MbReq) (timer action : Byte) (target : W64) : Statement (.timerArm q timer action target) := no_uop _ rfl
theorem linkRead (q : MbReq) (die : W16) (port : Byte) : Statement (.linkRead q die port) := no_uop _ rfl
theorem linkRetrain (q : MbReq) (die : W16) (port form : Byte) : Statement (.linkRetrain q die port form) := no_uop _ rfl
theorem memoryScrubSet (q : MbReq) (period : W16) (rebuild course col : Byte) : Statement (.memoryScrubSet q period rebuild course col) := no_uop _ rfl
theorem memoryStatus (q : MbReq) : Statement (.memoryStatus q) := no_uop _ rfl
theorem firmwareStage (q : MbReq) : Statement (.firmwareStage q) := no_uop _ rfl
theorem firmwareActivate (q : MbReq) (when_ : Byte) : Statement (.firmwareActivate q when_) := no_uop _ rfl
theorem mailboxTakeUp (env : MbEnv) : Statement (.mailboxTakeUp env) := no_uop _ rfl
theorem ringOpen (r : RingRef) (d : Desc) : Statement (.ringOpen r d) := no_uop _ rfl
theorem ringAppend (r : RingRef) (d : Desc) : Statement (.ringAppend r d) := no_uop _ rfl
theorem ringStep (r : RingRef) (d : Desc) : Statement (.ringStep r d) := no_uop _ rfl
theorem ringDraft (r : RingRef) (d : Desc) : Statement (.ringDraft r d) := no_uop _ rfl
theorem ringCancel (r : RingRef) (d : Desc) : Statement (.ringCancel r d) := no_uop _ rfl
theorem ringClose (r : RingRef) (d : Desc) : Statement (.ringClose r d) := no_uop _ rfl
theorem ringPark (r : RingRef) (d : Desc) : Statement (.ringPark r d) := no_uop _ rfl
theorem ringUnpark (r : RingRef) (d : Desc) : Statement (.ringUnpark r d) := no_uop _ rfl
theorem doorbellWrite (fn pair : Nat) (tail head : Option W16) : Statement (.doorbellWrite fn pair tail head) := no_uop _ rfl
theorem tokenArrayArrived (tenant : Nat) (usertag : W64) (toks : List W32) : Statement (.tokenArrayArrived tenant usertag toks) := no_uop _ rfl
theorem intCauseClear (fn : Nat) (mask : W32) : Statement (.intCauseClear fn mask) := no_uop _ rfl
theorem registerWrite (fn off : Nat) (data : List (Option Byte)) : Statement (.registerWrite fn off data) := no_uop _ rfl
theorem misalignedAccess (fn off len : Nat) (write : Bool) : Statement (.misalignedAccess fn off len write) := no_uop _ rfl
theorem pairLoRead (fn off len : Nat) : Statement (.pairLoRead fn off len) := no_uop _ rfl
theorem busMasterEnable (fn : Nat) (en : Bool) : Statement (.busMasterEnable fn en) := no_uop _ rfl
theorem hostPortReset (port : Nat) (kind : PortReset) : Statement (.hostPortReset port kind) := no_uop _ rfl
theorem vfFlr (vf : Nat) : Statement (.vfFlr vf) := no_uop _ rfl
theorem apertureWrite (off : Nat) (data : List Byte) : Statement (.apertureWrite off data) := no_uop _ rfl
theorem apertureRead (off len : Nat) : Statement (.apertureRead off len) := no_uop _ rfl
theorem nop (i : Issue) (f : CtlF) : Statement (.nop i f) := ⟨rfl, rfl⟩
theorem loop (i : Issue) (f : CtlF) : Statement (.loop i f) := ⟨rfl, rfl⟩
theorem seti (i : Issue) (f : CtlF) : Statement (.seti i f) := ⟨rfl, rfl⟩
theorem alu (i : Issue) (f : CtlF) : Statement (.alu i f) := ⟨rfl, rfl⟩
theorem ldw (i : Issue) (f : CtlF) : Statement (.ldw i f) := ⟨rfl, rfl⟩
theorem stw (i : Issue) (f : CtlF) : Statement (.stw i f) := ⟨rfl, rfl⟩
theorem mask (i : Issue) (f : CtlF) : Statement (.mask i f) := ⟨rfl, rfl⟩
theorem syw (i : Issue) (f : CtlF) : Statement (.syw i f) := ⟨rfl, rfl⟩
theorem sywSatisfied (i : Issue) : Statement (.sywSatisfied i) := no_uop _ rfl
theorem vld (i : Issue) (f : VecF) : Statement (.vld i f) := ⟨rfl, rfl⟩
theorem vst (i : Issue) (f : VecF) : Statement (.vst i f) := ⟨rfl, rfl⟩
theorem vew (i : Issue) (f : VecF) : Statement (.vew i f) := ⟨rfl, rfl⟩
theorem vrd (i : Issue) (f : VecF) : Statement (.vrd i f) := ⟨rfl, rfl⟩
theorem vsf (i : Issue) (f : VecF) : Statement (.vsf i f) := ⟨rfl, rfl⟩
theorem vsmx (i : Issue) (f : VecF) : Statement (.vsmx i f) := ⟨rfl, rfl⟩
theorem vnrm (i : Issue) (f : VecF) : Statement (.vnrm i f) := ⟨rfl, rfl⟩
theorem vtopk (i : Issue) (f : VecF) : Statement (.vtopk i f) := ⟨rfl, rfl⟩
theorem vrng (i : Issue) (f : VecF) : Statement (.vrng i f) := ⟨rfl, rfl⟩
theorem cvt (i : Issue) (f : VecF) : Statement (.cvt i f) := ⟨rfl, rfl⟩
theorem vflg (i : Issue) (f : VecF) : Statement (.vflg i f) := ⟨rfl, rfl⟩
theorem mtl (i : Issue) (f : MtlF) : Statement (.mtl i f) := ⟨rfl, rfl⟩
theorem mma (i : Issue) (f : MmaF) : Statement (.mma i f) := ⟨rfl, rfl⟩
theorem mdr (i : Issue) (f : MdrF) : Statement (.mdr i f) := ⟨rfl, rfl⟩
theorem dmr (i : Issue) (f : DmF) : Statement (.dmr i f) := ⟨rfl, rfl⟩
theorem dmw (i : Issue) (f : DmF) : Statement (.dmw i f) := ⟨rfl, rfl⟩
theorem ssn (i : Issue) (f : FmF) : Statement (.ssn i f) := ⟨rfl, (Bool.and_true _).symm⟩
theorem srv (i : Issue) (f : FmF) : Statement (.srv i f) := ⟨rfl, (Bool.and_true _).symm⟩
theorem fsn (i : Issue) (f : FmF) : Statement (.fsn i f) := ⟨rfl, (Bool.and_true _).symm⟩
theorem frv (i : Issue) (f : FmF) : Statement (.frv i f) := ⟨rfl, (Bool.and_true _).symm⟩
theorem knot (i : Issue) (kidx : BitVec 12) : Statement (.knot i kidx) := ⟨rfl, (Bool.and_true _).symm⟩
theorem dmTransferComplete (rank clu sc idx : Nat) : Statement (.dmTransferComplete rank clu sc idx) := no_uop _ rfl
theorem freeMessageComplete (rank clu sc idx : Nat) : Statement (.freeMessageComplete rank clu sc idx) := no_uop _ rfl
theorem dieArrival (die : Nat) : Statement (.dieArrival die) := no_uop _ rfl
theorem stitchStart (die : Nat) : Statement (.stitchStart die) := no_uop _ rfl
theorem holdLine (die : Nat) (left : List (Nat × Nat)) : Statement (.holdLine die left) := no_uop _ rfl
theorem mark (die : Nat) (count : BitVec 48) (phaseErr : Int) : Statement (.mark die count phaseErr) := no_uop _ rfl
theorem syncFrameReceive (die : Nat) (frame : BitVec 80) : Statement (.syncFrameReceive die frame) := no_uop _ rfl
theorem tbu (rank clu : Nat) : Statement (.tbu rank clu) := no_uop _ rfl
theorem tbs : Statement .tbs := no_uop _ rfl
theorem extend (quantum : BitVec 12) : Statement (.extend quantum) := no_uop _ rfl
theorem report (die : Nat) : Statement (.report die) := no_uop _ rfl
theorem freq (die : Nat) : Statement (.freq die) := no_uop _ rfl
theorem freeze (point : BitVec 48) : Statement (.freeze point) := no_uop _ rfl
theorem freezePoint : Statement .freezePoint := no_uop _ rfl
theorem release (die : Nat) : Statement (.release die) := no_uop _ rfl
theorem resume (point : BitVec 48) : Statement (.resume point) := no_uop _ rfl
theorem resumePoint : Statement .resumePoint := no_uop _ rfl
theorem arrive (die : Nat) (kidx : BitVec 12) : Statement (.arrive die kidx) := no_uop _ rfl
theorem fire (k : BitVec 48) (kidx : BitVec 12) (env : BoundaryEnv) : Statement (.fire k kidx env) := no_uop _ rfl
theorem sectionStart : Statement .sectionStart := no_uop _ rfl
theorem knotTimeout : Statement .knotTimeout := no_uop _ rfl
theorem fault (die : Nat) (code : Byte) : Statement (.fault die code) := no_uop _ rfl
theorem abort (cause : BitVec 12) (failed : List Nat) : Statement (.abort cause failed) := no_uop _ rfl
theorem idleSnapshot : Statement .idleSnapshot := no_uop _ rfl
theorem pageWaitTimeout (tenant : Nat) (usertag : W64) : Statement (.pageWaitTimeout tenant usertag) := no_uop _ rfl
theorem parkCopyDone (index : Nat) : Statement (.parkCopyDone index) := no_uop _ rfl
theorem unparkDone (index : Nat) : Statement (.unparkDone index) := no_uop _ rfl
theorem parkTransferFail (index : Nat) (poison : Bool) : Statement (.parkTransferFail index poison) := no_uop _ rfl
theorem parkPortDown (port : Nat) : Statement (.parkPortDown port) := no_uop _ rfl
theorem setFlitForward (die port : Nat) (slot : Nat) (f : SetFlit) : Statement (.setFlitForward die port slot f) := no_uop _ rfl
theorem setFlitLanding (rank : Nat) (slot : Nat) (f : SetFlit) : Statement (.setFlitLanding rank slot f) := no_uop _ rfl
theorem freeFlitRoute (die slot : Nat) : Statement (.freeFlitRoute die slot) := no_uop _ rfl
theorem freeFlitAck (die : Nat) (drank : W16) (dclass : BitVec 4) (recs : List AckRec) (ece : Bool) : Statement (.freeFlitAck die drank dclass recs ece) := no_uop _ rfl
theorem ackTimer (die : Nat) (srank : W16) (msg : BitVec 12) : Statement (.ackTimer die srank msg) := no_uop _ rfl
theorem retransmitTimeout (die : Nat) (msg : BitVec 12) (off : BitVec 17) : Statement (.retransmitTimeout die msg off) := no_uop _ rfl
theorem controlPacket (die : Nat) (port : Nat) (bytes : List Byte) : Statement (.controlPacket die port bytes) := no_uop _ rfl
theorem controlResend (die : Nat) (port : Nat) (seq : W16) : Statement (.controlResend die port seq) := no_uop _ rfl
theorem syncPathSwitch (die : Nat) : Statement (.syncPathSwitch die) := no_uop _ rfl
theorem timingLinkLost (die : Nat) (loss : TimingLoss) : Statement (.timingLinkLost die loss) := no_uop _ rfl
theorem nack (die : Nat) : Statement (.nack die) := no_uop _ rfl
theorem swap (target : BitVec 48) : Statement (.swap target) := no_uop _ rfl
theorem withhold (target : BitVec 48) : Statement (.withhold target) := no_uop _ rfl
theorem armAnswer (die : Nat) (ready : Bool) : Statement (.armAnswer die ready) := no_uop _ rfl
theorem armTimeout : Statement .armTimeout := no_uop _ rfl
theorem swapAtTarget : Statement .swapAtTarget := no_uop _ rfl
theorem timerFire (fn timer : Nat) : Statement (.timerFire fn timer) := no_uop _ rfl
theorem axustFrameReceive (die port : Nat) (frame : FrameIn) : Statement (.axustFrameReceive die port frame) := no_uop _ rfl
theorem replayTimeout (die port : Nat) (due : ReplayDue) : Statement (.replayTimeout die port due) := no_uop _ rfl
theorem linkFault (die port : Nat) (env : LadderEnv) (rep : RepairEnv) : Statement (.linkFault die port env rep) := no_uop _ rfl
theorem rawFlitReceive (die port : Nat) (payload : List Byte) (header tail : BitVec 128) :
    Statement (.rawFlitReceive die port payload header tail) := no_uop _ rfl
theorem retrainRequest (die port : Nat) (kind : SideReq) (met : RequestMet) : Statement (.retrainRequest die port kind met) := no_uop _ rfl
theorem keepaliveLost (die port : Nat) : Statement (.keepaliveLost die port) := no_uop _ rfl
theorem standbyCheck (die port : Nat) (found : StandbyFind) : Statement (.standbyCheck die port found) := no_uop _ rfl
theorem memRead (paddr : BitVec 34) (rank : W16) (cls : BitVec 4) (read : ReadIn) : Statement (.memRead paddr rank cls read) := no_uop _ rfl
theorem memWrite (paddr : BitVec 34) (mask : BitVec 4) (data : List Byte) : Statement (.memWrite paddr mask data) := no_uop _ rfl
theorem stackOut (course col : Nat) (cause : StackCause) (env : RepairEnv) : Statement (.stackOut course col cause env) := no_uop _ rfl
theorem scrubVisit (visit : ScrubStep) : Statement (.scrubVisit visit) := no_uop _ rfl
theorem refreshRateChange (course col : Nat) (temp : Nat) : Statement (.refreshRateChange course col temp) := no_uop _ rfl
theorem stackRebuildDone (course col : Nat) : Statement (.stackRebuildDone course col) := no_uop _ rfl
theorem coldReset (env : CastOnEnv) : Statement (.coldReset env) := no_uop _ rfl
theorem panelRstAssert : Statement .panelRstAssert := no_uop _ rfl
theorem warmReset (env : CastOnEnv) : Statement (.warmReset env) := no_uop _ rfl
theorem coursePowerTimeout (course : Nat) : Statement (.coursePowerTimeout course) := no_uop _ rfl
theorem backoffExpiry (env : CastOnEnv) : Statement (.backoffExpiry env) := no_uop _ rfl
theorem flashHandoverTimeout : Statement .flashHandoverTimeout := no_uop _ rfl
theorem anchorTakeover (cause : TakeoverCause) : Statement (.anchorTakeover cause) := no_uop _ rfl
theorem herusBindOff : Statement .herusBindOff := no_uop _ rfl
theorem clusterOvercurrent (course wale clu : Nat) (env : RepairEnv) : Statement (.clusterOvercurrent course wale clu env) := no_uop _ rfl
theorem regulatorFault (course wale clu : Nat) (kind : RegFault) (env : RepairEnv) : Statement (.regulatorFault course wale clu kind env) := no_uop _ rfl
theorem dieSilent (course wale : Nat) (env : RepairEnv) : Statement (.dieSilent course wale env) := no_uop _ rfl
theorem courseLoss (course : Nat) (cause : CourseCause) (env : RepairEnv) : Statement (.courseLoss course cause env) := no_uop _ rfl
theorem healthScoring (minute : Nat) : Statement (.healthScoring minute) := no_uop _ rfl
theorem pwrWarnAssert : Statement .pwrWarnAssert := no_uop _ rfl
theorem pwrWarnDeassert : Statement .pwrWarnDeassert := no_uop _ rfl
theorem forcedLeanPoint : Statement .forcedLeanPoint := no_uop _ rfl
theorem pwrGoodDeassert (course : Nat) (ns : Nat) (railsOk : Bool) (env : RepairEnv) : Statement (.pwrGoodDeassert course ns railsOk env) := no_uop _ rfl
theorem courseCurrentLimit (course : Nat) (m : CourseMonitor) (env : RepairEnv) : Statement (.courseCurrentLimit course m env) := no_uop _ rfl
theorem memoryRailFault (course : Nat) (rail : MemRail) (env : RepairEnv) : Statement (.memoryRailFault course rail env) := no_uop _ rfl
theorem ringSupplyLoss : Statement .ringSupplyLoss := no_uop _ rfl
theorem refclkLoss (die : Nat) : Statement (.refclkLoss die) := no_uop _ rfl
theorem marginTrim (warns : List (Nat × Nat)) : Statement (.marginTrim warns) := no_uop _ rfl
theorem capControl (d : Draws) : Statement (.capControl d) := no_uop _ rfl
theorem throttleStep (temps : List (Nat × Nat)) (raise : Bool) : Statement (.throttleStep temps raise) := no_uop _ rfl
theorem thermalTrip (die temp : Nat) : Statement (.thermalTrip die temp) := no_uop _ rfl
theorem resistanceMeasure (compPower memPower : Nat) (hotC hotM : Nat) (steadyC steadyM : Bool) : Statement (.resistanceMeasure compPower memPower hotC hotM steadyC steadyM) := no_uop _ rfl
theorem thermalCycleSample (temps : List (Nat × Nat)) : Statement (.thermalCycleSample temps) := no_uop _ rfl
theorem healthFlashWrite : Statement .healthFlashWrite := no_uop _ rfl
theorem setEndpointId (eid : Byte) : Statement (.setEndpointId eid) := no_uop _ rfl
theorem getEndpointId : Statement .getEndpointId := no_uop _ rfl
theorem getMctpVersionSupport : Statement .getMctpVersionSupport := no_uop _ rfl
theorem getMessageTypeSupport : Statement .getMessageTypeSupport := no_uop _ rfl
theorem getState : Statement .getState := no_uop _ rfl
theorem getPower : Statement .getPower := no_uop _ rfl
theorem getTime : Statement .getTime := no_uop _ rfl
theorem getFault : Statement .getFault := no_uop _ rfl
theorem coolant (tmem tcmp : W16) : Statement (.coolant tmem tcmp) := no_uop _ rfl
theorem bypass (tdi : Bool) : Statement (.bypass tdi) := no_uop _ rfl
theorem samplePreload (pins : List Bool) : Statement (.samplePreload pins) := no_uop _ rfl
theorem extest (pins : List Bool) : Statement (.extest pins) := no_uop _ rfl
theorem pwrGoodAssert (course : Nat) : Statement (.pwrGoodAssert course) := no_uop _ rfl
theorem hostPerstNDeassert (port : Nat) : Statement (.hostPerstNDeassert port) := no_uop _ rfl
theorem standbyAnchorFailure : Statement .standbyAnchorFailure := no_uop _ rfl
theorem soleAnchorFailure : Statement .soleAnchorFailure := no_uop _ rfl
theorem thermAlertChange (env : AlertEnv) : Statement (.thermAlertChange env) := no_uop _ rfl
theorem hostMemoryReadFailed (r : HostRead) : Statement (.hostMemoryReadFailed r) := no_uop _ rfl
theorem vfEnableChange (enable : Bool) (numvfs : Nat) : Statement (.vfEnableChange enable numvfs) := no_uop _ rfl

end Sys2Proof.Laws.Uops
end

