-- ==== Sys2Proof/Laws/State.lean ====
section
/-! SUPPORT. The fields of the state under each named update: its own field takes the new value, every other is as before; and
what each accessor reads after an update of another part. -/

namespace Sys2Proof.Machine

open Sys2Proof

/-! ## modDie -/

section

variable (d : Nat) (f : Die → Die) (s : State)

@[simp] theorem modDie_pending : (modDie d f s).pending = s.pending := rfl
@[simp] theorem modDie_out : (modDie d f s).out = s.out := rfl
@[simp] theorem modDie_free : (modDie d f s).free = s.free := rfl
@[simp] theorem modDie_grid : (modDie d f s).grid = s.grid := rfl
@[simp] theorem modDie_lode : (modDie d f s).lode = s.lode := rfl
@[simp] theorem modDie_dies : (modDie d f s).dies = tabMod {} s.dies d f := rfl
@[simp] theorem modDie_clus : (modDie d f s).clus = s.clus := rfl
@[simp] theorem modDie_nis : (modDie d f s).nis = s.nis := rfl
@[simp] theorem modDie_links : (modDie d f s).links = s.links := rfl
@[simp] theorem modDie_pmem : (modDie d f s).pmem = s.pmem := rfl
@[simp] theorem modDie_flog : (modDie d f s).flog = s.flog := rfl
@[simp] theorem modDie_pat : (modDie d f s).pat = s.pat := rfl
@[simp] theorem modDie_rnd : (modDie d f s).rnd = s.rnd := rfl
@[simp] theorem modDie_sess : (modDie d f s).sess = s.sess := rfl
@[simp] theorem modDie_ten : (modDie d f s).ten = s.ten := rfl
@[simp] theorem modDie_park : (modDie d f s).park = s.park := rfl
@[simp] theorem modDie_intake : (modDie d f s).intake = s.intake := rfl
@[simp] theorem modDie_fns : (modDie d f s).fns = s.fns := rfl
@[simp] theorem modDie_served : (modDie d f s).served = s.served := rfl
@[simp] theorem modDie_swp : (modDie d f s).swp = s.swp := rfl
@[simp] theorem modDie_flash : (modDie d f s).flash = s.flash := rfl
@[simp] theorem modDie_boot : (modDie d f s).boot = s.boot := rfl
@[simp] theorem modDie_hlt : (modDie d f s).hlt = s.hlt := rfl
@[simp] theorem modDie_pwr : (modDie d f s).pwr = s.pwr := rfl
@[simp] theorem modDie_thm : (modDie d f s).thm = s.thm := rfl
@[simp] theorem modDie_pins : (modDie d f s).pins = s.pins := rfl
@[simp] theorem niOf_modDie (x : Nat) : niOf (modDie d f s) x = niOf s x := rfl
@[simp] theorem cluOf_modDie (x y : Nat) : cluOf (modDie d f s) x y = cluOf s x y := rfl
@[simp] theorem linkOf_modDie (x y : Nat) : linkOf (modDie d f s) x y = linkOf s x y := rfl
@[simp] theorem stackOf_modDie (x y : Nat) : stackOf (modDie d f s) x y = stackOf s x y := rfl
@[simp] theorem fnOf_modDie (x : Nat) : fnOf (modDie d f s) x = fnOf s x := rfl
@[simp] theorem tenOf_modDie (x : Nat) : tenOf (modDie d f s) x = tenOf s x := rfl
@[simp] theorem sessOf_modDie (x : Nat) : sessOf (modDie d f s) x = sessOf s x := rfl
@[simp] theorem portOf_modDie (x : Nat) : portOf (modDie d f s) x = portOf s x := rfl
@[simp] theorem poisonOf_modDie (x : Nat) : poisonOf (modDie d f s) x = poisonOf s x := rfl

end

/-! ## modNI -/

section

variable (d : Nat) (f : NI → NI) (s : State)

@[simp] theorem modNI_pending : (modNI d f s).pending = s.pending := rfl
@[simp] theorem modNI_out : (modNI d f s).out = s.out := rfl
@[simp] theorem modNI_free : (modNI d f s).free = s.free := rfl
@[simp] theorem modNI_grid : (modNI d f s).grid = s.grid := rfl
@[simp] theorem modNI_lode : (modNI d f s).lode = s.lode := rfl
@[simp] theorem modNI_dies : (modNI d f s).dies = s.dies := rfl
@[simp] theorem modNI_clus : (modNI d f s).clus = s.clus := rfl
@[simp] theorem modNI_nis : (modNI d f s).nis = tabMod {} s.nis d f := rfl
@[simp] theorem modNI_links : (modNI d f s).links = s.links := rfl
@[simp] theorem modNI_pmem : (modNI d f s).pmem = s.pmem := rfl
@[simp] theorem modNI_flog : (modNI d f s).flog = s.flog := rfl
@[simp] theorem modNI_pat : (modNI d f s).pat = s.pat := rfl
@[simp] theorem modNI_rnd : (modNI d f s).rnd = s.rnd := rfl
@[simp] theorem modNI_sess : (modNI d f s).sess = s.sess := rfl
@[simp] theorem modNI_ten : (modNI d f s).ten = s.ten := rfl
@[simp] theorem modNI_park : (modNI d f s).park = s.park := rfl
@[simp] theorem modNI_intake : (modNI d f s).intake = s.intake := rfl
@[simp] theorem modNI_fns : (modNI d f s).fns = s.fns := rfl
@[simp] theorem modNI_served : (modNI d f s).served = s.served := rfl
@[simp] theorem modNI_swp : (modNI d f s).swp = s.swp := rfl
@[simp] theorem modNI_flash : (modNI d f s).flash = s.flash := rfl
@[simp] theorem modNI_boot : (modNI d f s).boot = s.boot := rfl
@[simp] theorem modNI_hlt : (modNI d f s).hlt = s.hlt := rfl
@[simp] theorem modNI_pwr : (modNI d f s).pwr = s.pwr := rfl
@[simp] theorem modNI_thm : (modNI d f s).thm = s.thm := rfl
@[simp] theorem modNI_pins : (modNI d f s).pins = s.pins := rfl
@[simp] theorem dieOf_modNI (x : Nat) : dieOf (modNI d f s) x = dieOf s x := rfl
@[simp] theorem cluOf_modNI (x y : Nat) : cluOf (modNI d f s) x y = cluOf s x y := rfl
@[simp] theorem linkOf_modNI (x y : Nat) : linkOf (modNI d f s) x y = linkOf s x y := rfl
@[simp] theorem stackOf_modNI (x y : Nat) : stackOf (modNI d f s) x y = stackOf s x y := rfl
@[simp] theorem fnOf_modNI (x : Nat) : fnOf (modNI d f s) x = fnOf s x := rfl
@[simp] theorem tenOf_modNI (x : Nat) : tenOf (modNI d f s) x = tenOf s x := rfl
@[simp] theorem sessOf_modNI (x : Nat) : sessOf (modNI d f s) x = sessOf s x := rfl
@[simp] theorem portOf_modNI (x : Nat) : portOf (modNI d f s) x = portOf s x := rfl
@[simp] theorem poisonOf_modNI (x : Nat) : poisonOf (modNI d f s) x = poisonOf s x := rfl

end

/-! ## modClu -/

section

variable (d k : Nat) (f : Cluster → Cluster) (s : State)

@[simp] theorem modClu_pending : (modClu d k f s).pending = s.pending := rfl
@[simp] theorem modClu_out : (modClu d k f s).out = s.out := rfl
@[simp] theorem modClu_free : (modClu d k f s).free = s.free := rfl
@[simp] theorem modClu_grid : (modClu d k f s).grid = s.grid := rfl
@[simp] theorem modClu_lode : (modClu d k f s).lode = s.lode := rfl
@[simp] theorem modClu_dies : (modClu d k f s).dies = s.dies := rfl
@[simp] theorem modClu_clus : (modClu d k f s).clus = tabMod {} s.clus (d * 4 + k) f := rfl
@[simp] theorem modClu_nis : (modClu d k f s).nis = s.nis := rfl
@[simp] theorem modClu_links : (modClu d k f s).links = s.links := rfl
@[simp] theorem modClu_pmem : (modClu d k f s).pmem = s.pmem := rfl
@[simp] theorem modClu_flog : (modClu d k f s).flog = s.flog := rfl
@[simp] theorem modClu_pat : (modClu d k f s).pat = s.pat := rfl
@[simp] theorem modClu_rnd : (modClu d k f s).rnd = s.rnd := rfl
@[simp] theorem modClu_sess : (modClu d k f s).sess = s.sess := rfl
@[simp] theorem modClu_ten : (modClu d k f s).ten = s.ten := rfl
@[simp] theorem modClu_park : (modClu d k f s).park = s.park := rfl
@[simp] theorem modClu_intake : (modClu d k f s).intake = s.intake := rfl
@[simp] theorem modClu_fns : (modClu d k f s).fns = s.fns := rfl
@[simp] theorem modClu_served : (modClu d k f s).served = s.served := rfl
@[simp] theorem modClu_swp : (modClu d k f s).swp = s.swp := rfl
@[simp] theorem modClu_flash : (modClu d k f s).flash = s.flash := rfl
@[simp] theorem modClu_boot : (modClu d k f s).boot = s.boot := rfl
@[simp] theorem modClu_hlt : (modClu d k f s).hlt = s.hlt := rfl
@[simp] theorem modClu_pwr : (modClu d k f s).pwr = s.pwr := rfl
@[simp] theorem modClu_thm : (modClu d k f s).thm = s.thm := rfl
@[simp] theorem modClu_pins : (modClu d k f s).pins = s.pins := rfl
@[simp] theorem dieOf_modClu (x : Nat) : dieOf (modClu d k f s) x = dieOf s x := rfl
@[simp] theorem niOf_modClu (x : Nat) : niOf (modClu d k f s) x = niOf s x := rfl
@[simp] theorem linkOf_modClu (x y : Nat) : linkOf (modClu d k f s) x y = linkOf s x y := rfl
@[simp] theorem stackOf_modClu (x y : Nat) : stackOf (modClu d k f s) x y = stackOf s x y := rfl
@[simp] theorem fnOf_modClu (x : Nat) : fnOf (modClu d k f s) x = fnOf s x := rfl
@[simp] theorem tenOf_modClu (x : Nat) : tenOf (modClu d k f s) x = tenOf s x := rfl
@[simp] theorem sessOf_modClu (x : Nat) : sessOf (modClu d k f s) x = sessOf s x := rfl
@[simp] theorem portOf_modClu (x : Nat) : portOf (modClu d k f s) x = portOf s x := rfl
@[simp] theorem poisonOf_modClu (x : Nat) : poisonOf (modClu d k f s) x = poisonOf s x := rfl

end

/-! ## modLink -/

section

variable (d p : Nat) (f : Link → Link) (s : State)

@[simp] theorem modLink_pending : (modLink d p f s).pending = s.pending := rfl
@[simp] theorem modLink_out : (modLink d p f s).out = s.out := rfl
@[simp] theorem modLink_free : (modLink d p f s).free = s.free := rfl
@[simp] theorem modLink_grid : (modLink d p f s).grid = s.grid := rfl
@[simp] theorem modLink_lode : (modLink d p f s).lode = s.lode := rfl
@[simp] theorem modLink_dies : (modLink d p f s).dies = s.dies := rfl
@[simp] theorem modLink_clus : (modLink d p f s).clus = s.clus := rfl
@[simp] theorem modLink_nis : (modLink d p f s).nis = s.nis := rfl
@[simp] theorem modLink_links : (modLink d p f s).links = tabMod {} s.links (linkKey d p) f := rfl
@[simp] theorem modLink_pmem : (modLink d p f s).pmem = s.pmem := rfl
@[simp] theorem modLink_flog : (modLink d p f s).flog = s.flog := rfl
@[simp] theorem modLink_pat : (modLink d p f s).pat = s.pat := rfl
@[simp] theorem modLink_rnd : (modLink d p f s).rnd = s.rnd := rfl
@[simp] theorem modLink_sess : (modLink d p f s).sess = s.sess := rfl
@[simp] theorem modLink_ten : (modLink d p f s).ten = s.ten := rfl
@[simp] theorem modLink_park : (modLink d p f s).park = s.park := rfl
@[simp] theorem modLink_intake : (modLink d p f s).intake = s.intake := rfl
@[simp] theorem modLink_fns : (modLink d p f s).fns = s.fns := rfl
@[simp] theorem modLink_served : (modLink d p f s).served = s.served := rfl
@[simp] theorem modLink_swp : (modLink d p f s).swp = s.swp := rfl
@[simp] theorem modLink_flash : (modLink d p f s).flash = s.flash := rfl
@[simp] theorem modLink_boot : (modLink d p f s).boot = s.boot := rfl
@[simp] theorem modLink_hlt : (modLink d p f s).hlt = s.hlt := rfl
@[simp] theorem modLink_pwr : (modLink d p f s).pwr = s.pwr := rfl
@[simp] theorem modLink_thm : (modLink d p f s).thm = s.thm := rfl
@[simp] theorem modLink_pins : (modLink d p f s).pins = s.pins := rfl
@[simp] theorem dieOf_modLink (x : Nat) : dieOf (modLink d p f s) x = dieOf s x := rfl
@[simp] theorem niOf_modLink (x : Nat) : niOf (modLink d p f s) x = niOf s x := rfl
@[simp] theorem cluOf_modLink (x y : Nat) : cluOf (modLink d p f s) x y = cluOf s x y := rfl
@[simp] theorem stackOf_modLink (x y : Nat) : stackOf (modLink d p f s) x y = stackOf s x y := rfl
@[simp] theorem fnOf_modLink (x : Nat) : fnOf (modLink d p f s) x = fnOf s x := rfl
@[simp] theorem tenOf_modLink (x : Nat) : tenOf (modLink d p f s) x = tenOf s x := rfl
@[simp] theorem sessOf_modLink (x : Nat) : sessOf (modLink d p f s) x = sessOf s x := rfl
@[simp] theorem portOf_modLink (x : Nat) : portOf (modLink d p f s) x = portOf s x := rfl
@[simp] theorem poisonOf_modLink (x : Nat) : poisonOf (modLink d p f s) x = poisonOf s x := rfl

end

/-! ## modStack -/

section

variable (c m : Nat) (f : Stack → Stack) (s : State)

@[simp] theorem modStack_pending : (modStack c m f s).pending = s.pending := rfl
@[simp] theorem modStack_out : (modStack c m f s).out = s.out := rfl
@[simp] theorem modStack_free : (modStack c m f s).free = s.free := rfl
@[simp] theorem modStack_grid : (modStack c m f s).grid = s.grid := rfl
@[simp] theorem modStack_lode : (modStack c m f s).lode = s.lode := rfl
@[simp] theorem modStack_dies : (modStack c m f s).dies = s.dies := rfl
@[simp] theorem modStack_clus : (modStack c m f s).clus = s.clus := rfl
@[simp] theorem modStack_nis : (modStack c m f s).nis = s.nis := rfl
@[simp] theorem modStack_links : (modStack c m f s).links = s.links := rfl
@[simp] theorem modStack_pmem : (modStack c m f s).pmem = { s.pmem with stk := tabMod {} s.pmem.stk (6 * c + m) f } := rfl
@[simp] theorem modStack_flog : (modStack c m f s).flog = s.flog := rfl
@[simp] theorem modStack_pat : (modStack c m f s).pat = s.pat := rfl
@[simp] theorem modStack_rnd : (modStack c m f s).rnd = s.rnd := rfl
@[simp] theorem modStack_sess : (modStack c m f s).sess = s.sess := rfl
@[simp] theorem modStack_ten : (modStack c m f s).ten = s.ten := rfl
@[simp] theorem modStack_park : (modStack c m f s).park = s.park := rfl
@[simp] theorem modStack_intake : (modStack c m f s).intake = s.intake := rfl
@[simp] theorem modStack_fns : (modStack c m f s).fns = s.fns := rfl
@[simp] theorem modStack_served : (modStack c m f s).served = s.served := rfl
@[simp] theorem modStack_swp : (modStack c m f s).swp = s.swp := rfl
@[simp] theorem modStack_flash : (modStack c m f s).flash = s.flash := rfl
@[simp] theorem modStack_boot : (modStack c m f s).boot = s.boot := rfl
@[simp] theorem modStack_hlt : (modStack c m f s).hlt = s.hlt := rfl
@[simp] theorem modStack_pwr : (modStack c m f s).pwr = s.pwr := rfl
@[simp] theorem modStack_thm : (modStack c m f s).thm = s.thm := rfl
@[simp] theorem modStack_pins : (modStack c m f s).pins = s.pins := rfl
@[simp] theorem dieOf_modStack (x : Nat) : dieOf (modStack c m f s) x = dieOf s x := rfl
@[simp] theorem niOf_modStack (x : Nat) : niOf (modStack c m f s) x = niOf s x := rfl
@[simp] theorem cluOf_modStack (x y : Nat) : cluOf (modStack c m f s) x y = cluOf s x y := rfl
@[simp] theorem linkOf_modStack (x y : Nat) : linkOf (modStack c m f s) x y = linkOf s x y := rfl
@[simp] theorem fnOf_modStack (x : Nat) : fnOf (modStack c m f s) x = fnOf s x := rfl
@[simp] theorem tenOf_modStack (x : Nat) : tenOf (modStack c m f s) x = tenOf s x := rfl
@[simp] theorem sessOf_modStack (x : Nat) : sessOf (modStack c m f s) x = sessOf s x := rfl
@[simp] theorem portOf_modStack (x : Nat) : portOf (modStack c m f s) x = portOf s x := rfl
@[simp] theorem poisonOf_modStack (x : Nat) : poisonOf (modStack c m f s) x = poisonOf s x := rfl

end

/-! ## emit -/

section

variable (e : Emission) (s : State)

@[simp] theorem emit_pending : (emit e s).pending = s.pending := rfl
@[simp] theorem emit_out : (emit e s).out = e :: s.out := rfl
@[simp] theorem emit_free : (emit e s).free = s.free := rfl
@[simp] theorem emit_grid : (emit e s).grid = s.grid := rfl
@[simp] theorem emit_lode : (emit e s).lode = s.lode := rfl
@[simp] theorem emit_dies : (emit e s).dies = s.dies := rfl
@[simp] theorem emit_clus : (emit e s).clus = s.clus := rfl
@[simp] theorem emit_nis : (emit e s).nis = s.nis := rfl
@[simp] theorem emit_links : (emit e s).links = s.links := rfl
@[simp] theorem emit_pmem : (emit e s).pmem = s.pmem := rfl
@[simp] theorem emit_flog : (emit e s).flog = s.flog := rfl
@[simp] theorem emit_pat : (emit e s).pat = s.pat := rfl
@[simp] theorem emit_rnd : (emit e s).rnd = s.rnd := rfl
@[simp] theorem emit_sess : (emit e s).sess = s.sess := rfl
@[simp] theorem emit_ten : (emit e s).ten = s.ten := rfl
@[simp] theorem emit_park : (emit e s).park = s.park := rfl
@[simp] theorem emit_intake : (emit e s).intake = s.intake := rfl
@[simp] theorem emit_fns : (emit e s).fns = s.fns := rfl
@[simp] theorem emit_served : (emit e s).served = s.served := rfl
@[simp] theorem emit_swp : (emit e s).swp = s.swp := rfl
@[simp] theorem emit_flash : (emit e s).flash = s.flash := rfl
@[simp] theorem emit_boot : (emit e s).boot = s.boot := rfl
@[simp] theorem emit_hlt : (emit e s).hlt = s.hlt := rfl
@[simp] theorem emit_pwr : (emit e s).pwr = s.pwr := rfl
@[simp] theorem emit_thm : (emit e s).thm = s.thm := rfl
@[simp] theorem emit_pins : (emit e s).pins = s.pins := rfl
@[simp] theorem dieOf_emit (x : Nat) : dieOf (emit e s) x = dieOf s x := rfl
@[simp] theorem niOf_emit (x : Nat) : niOf (emit e s) x = niOf s x := rfl
@[simp] theorem cluOf_emit (x y : Nat) : cluOf (emit e s) x y = cluOf s x y := rfl
@[simp] theorem linkOf_emit (x y : Nat) : linkOf (emit e s) x y = linkOf s x y := rfl
@[simp] theorem stackOf_emit (x y : Nat) : stackOf (emit e s) x y = stackOf s x y := rfl
@[simp] theorem fnOf_emit (x : Nat) : fnOf (emit e s) x = fnOf s x := rfl
@[simp] theorem tenOf_emit (x : Nat) : tenOf (emit e s) x = tenOf s x := rfl
@[simp] theorem sessOf_emit (x : Nat) : sessOf (emit e s) x = sessOf s x := rfl
@[simp] theorem portOf_emit (x : Nat) : portOf (emit e s) x = portOf s x := rfl
@[simp] theorem poisonOf_emit (x : Nat) : poisonOf (emit e s) x = poisonOf s x := rfl

end

/-! ## modFn -/

section

variable (f : Nat) (g : Func → Func) (s : State)

@[simp] theorem modFn_pending : (modFn f g s).pending = s.pending := rfl
@[simp] theorem modFn_out : (modFn f g s).out = s.out := rfl
@[simp] theorem modFn_free : (modFn f g s).free = s.free := rfl
@[simp] theorem modFn_grid : (modFn f g s).grid = s.grid := rfl
@[simp] theorem modFn_lode : (modFn f g s).lode = s.lode := rfl
@[simp] theorem modFn_dies : (modFn f g s).dies = s.dies := rfl
@[simp] theorem modFn_clus : (modFn f g s).clus = s.clus := rfl
@[simp] theorem modFn_nis : (modFn f g s).nis = s.nis := rfl
@[simp] theorem modFn_links : (modFn f g s).links = s.links := rfl
@[simp] theorem modFn_pmem : (modFn f g s).pmem = s.pmem := rfl
@[simp] theorem modFn_flog : (modFn f g s).flog = s.flog := rfl
@[simp] theorem modFn_pat : (modFn f g s).pat = s.pat := rfl
@[simp] theorem modFn_rnd : (modFn f g s).rnd = s.rnd := rfl
@[simp] theorem modFn_sess : (modFn f g s).sess = s.sess := rfl
@[simp] theorem modFn_ten : (modFn f g s).ten = s.ten := rfl
@[simp] theorem modFn_park : (modFn f g s).park = s.park := rfl
@[simp] theorem modFn_intake : (modFn f g s).intake = s.intake := rfl
@[simp] theorem modFn_fns : (modFn f g s).fns = tabMod {} s.fns f g := rfl
@[simp] theorem modFn_served : (modFn f g s).served = s.served := rfl
@[simp] theorem modFn_swp : (modFn f g s).swp = s.swp := rfl
@[simp] theorem modFn_flash : (modFn f g s).flash = s.flash := rfl
@[simp] theorem modFn_boot : (modFn f g s).boot = s.boot := rfl
@[simp] theorem modFn_hlt : (modFn f g s).hlt = s.hlt := rfl
@[simp] theorem modFn_pwr : (modFn f g s).pwr = s.pwr := rfl
@[simp] theorem modFn_thm : (modFn f g s).thm = s.thm := rfl
@[simp] theorem modFn_pins : (modFn f g s).pins = s.pins := rfl
@[simp] theorem dieOf_modFn (x : Nat) : dieOf (modFn f g s) x = dieOf s x := rfl
@[simp] theorem niOf_modFn (x : Nat) : niOf (modFn f g s) x = niOf s x := rfl
@[simp] theorem cluOf_modFn (x y : Nat) : cluOf (modFn f g s) x y = cluOf s x y := rfl
@[simp] theorem linkOf_modFn (x y : Nat) : linkOf (modFn f g s) x y = linkOf s x y := rfl
@[simp] theorem stackOf_modFn (x y : Nat) : stackOf (modFn f g s) x y = stackOf s x y := rfl
@[simp] theorem tenOf_modFn (x : Nat) : tenOf (modFn f g s) x = tenOf s x := rfl
@[simp] theorem sessOf_modFn (x : Nat) : sessOf (modFn f g s) x = sessOf s x := rfl
@[simp] theorem portOf_modFn (x : Nat) : portOf (modFn f g s) x = portOf s x := rfl
@[simp] theorem poisonOf_modFn (x : Nat) : poisonOf (modFn f g s) x = poisonOf s x := rfl

end

/-! ## modTen -/

section

variable (t : Nat) (g : Tenant → Tenant) (s : State)

@[simp] theorem modTen_pending : (modTen t g s).pending = s.pending := rfl
@[simp] theorem modTen_out : (modTen t g s).out = s.out := rfl
@[simp] theorem modTen_free : (modTen t g s).free = s.free := rfl
@[simp] theorem modTen_grid : (modTen t g s).grid = s.grid := rfl
@[simp] theorem modTen_lode : (modTen t g s).lode = s.lode := rfl
@[simp] theorem modTen_dies : (modTen t g s).dies = s.dies := rfl
@[simp] theorem modTen_clus : (modTen t g s).clus = s.clus := rfl
@[simp] theorem modTen_nis : (modTen t g s).nis = s.nis := rfl
@[simp] theorem modTen_links : (modTen t g s).links = s.links := rfl
@[simp] theorem modTen_pmem : (modTen t g s).pmem = s.pmem := rfl
@[simp] theorem modTen_flog : (modTen t g s).flog = s.flog := rfl
@[simp] theorem modTen_pat : (modTen t g s).pat = s.pat := rfl
@[simp] theorem modTen_rnd : (modTen t g s).rnd = s.rnd := rfl
@[simp] theorem modTen_sess : (modTen t g s).sess = s.sess := rfl
@[simp] theorem modTen_ten : (modTen t g s).ten = tabMod {} s.ten t g := rfl
@[simp] theorem modTen_park : (modTen t g s).park = s.park := rfl
@[simp] theorem modTen_intake : (modTen t g s).intake = s.intake := rfl
@[simp] theorem modTen_fns : (modTen t g s).fns = s.fns := rfl
@[simp] theorem modTen_served : (modTen t g s).served = s.served := rfl
@[simp] theorem modTen_swp : (modTen t g s).swp = s.swp := rfl
@[simp] theorem modTen_flash : (modTen t g s).flash = s.flash := rfl
@[simp] theorem modTen_boot : (modTen t g s).boot = s.boot := rfl
@[simp] theorem modTen_hlt : (modTen t g s).hlt = s.hlt := rfl
@[simp] theorem modTen_pwr : (modTen t g s).pwr = s.pwr := rfl
@[simp] theorem modTen_thm : (modTen t g s).thm = s.thm := rfl
@[simp] theorem modTen_pins : (modTen t g s).pins = s.pins := rfl
@[simp] theorem dieOf_modTen (x : Nat) : dieOf (modTen t g s) x = dieOf s x := rfl
@[simp] theorem niOf_modTen (x : Nat) : niOf (modTen t g s) x = niOf s x := rfl
@[simp] theorem cluOf_modTen (x y : Nat) : cluOf (modTen t g s) x y = cluOf s x y := rfl
@[simp] theorem linkOf_modTen (x y : Nat) : linkOf (modTen t g s) x y = linkOf s x y := rfl
@[simp] theorem stackOf_modTen (x y : Nat) : stackOf (modTen t g s) x y = stackOf s x y := rfl
@[simp] theorem fnOf_modTen (x : Nat) : fnOf (modTen t g s) x = fnOf s x := rfl
@[simp] theorem sessOf_modTen (x : Nat) : sessOf (modTen t g s) x = sessOf s x := rfl
@[simp] theorem portOf_modTen (x : Nat) : portOf (modTen t g s) x = portOf s x := rfl
@[simp] theorem poisonOf_modTen (x : Nat) : poisonOf (modTen t g s) x = poisonOf s x := rfl

end

/-! ## modRnd -/

section

variable (g : Round → Round) (s : State)

@[simp] theorem modRnd_pending : (modRnd g s).pending = s.pending := rfl
@[simp] theorem modRnd_out : (modRnd g s).out = s.out := rfl
@[simp] theorem modRnd_free : (modRnd g s).free = s.free := rfl
@[simp] theorem modRnd_grid : (modRnd g s).grid = s.grid := rfl
@[simp] theorem modRnd_lode : (modRnd g s).lode = s.lode := rfl
@[simp] theorem modRnd_dies : (modRnd g s).dies = s.dies := rfl
@[simp] theorem modRnd_clus : (modRnd g s).clus = s.clus := rfl
@[simp] theorem modRnd_nis : (modRnd g s).nis = s.nis := rfl
@[simp] theorem modRnd_links : (modRnd g s).links = s.links := rfl
@[simp] theorem modRnd_pmem : (modRnd g s).pmem = s.pmem := rfl
@[simp] theorem modRnd_flog : (modRnd g s).flog = s.flog := rfl
@[simp] theorem modRnd_pat : (modRnd g s).pat = s.pat := rfl
@[simp] theorem modRnd_rnd : (modRnd g s).rnd = g s.rnd := rfl
@[simp] theorem modRnd_sess : (modRnd g s).sess = s.sess := rfl
@[simp] theorem modRnd_ten : (modRnd g s).ten = s.ten := rfl
@[simp] theorem modRnd_park : (modRnd g s).park = s.park := rfl
@[simp] theorem modRnd_intake : (modRnd g s).intake = s.intake := rfl
@[simp] theorem modRnd_fns : (modRnd g s).fns = s.fns := rfl
@[simp] theorem modRnd_served : (modRnd g s).served = s.served := rfl
@[simp] theorem modRnd_swp : (modRnd g s).swp = s.swp := rfl
@[simp] theorem modRnd_flash : (modRnd g s).flash = s.flash := rfl
@[simp] theorem modRnd_boot : (modRnd g s).boot = s.boot := rfl
@[simp] theorem modRnd_hlt : (modRnd g s).hlt = s.hlt := rfl
@[simp] theorem modRnd_pwr : (modRnd g s).pwr = s.pwr := rfl
@[simp] theorem modRnd_thm : (modRnd g s).thm = s.thm := rfl
@[simp] theorem modRnd_pins : (modRnd g s).pins = s.pins := rfl
@[simp] theorem dieOf_modRnd (x : Nat) : dieOf (modRnd g s) x = dieOf s x := rfl
@[simp] theorem niOf_modRnd (x : Nat) : niOf (modRnd g s) x = niOf s x := rfl
@[simp] theorem cluOf_modRnd (x y : Nat) : cluOf (modRnd g s) x y = cluOf s x y := rfl
@[simp] theorem linkOf_modRnd (x y : Nat) : linkOf (modRnd g s) x y = linkOf s x y := rfl
@[simp] theorem stackOf_modRnd (x y : Nat) : stackOf (modRnd g s) x y = stackOf s x y := rfl
@[simp] theorem fnOf_modRnd (x : Nat) : fnOf (modRnd g s) x = fnOf s x := rfl
@[simp] theorem tenOf_modRnd (x : Nat) : tenOf (modRnd g s) x = tenOf s x := rfl
@[simp] theorem sessOf_modRnd (x : Nat) : sessOf (modRnd g s) x = sessOf s x := rfl
@[simp] theorem portOf_modRnd (x : Nat) : portOf (modRnd g s) x = portOf s x := rfl
@[simp] theorem poisonOf_modRnd (x : Nat) : poisonOf (modRnd g s) x = poisonOf s x := rfl

end

/-! ## modBoot -/

section

variable (g : Boot → Boot) (s : State)

@[simp] theorem modBoot_pending : (modBoot g s).pending = s.pending := rfl
@[simp] theorem modBoot_out : (modBoot g s).out = s.out := rfl
@[simp] theorem modBoot_free : (modBoot g s).free = s.free := rfl
@[simp] theorem modBoot_grid : (modBoot g s).grid = s.grid := rfl
@[simp] theorem modBoot_lode : (modBoot g s).lode = s.lode := rfl
@[simp] theorem modBoot_dies : (modBoot g s).dies = s.dies := rfl
@[simp] theorem modBoot_clus : (modBoot g s).clus = s.clus := rfl
@[simp] theorem modBoot_nis : (modBoot g s).nis = s.nis := rfl
@[simp] theorem modBoot_links : (modBoot g s).links = s.links := rfl
@[simp] theorem modBoot_pmem : (modBoot g s).pmem = s.pmem := rfl
@[simp] theorem modBoot_flog : (modBoot g s).flog = s.flog := rfl
@[simp] theorem modBoot_pat : (modBoot g s).pat = s.pat := rfl
@[simp] theorem modBoot_rnd : (modBoot g s).rnd = s.rnd := rfl
@[simp] theorem modBoot_sess : (modBoot g s).sess = s.sess := rfl
@[simp] theorem modBoot_ten : (modBoot g s).ten = s.ten := rfl
@[simp] theorem modBoot_park : (modBoot g s).park = s.park := rfl
@[simp] theorem modBoot_intake : (modBoot g s).intake = s.intake := rfl
@[simp] theorem modBoot_fns : (modBoot g s).fns = s.fns := rfl
@[simp] theorem modBoot_served : (modBoot g s).served = s.served := rfl
@[simp] theorem modBoot_swp : (modBoot g s).swp = s.swp := rfl
@[simp] theorem modBoot_flash : (modBoot g s).flash = s.flash := rfl
@[simp] theorem modBoot_boot : (modBoot g s).boot = g s.boot := rfl
@[simp] theorem modBoot_hlt : (modBoot g s).hlt = s.hlt := rfl
@[simp] theorem modBoot_pwr : (modBoot g s).pwr = s.pwr := rfl
@[simp] theorem modBoot_thm : (modBoot g s).thm = s.thm := rfl
@[simp] theorem modBoot_pins : (modBoot g s).pins = s.pins := rfl
@[simp] theorem dieOf_modBoot (x : Nat) : dieOf (modBoot g s) x = dieOf s x := rfl
@[simp] theorem niOf_modBoot (x : Nat) : niOf (modBoot g s) x = niOf s x := rfl
@[simp] theorem cluOf_modBoot (x y : Nat) : cluOf (modBoot g s) x y = cluOf s x y := rfl
@[simp] theorem linkOf_modBoot (x y : Nat) : linkOf (modBoot g s) x y = linkOf s x y := rfl
@[simp] theorem stackOf_modBoot (x y : Nat) : stackOf (modBoot g s) x y = stackOf s x y := rfl
@[simp] theorem fnOf_modBoot (x : Nat) : fnOf (modBoot g s) x = fnOf s x := rfl
@[simp] theorem tenOf_modBoot (x : Nat) : tenOf (modBoot g s) x = tenOf s x := rfl
@[simp] theorem sessOf_modBoot (x : Nat) : sessOf (modBoot g s) x = sessOf s x := rfl
@[simp] theorem portOf_modBoot (x : Nat) : portOf (modBoot g s) x = portOf s x := rfl
@[simp] theorem poisonOf_modBoot (x : Nat) : poisonOf (modBoot g s) x = poisonOf s x := rfl

end

/-! ## modPat -/

section

variable (g : Pattern → Pattern) (s : State)

@[simp] theorem modPat_pending : (modPat g s).pending = s.pending := rfl
@[simp] theorem modPat_out : (modPat g s).out = s.out := rfl
@[simp] theorem modPat_free : (modPat g s).free = s.free := rfl
@[simp] theorem modPat_grid : (modPat g s).grid = s.grid := rfl
@[simp] theorem modPat_lode : (modPat g s).lode = s.lode := rfl
@[simp] theorem modPat_dies : (modPat g s).dies = s.dies := rfl
@[simp] theorem modPat_clus : (modPat g s).clus = s.clus := rfl
@[simp] theorem modPat_nis : (modPat g s).nis = s.nis := rfl
@[simp] theorem modPat_links : (modPat g s).links = s.links := rfl
@[simp] theorem modPat_pmem : (modPat g s).pmem = s.pmem := rfl
@[simp] theorem modPat_flog : (modPat g s).flog = s.flog := rfl
@[simp] theorem modPat_pat : (modPat g s).pat = g s.pat := rfl
@[simp] theorem modPat_rnd : (modPat g s).rnd = s.rnd := rfl
@[simp] theorem modPat_sess : (modPat g s).sess = s.sess := rfl
@[simp] theorem modPat_ten : (modPat g s).ten = s.ten := rfl
@[simp] theorem modPat_park : (modPat g s).park = s.park := rfl
@[simp] theorem modPat_intake : (modPat g s).intake = s.intake := rfl
@[simp] theorem modPat_fns : (modPat g s).fns = s.fns := rfl
@[simp] theorem modPat_served : (modPat g s).served = s.served := rfl
@[simp] theorem modPat_swp : (modPat g s).swp = s.swp := rfl
@[simp] theorem modPat_flash : (modPat g s).flash = s.flash := rfl
@[simp] theorem modPat_boot : (modPat g s).boot = s.boot := rfl
@[simp] theorem modPat_hlt : (modPat g s).hlt = s.hlt := rfl
@[simp] theorem modPat_pwr : (modPat g s).pwr = s.pwr := rfl
@[simp] theorem modPat_thm : (modPat g s).thm = s.thm := rfl
@[simp] theorem modPat_pins : (modPat g s).pins = s.pins := rfl
@[simp] theorem dieOf_modPat (x : Nat) : dieOf (modPat g s) x = dieOf s x := rfl
@[simp] theorem niOf_modPat (x : Nat) : niOf (modPat g s) x = niOf s x := rfl
@[simp] theorem cluOf_modPat (x y : Nat) : cluOf (modPat g s) x y = cluOf s x y := rfl
@[simp] theorem linkOf_modPat (x y : Nat) : linkOf (modPat g s) x y = linkOf s x y := rfl
@[simp] theorem stackOf_modPat (x y : Nat) : stackOf (modPat g s) x y = stackOf s x y := rfl
@[simp] theorem fnOf_modPat (x : Nat) : fnOf (modPat g s) x = fnOf s x := rfl
@[simp] theorem tenOf_modPat (x : Nat) : tenOf (modPat g s) x = tenOf s x := rfl
@[simp] theorem sessOf_modPat (x : Nat) : sessOf (modPat g s) x = sessOf s x := rfl
@[simp] theorem portOf_modPat (x : Nat) : portOf (modPat g s) x = portOf s x := rfl
@[simp] theorem poisonOf_modPat (x : Nat) : poisonOf (modPat g s) x = poisonOf s x := rfl

end

/-! ## modPwr -/

section

variable (g : Power → Power) (s : State)

@[simp] theorem modPwr_pending : (modPwr g s).pending = s.pending := rfl
@[simp] theorem modPwr_out : (modPwr g s).out = s.out := rfl
@[simp] theorem modPwr_free : (modPwr g s).free = s.free := rfl
@[simp] theorem modPwr_grid : (modPwr g s).grid = s.grid := rfl
@[simp] theorem modPwr_lode : (modPwr g s).lode = s.lode := rfl
@[simp] theorem modPwr_dies : (modPwr g s).dies = s.dies := rfl
@[simp] theorem modPwr_clus : (modPwr g s).clus = s.clus := rfl
@[simp] theorem modPwr_nis : (modPwr g s).nis = s.nis := rfl
@[simp] theorem modPwr_links : (modPwr g s).links = s.links := rfl
@[simp] theorem modPwr_pmem : (modPwr g s).pmem = s.pmem := rfl
@[simp] theorem modPwr_flog : (modPwr g s).flog = s.flog := rfl
@[simp] theorem modPwr_pat : (modPwr g s).pat = s.pat := rfl
@[simp] theorem modPwr_rnd : (modPwr g s).rnd = s.rnd := rfl
@[simp] theorem modPwr_sess : (modPwr g s).sess = s.sess := rfl
@[simp] theorem modPwr_ten : (modPwr g s).ten = s.ten := rfl
@[simp] theorem modPwr_park : (modPwr g s).park = s.park := rfl
@[simp] theorem modPwr_intake : (modPwr g s).intake = s.intake := rfl
@[simp] theorem modPwr_fns : (modPwr g s).fns = s.fns := rfl
@[simp] theorem modPwr_served : (modPwr g s).served = s.served := rfl
@[simp] theorem modPwr_swp : (modPwr g s).swp = s.swp := rfl
@[simp] theorem modPwr_flash : (modPwr g s).flash = s.flash := rfl
@[simp] theorem modPwr_boot : (modPwr g s).boot = s.boot := rfl
@[simp] theorem modPwr_hlt : (modPwr g s).hlt = s.hlt := rfl
@[simp] theorem modPwr_pwr : (modPwr g s).pwr = g s.pwr := rfl
@[simp] theorem modPwr_thm : (modPwr g s).thm = s.thm := rfl
@[simp] theorem modPwr_pins : (modPwr g s).pins = s.pins := rfl
@[simp] theorem dieOf_modPwr (x : Nat) : dieOf (modPwr g s) x = dieOf s x := rfl
@[simp] theorem niOf_modPwr (x : Nat) : niOf (modPwr g s) x = niOf s x := rfl
@[simp] theorem cluOf_modPwr (x y : Nat) : cluOf (modPwr g s) x y = cluOf s x y := rfl
@[simp] theorem linkOf_modPwr (x y : Nat) : linkOf (modPwr g s) x y = linkOf s x y := rfl
@[simp] theorem stackOf_modPwr (x y : Nat) : stackOf (modPwr g s) x y = stackOf s x y := rfl
@[simp] theorem fnOf_modPwr (x : Nat) : fnOf (modPwr g s) x = fnOf s x := rfl
@[simp] theorem tenOf_modPwr (x : Nat) : tenOf (modPwr g s) x = tenOf s x := rfl
@[simp] theorem sessOf_modPwr (x : Nat) : sessOf (modPwr g s) x = sessOf s x := rfl
@[simp] theorem portOf_modPwr (x : Nat) : portOf (modPwr g s) x = portOf s x := rfl
@[simp] theorem poisonOf_modPwr (x : Nat) : poisonOf (modPwr g s) x = poisonOf s x := rfl

end

/-! ## modGrid -/

section

variable (g : Grid → Grid) (s : State)

@[simp] theorem modGrid_pending : (modGrid g s).pending = s.pending := rfl
@[simp] theorem modGrid_out : (modGrid g s).out = s.out := rfl
@[simp] theorem modGrid_free : (modGrid g s).free = s.free := rfl
@[simp] theorem modGrid_grid : (modGrid g s).grid = g s.grid := rfl
@[simp] theorem modGrid_lode : (modGrid g s).lode = s.lode := rfl
@[simp] theorem modGrid_dies : (modGrid g s).dies = s.dies := rfl
@[simp] theorem modGrid_clus : (modGrid g s).clus = s.clus := rfl
@[simp] theorem modGrid_nis : (modGrid g s).nis = s.nis := rfl
@[simp] theorem modGrid_links : (modGrid g s).links = s.links := rfl
@[simp] theorem modGrid_pmem : (modGrid g s).pmem = s.pmem := rfl
@[simp] theorem modGrid_flog : (modGrid g s).flog = s.flog := rfl
@[simp] theorem modGrid_pat : (modGrid g s).pat = s.pat := rfl
@[simp] theorem modGrid_rnd : (modGrid g s).rnd = s.rnd := rfl
@[simp] theorem modGrid_sess : (modGrid g s).sess = s.sess := rfl
@[simp] theorem modGrid_ten : (modGrid g s).ten = s.ten := rfl
@[simp] theorem modGrid_park : (modGrid g s).park = s.park := rfl
@[simp] theorem modGrid_intake : (modGrid g s).intake = s.intake := rfl
@[simp] theorem modGrid_fns : (modGrid g s).fns = s.fns := rfl
@[simp] theorem modGrid_served : (modGrid g s).served = s.served := rfl
@[simp] theorem modGrid_swp : (modGrid g s).swp = s.swp := rfl
@[simp] theorem modGrid_flash : (modGrid g s).flash = s.flash := rfl
@[simp] theorem modGrid_boot : (modGrid g s).boot = s.boot := rfl
@[simp] theorem modGrid_hlt : (modGrid g s).hlt = s.hlt := rfl
@[simp] theorem modGrid_pwr : (modGrid g s).pwr = s.pwr := rfl
@[simp] theorem modGrid_thm : (modGrid g s).thm = s.thm := rfl
@[simp] theorem modGrid_pins : (modGrid g s).pins = s.pins := rfl
@[simp] theorem dieOf_modGrid (x : Nat) : dieOf (modGrid g s) x = dieOf s x := rfl
@[simp] theorem niOf_modGrid (x : Nat) : niOf (modGrid g s) x = niOf s x := rfl
@[simp] theorem cluOf_modGrid (x y : Nat) : cluOf (modGrid g s) x y = cluOf s x y := rfl
@[simp] theorem linkOf_modGrid (x y : Nat) : linkOf (modGrid g s) x y = linkOf s x y := rfl
@[simp] theorem stackOf_modGrid (x y : Nat) : stackOf (modGrid g s) x y = stackOf s x y := rfl
@[simp] theorem fnOf_modGrid (x : Nat) : fnOf (modGrid g s) x = fnOf s x := rfl
@[simp] theorem tenOf_modGrid (x : Nat) : tenOf (modGrid g s) x = tenOf s x := rfl
@[simp] theorem sessOf_modGrid (x : Nat) : sessOf (modGrid g s) x = sessOf s x := rfl
@[simp] theorem portOf_modGrid (x : Nat) : portOf (modGrid g s) x = portOf s x := rfl
@[simp] theorem poisonOf_modGrid (x : Nat) : poisonOf (modGrid g s) x = poisonOf s x := rfl

end

/-! ## modPins -/

section

variable (g : Pins → Pins) (s : State)

@[simp] theorem modPins_pending : (modPins g s).pending = s.pending := rfl
@[simp] theorem modPins_out : (modPins g s).out = s.out := rfl
@[simp] theorem modPins_free : (modPins g s).free = s.free := rfl
@[simp] theorem modPins_grid : (modPins g s).grid = s.grid := rfl
@[simp] theorem modPins_lode : (modPins g s).lode = s.lode := rfl
@[simp] theorem modPins_dies : (modPins g s).dies = s.dies := rfl
@[simp] theorem modPins_clus : (modPins g s).clus = s.clus := rfl
@[simp] theorem modPins_nis : (modPins g s).nis = s.nis := rfl
@[simp] theorem modPins_links : (modPins g s).links = s.links := rfl
@[simp] theorem modPins_pmem : (modPins g s).pmem = s.pmem := rfl
@[simp] theorem modPins_flog : (modPins g s).flog = s.flog := rfl
@[simp] theorem modPins_pat : (modPins g s).pat = s.pat := rfl
@[simp] theorem modPins_rnd : (modPins g s).rnd = s.rnd := rfl
@[simp] theorem modPins_sess : (modPins g s).sess = s.sess := rfl
@[simp] theorem modPins_ten : (modPins g s).ten = s.ten := rfl
@[simp] theorem modPins_park : (modPins g s).park = s.park := rfl
@[simp] theorem modPins_intake : (modPins g s).intake = s.intake := rfl
@[simp] theorem modPins_fns : (modPins g s).fns = s.fns := rfl
@[simp] theorem modPins_served : (modPins g s).served = s.served := rfl
@[simp] theorem modPins_swp : (modPins g s).swp = s.swp := rfl
@[simp] theorem modPins_flash : (modPins g s).flash = s.flash := rfl
@[simp] theorem modPins_boot : (modPins g s).boot = s.boot := rfl
@[simp] theorem modPins_hlt : (modPins g s).hlt = s.hlt := rfl
@[simp] theorem modPins_pwr : (modPins g s).pwr = s.pwr := rfl
@[simp] theorem modPins_thm : (modPins g s).thm = s.thm := rfl
@[simp] theorem modPins_pins : (modPins g s).pins = g s.pins := rfl
@[simp] theorem dieOf_modPins (x : Nat) : dieOf (modPins g s) x = dieOf s x := rfl
@[simp] theorem niOf_modPins (x : Nat) : niOf (modPins g s) x = niOf s x := rfl
@[simp] theorem cluOf_modPins (x y : Nat) : cluOf (modPins g s) x y = cluOf s x y := rfl
@[simp] theorem linkOf_modPins (x y : Nat) : linkOf (modPins g s) x y = linkOf s x y := rfl
@[simp] theorem stackOf_modPins (x y : Nat) : stackOf (modPins g s) x y = stackOf s x y := rfl
@[simp] theorem fnOf_modPins (x : Nat) : fnOf (modPins g s) x = fnOf s x := rfl
@[simp] theorem tenOf_modPins (x : Nat) : tenOf (modPins g s) x = tenOf s x := rfl
@[simp] theorem sessOf_modPins (x : Nat) : sessOf (modPins g s) x = sessOf s x := rfl
@[simp] theorem portOf_modPins (x : Nat) : portOf (modPins g s) x = portOf s x := rfl
@[simp] theorem poisonOf_modPins (x : Nat) : poisonOf (modPins g s) x = poisonOf s x := rfl

end

/-! ## modThm -/

section

variable (g : Thermal → Thermal) (s : State)

@[simp] theorem modThm_pending : (modThm g s).pending = s.pending := rfl
@[simp] theorem modThm_out : (modThm g s).out = s.out := rfl
@[simp] theorem modThm_free : (modThm g s).free = s.free := rfl
@[simp] theorem modThm_grid : (modThm g s).grid = s.grid := rfl
@[simp] theorem modThm_lode : (modThm g s).lode = s.lode := rfl
@[simp] theorem modThm_dies : (modThm g s).dies = s.dies := rfl
@[simp] theorem modThm_clus : (modThm g s).clus = s.clus := rfl
@[simp] theorem modThm_nis : (modThm g s).nis = s.nis := rfl
@[simp] theorem modThm_links : (modThm g s).links = s.links := rfl
@[simp] theorem modThm_pmem : (modThm g s).pmem = s.pmem := rfl
@[simp] theorem modThm_flog : (modThm g s).flog = s.flog := rfl
@[simp] theorem modThm_pat : (modThm g s).pat = s.pat := rfl
@[simp] theorem modThm_rnd : (modThm g s).rnd = s.rnd := rfl
@[simp] theorem modThm_sess : (modThm g s).sess = s.sess := rfl
@[simp] theorem modThm_ten : (modThm g s).ten = s.ten := rfl
@[simp] theorem modThm_park : (modThm g s).park = s.park := rfl
@[simp] theorem modThm_intake : (modThm g s).intake = s.intake := rfl
@[simp] theorem modThm_fns : (modThm g s).fns = s.fns := rfl
@[simp] theorem modThm_served : (modThm g s).served = s.served := rfl
@[simp] theorem modThm_swp : (modThm g s).swp = s.swp := rfl
@[simp] theorem modThm_flash : (modThm g s).flash = s.flash := rfl
@[simp] theorem modThm_boot : (modThm g s).boot = s.boot := rfl
@[simp] theorem modThm_hlt : (modThm g s).hlt = s.hlt := rfl
@[simp] theorem modThm_pwr : (modThm g s).pwr = s.pwr := rfl
@[simp] theorem modThm_thm : (modThm g s).thm = g s.thm := rfl
@[simp] theorem modThm_pins : (modThm g s).pins = s.pins := rfl
@[simp] theorem dieOf_modThm (x : Nat) : dieOf (modThm g s) x = dieOf s x := rfl
@[simp] theorem niOf_modThm (x : Nat) : niOf (modThm g s) x = niOf s x := rfl
@[simp] theorem cluOf_modThm (x y : Nat) : cluOf (modThm g s) x y = cluOf s x y := rfl
@[simp] theorem linkOf_modThm (x y : Nat) : linkOf (modThm g s) x y = linkOf s x y := rfl
@[simp] theorem stackOf_modThm (x y : Nat) : stackOf (modThm g s) x y = stackOf s x y := rfl
@[simp] theorem fnOf_modThm (x : Nat) : fnOf (modThm g s) x = fnOf s x := rfl
@[simp] theorem tenOf_modThm (x : Nat) : tenOf (modThm g s) x = tenOf s x := rfl
@[simp] theorem sessOf_modThm (x : Nat) : sessOf (modThm g s) x = sessOf s x := rfl
@[simp] theorem portOf_modThm (x : Nat) : portOf (modThm g s) x = portOf s x := rfl
@[simp] theorem poisonOf_modThm (x : Nat) : poisonOf (modThm g s) x = poisonOf s x := rfl

end

/-! ## modPort -/

section

variable (p : Nat) (f : ParkPort → ParkPort) (s : State)

@[simp] theorem modPort_pending : (modPort p f s).pending = s.pending := rfl
@[simp] theorem modPort_out : (modPort p f s).out = s.out := rfl
@[simp] theorem modPort_free : (modPort p f s).free = s.free := rfl
@[simp] theorem modPort_grid : (modPort p f s).grid = s.grid := rfl
@[simp] theorem modPort_lode : (modPort p f s).lode = s.lode := rfl
@[simp] theorem modPort_dies : (modPort p f s).dies = s.dies := rfl
@[simp] theorem modPort_clus : (modPort p f s).clus = s.clus := rfl
@[simp] theorem modPort_nis : (modPort p f s).nis = s.nis := rfl
@[simp] theorem modPort_links : (modPort p f s).links = s.links := rfl
@[simp] theorem modPort_pmem : (modPort p f s).pmem = s.pmem := rfl
@[simp] theorem modPort_flog : (modPort p f s).flog = s.flog := rfl
@[simp] theorem modPort_pat : (modPort p f s).pat = s.pat := rfl
@[simp] theorem modPort_rnd : (modPort p f s).rnd = s.rnd := rfl
@[simp] theorem modPort_sess : (modPort p f s).sess = s.sess := rfl
@[simp] theorem modPort_ten : (modPort p f s).ten = s.ten := rfl
@[simp] theorem modPort_park : (modPort p f s).park = tabMod {} s.park p f := rfl
@[simp] theorem modPort_intake : (modPort p f s).intake = s.intake := rfl
@[simp] theorem modPort_fns : (modPort p f s).fns = s.fns := rfl
@[simp] theorem modPort_served : (modPort p f s).served = s.served := rfl
@[simp] theorem modPort_swp : (modPort p f s).swp = s.swp := rfl
@[simp] theorem modPort_flash : (modPort p f s).flash = s.flash := rfl
@[simp] theorem modPort_boot : (modPort p f s).boot = s.boot := rfl
@[simp] theorem modPort_hlt : (modPort p f s).hlt = s.hlt := rfl
@[simp] theorem modPort_pwr : (modPort p f s).pwr = s.pwr := rfl
@[simp] theorem modPort_thm : (modPort p f s).thm = s.thm := rfl
@[simp] theorem modPort_pins : (modPort p f s).pins = s.pins := rfl
@[simp] theorem dieOf_modPort (x : Nat) : dieOf (modPort p f s) x = dieOf s x := rfl
@[simp] theorem niOf_modPort (x : Nat) : niOf (modPort p f s) x = niOf s x := rfl
@[simp] theorem cluOf_modPort (x y : Nat) : cluOf (modPort p f s) x y = cluOf s x y := rfl
@[simp] theorem linkOf_modPort (x y : Nat) : linkOf (modPort p f s) x y = linkOf s x y := rfl
@[simp] theorem stackOf_modPort (x y : Nat) : stackOf (modPort p f s) x y = stackOf s x y := rfl
@[simp] theorem fnOf_modPort (x : Nat) : fnOf (modPort p f s) x = fnOf s x := rfl
@[simp] theorem tenOf_modPort (x : Nat) : tenOf (modPort p f s) x = tenOf s x := rfl
@[simp] theorem sessOf_modPort (x : Nat) : sessOf (modPort p f s) x = sessOf s x := rfl
@[simp] theorem poisonOf_modPort (x : Nat) : poisonOf (modPort p f s) x = poisonOf s x := rfl

end

/-! ## Reading what was written -/

/-- A die that was changed, in a canonical table. -/
theorem dieOf_modDie (d : Nat) (f : Die → Die) (s : State) (h : tabWf {} s.dies = true) : dieOf (modDie d f s) d = f (dieOf s d) :=
  tabGet_tabMod_self _ _ _ f h

/-- Another die is not changed. -/
theorem dieOf_modDie_ne {d e : Nat} (f : Die → Die) (s : State) (h : e ≠ d) : dieOf (modDie d f s) e = dieOf s e :=
  tabGet_tabMod_ne _ _ f h

/-- An interface that was changed, in a canonical table. -/
theorem niOf_modNI (d : Nat) (f : NI → NI) (s : State) (h : tabWf {} s.nis = true) : niOf (modNI d f s) d = f (niOf s d) :=
  tabGet_tabMod_self _ _ _ f h

/-- Another interface is not changed. -/
theorem niOf_modNI_ne {d e : Nat} (f : NI → NI) (s : State) (h : e ≠ d) : niOf (modNI d f s) e = niOf s e :=
  tabGet_tabMod_ne _ _ f h

/-- A function that was changed, in a canonical table. -/
theorem fnOf_modFn (f : Nat) (g : Func → Func) (s : State) (h : tabWf {} s.fns = true) : fnOf (modFn f g s) f = g (fnOf s f) :=
  tabGet_tabMod_self _ _ _ g h

/-- Another function is not changed. -/
theorem fnOf_modFn_ne {f e : Nat} (g : Func → Func) (s : State) (h : e ≠ f) : fnOf (modFn f g s) e = fnOf s e :=
  tabGet_tabMod_ne _ _ g h

/-- A tenant that was changed, in a canonical table. -/
theorem tenOf_modTen (t : Nat) (g : Tenant → Tenant) (s : State) (h : tabWf {} s.ten = true) : tenOf (modTen t g s) t = g (tenOf s t) :=
  tabGet_tabMod_self _ _ _ g h

/-- Another tenant is not changed. -/
theorem tenOf_modTen_ne {t u : Nat} (g : Tenant → Tenant) (s : State) (h : u ≠ t) : tenOf (modTen t g s) u = tenOf s u :=
  tabGet_tabMod_ne _ _ g h

/-- A link that was changed, in a canonical table. -/
theorem linkOf_modLink (d p : Nat) (f : Link → Link) (s : State) (h : tabWf {} s.links = true) :
    linkOf (modLink d p f s) d p = f (linkOf s d p) := tabGet_tabMod_self _ _ _ f h

/-- A stack that was changed, in a canonical table. -/
theorem stackOf_modStack (c m : Nat) (f : Stack → Stack) (s : State) (h : tabWf {} s.pmem.stk = true) :
    stackOf (modStack c m f s) c m = f (stackOf s c m) := tabGet_tabMod_self _ _ _ f h

end Sys2Proof.Machine
end

