-- ==== Sys2Proof/Tests/Slice0.lean ====
section
/-! SUPPORT. Tests: ill-formed commands and descriptors, descriptors written out from the manual's layouts, worked examples of the
manual, and for every statement with hypotheses concrete states and operands that meet them.  Expected values come from the
manual or from a hand calculation. -/

set_option Elab.async false

namespace Sys2Proof.Tests

open Sys2Proof Sys2Proof.Machine

/-! ## Ill-formed commands -/

/-- A control micro-op's fields, with its own operand, body and destination. -/
def ctl (imm waddr dst srca srcb subop body : Nat) : CtlF :=
  ⟨BitVec.ofNat 32 imm, BitVec.ofNat 23 waddr, 0, BitVec.ofNat 4 dst, BitVec.ofNat 4 srca, BitVec.ofNat 4 srcb, BitVec.ofNat 4 subop,
    BitVec.ofNat 16 body⟩

/-- A vector micro-op's fields on `n` lanes. -/
def vec (imm maddr func type dst a b c n : Nat) : VecF :=
  ⟨BitVec.ofNat 32 imm, BitVec.ofNat 20 maddr, 0, BitVec.ofNat 8 func, BitVec.ofNat 3 type, false, false, false, BitVec.ofNat 5 dst,
    BitVec.ofNat 5 a, BitVec.ofNat 5 b, BitVec.ofNat 5 c, BitVec.ofNat 6 (n - 1)⟩

/-- The first place of the panel, in the first cycle of the stitch. -/
def at0 : Issue := ⟨0, 0, 0, 0⟩

/-- Control micro-ops that staging refuses (R125, R126). -/
theorem test_illformed_control :
    ([.nop at0 (ctl 0 0 0 0 0 0 1), .seti at0 (ctl 0 0 0 0 0 0 1), .ldw at0 (ctl 0 0 0 0 0 0 1), .stw at0 (ctl 0 0 0 0 0 0 1),
      .alu at0 (ctl 0 0 1 0 0 10 0), .alu at0 (ctl 0 0 1 0 0 0 1), .mask at0 (ctl 0 0 1 0 0 6 0), .mask at0 (ctl 0 0 0 0 0 0 0),
      .mask at0 (ctl 0 0 4 0 0 0 0), .mask at0 (ctl 0 0 1 0 0 0 1), .syw at0 (ctl 0 0 0 8 0 0 0), .syw at0 (ctl 0 0 0 0 0 0 1),
      .loop at0 (ctl 1 0 0 0 0 0 0), .loop at0 (ctl 1 0 0 0 0 0 4097)] : List Instr).all (fun c => !c.wf) = true := by
  decide +kernel

/-- Vector and matrix micro-ops and transfers that staging refuses (R116, R135 to R145, R149). -/
theorem test_illformed_vector :
    ([.vld at0 (vec 0 0 0 4 0 0 0 0 1), .vst at0 (vec 0 0 0 4 0 0 0 0 1), .vew at0 (vec 0 0 0x0F 0 0 0 0 0 1),
      .vew at0 (vec 0 0 0x15 1 0 0 0 0 1), .vew at0 (vec 0 0 3 1 0 0 0 0 1), .vrd at0 (vec 0 0 6 0 0 0 0 0 1),
      .vsf at0 (vec 0 0 4 0 0 0 0 0 1), .vsmx at0 (vec 0 0 2 0 0 0 0 0 1), .vnrm at0 (vec 0 0 2 0 0 0 0 0 1),
      .vtopk at0 (vec 0 0 2 0 0 0 0 0 1), .vtopk at0 (vec 0 0 0 0 31 0 0 0 1), .vrng at0 (vec 0 0 2 0 0 0 0 0 1),
      .vflg at0 (vec 0 0 3 0 0 0 0 0 1), .cvt at0 (vec 0 0 0x06 0 0 0 0 0 33), .cvt at0 (vec 0 0 0x12 0 0 0 0 0 1),
      .cvt at0 (vec 0 0 0xD1 0 0 0 0 0 1), .cvt at0 (vec 0 0 0xE0 0 0 0 0 0 1),
      .mtl at0 ⟨0, 0, 0, 1, 7, false⟩, .mtl at0 ⟨0, 0, 0, 0, 0, false⟩, .mtl at0 ⟨0, 0, 0, 9, 0, false⟩, .mtl at0 ⟨0, 0, 0, 3, 6, false⟩,
      .mtl at0 ⟨0, 0, 256, 1, 0, false⟩, .mma at0 ⟨0, 0, 0, 0, 0, 3, false, false⟩, .mdr at0 ⟨0, 0, 0, 0, 0, 3, false⟩,
      .dmr at0 ⟨0, 0, 0, 0, false, 98304, 0⟩, .dmw at0 ⟨0, 0, 0, 0, false, 98304, 0⟩] : List Instr).all (fun c => !c.wf) = true := by
  decide +kernel

/-- Places that the panel does not have: ranks above 131, clusters above 3, cores above 7, cycles above 303, dies above 225, ports with
no link, functions above PF1, rings, slots, stacks, columns and sites out of range. -/
theorem test_illformed_places :
    ([.nop ⟨132, 0, 0, 0⟩ (ctl 0 0 0 0 0 0 0), .nop ⟨0, 4, 0, 0⟩ (ctl 0 0 0 0 0 0 0), .nop ⟨0, 0, 8, 0⟩ (ctl 0 0 0 0 0 0 0),
      .nop ⟨0, 0, 0, 304⟩ (ctl 0 0 0 0 0 0 0), .knot ⟨132, 0, 0, 0⟩ 0, .ssn ⟨0, 4, 0, 0⟩ ⟨0, 0, 0, 0, 0, 0, 0, 0⟩, .sywSatisfied ⟨0, 0, 8, 0⟩,
      .dmTransferComplete 132 0 0 0, .freeMessageComplete 0 4 0 0, .dieArrival 144, .stitchStart 226, .holdLine 226 [], .tbu 132 0, .tbu 0 4,
      .fault 0 0, .fault 0 7, .fault 0 0x14, .abort 0 [], .abort 6 [], .abort 1 [1048576], .pageWaitTimeout 64 0, .parkCopyDone 1048576,
      .parkPortDown 6, .controlPacket 0 0 [], .linkFault 0 3 {} {}, .keepaliveLost 226 0, .standbyCheck 0 4 {},
      .setFlitForward 0 0 0 ⟨⟨0, 0, 0, false, 0, 0⟩, 0, []⟩, .setFlitForward 0 1 4096 ⟨⟨0, 0, 0, false, 0, 0⟩, 0, []⟩,
      .setFlitLanding 1 0 ⟨⟨0, 0, 0, false, 0, 0⟩, 0, []⟩, .rawFlitReceive 0 0 [] 0 0,
      .timerFire 65 0, .timerFire 0 8, .stackOut 12 0 .channel {}, .stackRebuildDone 0 6, .scrubVisit ⟨6, {}⟩, .coursePowerTimeout 12,
      .clusterOvercurrent 0 12 0 {}, .regulatorFault 0 0 4 .header {}, .dieSilent 12 0 {}, .identify { fn := 65, tag := 0 },
      .ringStep ⟨64, 0⟩ {}, .ringStep ⟨0, 8⟩ {}, .doorbellWrite 65 0 none none, .doorbellWrite 0 8 none none, .tokenArrayArrived 64 0 [],
      .intCauseClear 65 0, .registerWrite 0 2 [], .registerWrite 0 0 [none], .registerWrite 0 (2 ^ 26) [none, none, none, none],
      .misalignedAccess 0 1 2 false, .pairLoRead 0 0 0, .pairLoRead 0 0 4097, .hostPortReset 2 .perst, .vfFlr 0, .vfFlr 64,
      .apertureRead (2 ^ 32) 1, .apertureWrite 0 [], .vfEnableChange true 64, .hostPerstNDeassert 2, .hostMemoryReadFailed (.bulkIn 65),
      .hostMemoryReadFailed (.tokenArray 64 0), .hostMemoryReadFailed (.descriptor ⟨64, 0⟩)] : List Instr).all (fun c => !c.wf) = true := by
  decide +kernel

/-- An ill-formed command is refused as such. -/
theorem test_illformed_refused : exec (.scrubVisit ⟨6, {}⟩) State.reset = .refused .illFormed ∧
    exec (.alu at0 (ctl 0 0 1 0 0 10 0)) State.reset = .refused .illFormed := ⟨rfl, rfl⟩

/-! ## Descriptors, written out from the layouts of R99, R102, R107, R124, R135, R149, R151 and R154 -/

/-- An ALU descriptor; `DescriptorRoundTrip`: a descriptor that reads as a micro-op. -/
theorem test_decode_alu : decodeUop 0x12345678B4B4B403F796000000000003 =
    some (.ctl .alu ⟨0x12345678, 0x5A5A5A, 3, 15, 7, 9, 6, 0⟩) := by decide +kernel

theorem test_decode_loop : decodeUop 0x00000064000000000500100000000001 =
    some (.ctl .loop ⟨100, 0, 0, 0, 5, 0, 0, 4096⟩) := by decide +kernel

theorem test_decode_vew : decodeUop 0x3F800000ABCDEB001477D12A5F000020 =
    some (.vec .vew ⟨0x3F800000, 0xABCDE, 11, 0x14, 3, true, false, true, 30, 17, 5, 9, 62⟩) := by decide +kernel

theorem test_decode_mtl : decodeUop 0x000FEDCB0001234500000000FFC60140 =
    some (.mtl ⟨0xFEDCB, 0x12345, 511, 8, 6, true⟩) := by decide +kernel

theorem test_decode_mma : decodeUop 0x0005FFFF000000010000000380FF1441 =
    some (.mma ⟨0x5FFFF, 1, 3, 128, 255, 2, true, false⟩) := by decide +kernel

theorem test_decode_mdr : decodeUop 0x00010000000080010000000107030A42 =
    some (.mdr ⟨0x10000, 0x8001, 1, 7, 3, 2, true⟩) := by decide +kernel

theorem test_decode_dm : decodeUop 0xEFFFFFFFC97FFF397FFFA00000000051 =
      some (.dm true ⟨0x3BFFFFFFF, 2, 0x5FFFC, 14, false, 98303, 5⟩) ∧
    decodeUop 0x00000000400001020000E00000000050 = some (.dm false ⟨1, 0, 4, 0, true, 0, 7⟩) := by decide +kernel

theorem test_decode_fm : decodeUop 0x12349A500000000F0F0DBFFD80000054 =
      some (.fm .fsn ⟨0x1234, 9, 0xA5, 0, 0x3C3C3, 6, 4095, 3⟩) ∧
    decodeUop 0x00000000BEEF0000010040FC00000052 = some (.fm .ssn ⟨0, 0, 0, 0xBEEF, 0x40, 1, 63, 0⟩) := by decide +kernel

theorem test_decode_knot : decodeUop 0x0000000000000000000000000ABC0060 = some (.knot 0xABC) := by decide +kernel

/-- A reserved bit that is set, and operation codes that R123 does not list, are refused (R20, R123). -/
theorem test_decode_refused : decodeUop 0x0000000000000000000000000ABC8060 = none ∧ decodeUop 0x0000000000000000000000000ABC0061 = none ∧
    decodeUop 0x08 = none ∧ decodeUop 0x29 = none ∧ decodeUop 0x43 = none ∧ decodeUop 0x56 = none := by decide +kernel

/-- No row of the table has bits, so no word spells a command. -/
theorem test_no_table_word : decodeTableWord 0 0 = none ∧ State.reset.withFetchWord 16 0xFFFF = State.reset := ⟨rfl, rfl⟩

/-! ## Worked examples of the manual -/

/-- The T5 byte of chapter 02: 0x58 holds +1, -1, 0, 0, +1, and 0xF2 five weights of -1. -/
theorem test_t5_byte : (List.range 5).map (t5Digit 0x58) = [1, -1, 0, 0, 1] ∧ (List.range 5).map (t5Digit 0xF2) = [-1, -1, -1, -1, -1] := by
  decide +kernel

/-- The block to MXFP4 of chapter 02, for 7.1, -2.6, 0.2 and zeros: under FLOOR the scale 0x7F and the codes 7, 0xD, 0 with overflow, underflow
and inexact; under FIT the scale 0x80 and the codes 6, 0xB, 0 with underflow and inexact. -/
theorem test_mxfp4_block :
    encBlock .e2m1 false false ([0x40E33333, 0xC0266666, 0x3E4CCCCD] ++ List.replicate 29 0) = (0x7F, [7, 0xD] ++ List.replicate 30 0, 7) ∧
    encBlock .e2m1 true false ([0x40E33333, 0xC0266666, 0x3E4CCCCD] ++ List.replicate 29 0) = (0x80, [6, 0xB] ++ List.replicate 30 0, 6) := by
  decide +kernel

/-- The address of chapter 09: PADDR 0x1_4000_1234 lies in S(0,2) at stack unit 466. -/
theorem test_paddr : unitPlace 0x140001234 = (2, 0, 466) := by decide +kernel

/-- The wrap of chapter 05: 0x300 is 1,024 stitches after 0xFFFF_FFFF_FF00. -/
theorem test_stitch_wrap : stitchAhead 0x300 0xFFFFFFFFFF00 = some 1024 ∧ stitchAhead 0x300 0x300 = none := by decide +kernel

/-- The repaired site of chapter 00: with skip(7) = 4, rank 55 runs on P(5,7), and rank 43 stays on P(3,7). -/
theorem test_skip : physOf [11, 11, 11, 11, 11, 11, 11, 4, 11, 11, 11, 11] 55 = siteDie 5 7 ∧
    physOf [11, 11, 11, 11, 11, 11, 11, 4, 11, 11, 11, 11] 43 = siteDie 3 7 := by decide +kernel

/-- The set route of chapter 07, L(2,1) to L(7,10) with skip(1) = 4 and skip(9) = 3: down W1 past C4, then east. -/
theorem test_set_route : setRoute [11, 4, 11, 11, 11, 11, 11, 11, 11, 3, 11, 11] false 25 94 =
    [siteDie 3 1, siteDie 5 1, siteDie 6 1, siteDie 7 1, siteDie 8 1, stackDie 8 0, stackDie 7 0, siteDie 7 2, siteDie 7 3, stackDie 7 1,
      siteDie 7 4, siteDie 7 5, stackDie 7 2, siteDie 7 6, siteDie 7 7, stackDie 7 3, siteDie 7 8, siteDie 7 9, siteDie 8 9, stackDie 8 4,
      stackDie 7 4, siteDie 7 10] := by decide +kernel

/-- The latch example of chapter 17: the two words of the stitch time at count 0x3A41_FFFF_FFFE of epoch 2. -/
theorem test_time_words :
    let s := { State.reset with dies := [(224, { count := 0x3A41FFFFFFFE, epoch := 2 })] }
    panelWord s 0x100010 = 0xFFFFFFFE ∧ panelWord s 0x100014 = 0x00023A41 := by decide +kernel

/-- The shaper example of chapter 11, in reference counts of 0.5 ns: +10 at RATE 2,000; 40 rows are charged at 0; RATE 500 at 5 ms finds -20; the
boundary at 26 ms finds -9.5; RATE 0 at 30 ms leaves -7.5, still so at 52 ms; with RATE 500 again from 60 ms the boundary at 78 ms finds +1.5. -/
theorem test_shaper :
    let x0 : Shaper := charge 40 { rate := 2000, depth := 64, bal := 10 * 2 ^ 24 }
    let x1 := setShaper 500 64 10000000 x0
    let x2 := accrue 52000000 x1
    let x3 := setShaper 0 64 60000000 x2
    let x4 := accrue 104000000 x3
    let x5 := setShaper 500 64 120000000 x4
    let x6 := accrue 156000000 x5
    x0.bal = -30 * 2 ^ 24 ∧ x1.bal = -20 * 2 ^ 24 ∧ 2 * x2.bal = -19 * 2 ^ 24 ∧ shaperOpen x2 = false ∧ 2 * x3.bal = -15 * 2 ^ 24 ∧
      2 * x4.bal = -15 * 2 ^ 24 ∧ shaperOpen x4 = false ∧ 2 * x6.bal = 3 * 2 ^ 24 ∧ shaperOpen x6 = true := by
  decide +kernel

/-- The thermal caps of chapter 15: a sound plate and a fouled one. -/
theorem test_thermal_cap :
    let sound := setCaps { State.reset with thm := { tcmp := 3800, tmem := 3600, rc := [55 / 10000], rm := [14 / 1000] } }
    let fouled := setCaps { State.reset with thm := { tcmp := 4000, tmem := 4000, rc := [7 / 1000], rm := [14 / 1000] } }
    (sound.thm.pc, sound.thm.pm, sound.thm.cap) = (9454, 3500, 11500) ∧ (fouled.thm.pc, fouled.thm.pm, fouled.thm.cap) = (7142, 3214, 10356) ∧
      plateAlert sound = false ∧ plateAlert fouled = true := by
  decide +kernel

/-! ## States for the witnesses -/

/-- A stream core with all of cluster memory and of panel memory in its windows. -/
def bigCore : Core := { cwin := [⟨0, 0x60000, true, true⟩], pwin := [⟨0, 0x3C0000000, true, true⟩] }

/-- The panel in section 0 of a pattern, a set section, with a cluster at the first place whose first core stands before a micro-op without
delay. -/
def before (c : Cluster) (k : Core) (u : Uop) : State :=
  { State.reset with
    pat := { running := some [], inSect := true }
    clus := [(0, { c with cores := [(0, { k with store := [(0, (encodeUop u).setWidth 144 <<< 16)] })] })] }

/-- Whether the first place issues the micro-op that stands before its core, and a condition holds of the state and the core. -/
def goes (k : Core) (u : Uop) (p : State → Core → Bool := fun _ _ => true) : Bool :=
  let s := before {} k u
  issues at0 s && (uopCommand at0 u).wf && stored at0 u s && p s (movedCore at0 s)

/-- Whether accesses at the first place clash with no claim. -/
def free (l : Accesses) (s : State) : Bool := (claimAll 0 l (movedOn at0 s).claims).isLeft

/-- Whether accesses of a micro-op clash with claimed banks. -/
def clash (u : Uop) (l : Accesses) (cl : List (Nat × Nat × Nat)) : Bool :=
  let s := before { claims := cl } bigCore u
  issues at0 s && (uopCommand at0 u).wf && stored at0 u s && !free l s

/-! ## Witnesses: the block and the micro-ops -/

/-- `FrontCommand`. -/
theorem wit_FrontCommand : ∃ s : State, s.pending = .tbs :: [.report 0] := ⟨{ State.reset with pending := [.tbs, .report 0] }, rfl⟩

/-- `RefusalsAndFaults`: a well-formed command and an ill-formed one. -/
theorem wit_RefusalsAndFaults :
    (Instr.memRead 0 0 0 ⟨⟨0, 0, 0, 0, 0, 0, 0, 0, 0, false, false, 0, 0⟩, {}⟩).wf = true ∧ (Instr.scrubVisit ⟨6, {}⟩).wf = false := by decide +kernel

/-- `SpecialElements`: the codes of E4M3 and E5M2 that set a flag. -/
theorem wit_SpecialElements : (elemSig .e4m3 0x7F).2 ≠ 0 ∧ (elemSig .e5m2 0xFC).2 ≠ 0 := by decide +kernel

/-- `SoundnessKept`: a sound state with a byte in panel memory whose step answers a next state. -/
theorem wit_SoundnessKept :
    let s := { State.reset with pmem := { data := [(7, 1)] }, pending := [.getEndpointId] }
    State.sound s ∧ ∃ t, step s = .next t := ⟨⟨by decide +kernel, by decide +kernel⟩, _, rfl⟩

/-- `MicroOpFaults`: a panel without a section and a frozen one do not issue, and a core issues no micro-op but its store's; a core with a
window of one granule reaches words 0 to 15 and not word 16; a bank that is claimed; a loop count of 6 with the bound 5. -/
theorem wit_MicroOpFaults :
    ((uopCommand at0 (.knot 0)).wf = true ∧ issues at0 State.reset = false ∧
      issues at0 { before {} bigCore (.knot 0) with lode := { frozen := true } } = false ∧
      stored at0 (.knot 1) (before {} bigCore (.knot 0)) = false) ∧
    (let small : Core := { cwin := [⟨0, 1, true, true⟩] }
     goes small (.ctl .ldw (ctl 0 16 1 0 0 0 0)) (fun _ k => bytesOk k false (15 * 4) 4 && !bytesOk k false (16 * 4) 4) = true ∧
       goes small (.ctl .stw (ctl 0 16 0 1 0 0 0)) (fun _ k => bytesOk k true (15 * 4) 4 && !bytesOk k true (16 * 4) 4) = true ∧
       goes small (.ctl .mask (ctl 0 0 1 0 0 5 0)) (fun _ k => !bytesOk k false 0 1024) = true) ∧
    (clash (.ctl .ldw (ctl 0 15 1 0 0 0 0)) ((granulesOf 60 4).map fun g => (0, g)) [(0, 0, 3)] = true ∧
      clash (.ctl .stw (ctl 0 15 0 1 0 0 0)) ((granulesOf 60 4).map fun g => (2, g)) [(2, 0, 3)] = true ∧
      clash (.ctl .mask (ctl 0 0 1 0 0 5 0)) ((granulesOf 0 1024).map fun g => (0, g)) [(0, 15, 3)] = true) ∧
    goes { idx := [(1, 6)] } (.ctl .loop (ctl 5 0 0 1 0 0 1)) (fun _ k => decide (5 < (coreIdx k 1).toNat)) = true := by
  decide +kernel

/-- `ControlMicroOps`: the last word of cluster memory, and 256 words up to it, with no bank claimed. -/
theorem wit_ControlMicroOps :
    goes bigCore (.ctl .nop (ctl 0 0 0 0 0 0 0)) = true ∧ goes bigCore (.ctl .seti (ctl 7 0 0 0 0 0 0)) = true ∧
      goes bigCore (.ctl .alu (ctl 7 0 15 1 2 9 0)) = true ∧
      goes bigCore (.ctl .ldw (ctl 0 0x5FFFFF 1 0 0 0 0)) (fun s k =>
        bytesOk k false (0x5FFFFF * 4) 4 && free ((granulesOf (0x5FFFFF * 4) 4).map fun g => (0, g)) s) = true ∧
      goes bigCore (.ctl .stw (ctl 0 0x5FFFFF 0 1 0 0 0)) (fun s k =>
        bytesOk k true (0x5FFFFF * 4) 4 && free ((granulesOf (0x5FFFFF * 4) 4).map fun g => (2, g)) s) = true ∧
      goes bigCore (.ctl .mask (ctl 0 0x5FFF00 3 0 0 5 0)) (fun s k =>
        bytesOk k false (0x5FFF00 * 4) 1024 && free ((granulesOf (0x5FFF00 * 4) 1024).map fun g => (0, g)) s) = true := by
  decide +kernel

/-- `LoopAndSync`: counts of 0, of 1, and of a register at its bound; a counter at the value waited for and one below it, in a set section. -/
theorem wit_LoopAndSync :
    let k : Core := { idx := [(1, 5)], ct := [(7, 3)] }
    goes k (.ctl .loop (ctl 0 0 0 0 0 0 1)) = true ∧ goes k (.ctl .loop (ctl 1 0 0 0 0 0 4096)) = true ∧
      goes k (.ctl .loop (ctl 5 0 0 1 0 0 1)) (fun _ k => decide ((coreIdx k 1).toNat ≤ 5) && coreIdx k 1 != 0) = true ∧
      goes k (.ctl .syw (ctl 3 0 0 7 0 0 0)) (fun _ k => decide (3 ≤ (coreCt k 7).toNat)) = true ∧
      goes k (.ctl .syw (ctl 4 0 0 7 0 0 0)) (fun s k => decide ((coreCt k 7).toNat < 4) && inSetSection s) = true := by
  decide +kernel

/-- Whether a vector micro-op goes on a free vector unit. -/
def vgoes (op : VecOp) (f : VecF) (p : State → Core → Bool := fun _ _ => true) : Bool :=
  goes bigCore (.vec op f) fun s k => decide (vecGate (issueCtx at0 s) (movedOn at0 s) = none) && p s k

/-- `VectorRegisters`: a free vector unit, and each function at the ends of its range. -/
theorem wit_VectorRegisters :
    vgoes .vew (vec 0 0 0 0 1 2 3 0 64) = true ∧ vgoes .vew (vec 0 0 3 0 1 2 3 4 1) = true ∧ vgoes .vew (vec 0 0 0x14 3 1 2 3 0 64) = true ∧
      vgoes .vrd (vec 0 0 0 0 1 2 0 0 64) = true ∧ vgoes .vrd (vec 0 0 2 3 1 2 0 0 1) = true ∧ vgoes .vrd (vec 0 0 3 0 1 2 0 0 64) = true ∧
      vgoes .vrd (vec 0 0 4 0 1 2 0 0 64) = true ∧ vgoes .vrd (vec 0 0 5 0 1 2 0 0 64) = true ∧ vgoes .vsf (vec 0 0 3 0 1 2 0 0 64) = true ∧
      vgoes .vsmx (vec 0 0 0 0 1 2 3 0 64) = true ∧ vgoes .vsmx (vec 0 0 1 0 1 2 3 4 64) = true ∧
      vgoes .vnrm (vec 0 0 0 0 1 2 0 0 64) = true ∧ vgoes .vnrm (vec 0 0 1 0 1 2 3 4 64) = true := by
  decide +kernel

/-- `VectorMemory`: accesses that end with cluster memory, with no bank claimed; VTOPK with no candidate, with one and with 64. -/
theorem wit_VectorMemory :
    vgoes .vld (vec 0 0x5FFFC 0 0 1 0 0 0 64) (fun s k =>
        bytesOk k false (0x5FFFC * 64) 256 && free ((granulesOf (0x5FFFC * 64) 256).map fun g => (0, g)) s) = true ∧
      vgoes .vst (vec 0 0x5FFFF 0 1 0 1 0 0 64) (fun s k =>
        bytesOk k true (0x5FFFF * 64) 64 && free ((granulesOf (0x5FFFF * 64) 64).map fun g => (2, g)) s) = true ∧
      vgoes .vrng (vec 0 0x5FFF0 1 0 1 0 0 0 64) (fun s k =>
        bytesOk k false (0x5FFF0 * 64) 1024 && free ((granulesOf (0x5FFF0 * 64) 1024).map fun g => (0, g)) s) = true ∧
      vgoes .vflg (vec 0 0 0 0 0 0 0 0 1) = true ∧ vgoes .vflg (vec 0 0 1 0 0 0 0 0 1) = true ∧
      vgoes .vflg (vec 0 0x5FFFF 2 0 0 0 0 0 1) (fun _ k => bytesOk k true (0x5FFFF * 64) 4) = true ∧
      vgoes .cvt (vec 0 0 0x53 0 1 2 0 0 64) = true ∧ vgoes .cvt (vec 0 0 0x05 0 1 2 0 0 64) = true ∧
      vgoes .vtopk (vec 0 0 0 0 30 0 0 0 4) (fun s k => bytesOk k false 0 0 && free [] s) = true ∧
      vgoes .vtopk (vec 64 0 1 0 30 0 0 0 64) (fun s k => bytesOk k false 0 512 &&
        free ((List.range 1).flatMap fun j => (granulesOf (j * 64 * 8) (min (64 * 8) ((64 - j * 64) * 8))).map fun g => (j, g)) s) = true := by
  decide +kernel

/-- `ConvertMemory`: 64 lanes of E2M1 and of MXINT8, T5 at the start of a tensor, ACC56, one and two blocks to MX formats, and a merge. -/
theorem wit_ConvertMemory :
    let q : Nat → Nat → List (Nat × Nat) := fun t ga => (granulesOf (ga * 64) 768).zipIdx.map fun p => (t + p.2 / 4, p.1)
    vgoes .cvt (vec 0 0x5FFFF 0x60 0 1 0 0 0 64) (fun _ k => bytesOk k false (0x5FFFF * 64) 32 && bytesOk k false 0 2) = true ∧
      vgoes .cvt (vec 0 0x5FFFF 0xB0 0 1 0 0 0 64) (fun s k => bytesOk k false (0x5FFFF * 64) 64 && bytesOk k false 0 2 &&
        free ((granulesOf (0x5FFFF * 64) 64 ++ granulesOf 0 2).map fun g => (0, g)) s) = true ∧
      vgoes .cvt (vec 0 0 0xC0 0 1 0 0 0 64) (fun s k => bytesOk k false 0 13 && bytesOk k false 13108 1 &&
        free ((granulesOf 0 13 ++ granulesOf 13108 1).map fun g => (0, g)) s) = true ∧
      (t5ElemOff 0 = 0 ∧ t5ElemOff 63 = 12) ∧
      vgoes .cvt (vec 0 0x5FFF4 0xD0 0 1 0 0 0 64) (fun s k => bytesOk k false (0x5FFF4 * 64) 768 && free (q 0 0x5FFF4) s) = true ∧
      vgoes .cvt (vec 64 0 0x06 0 0 1 0 0 32) (fun s k => bytesOk k true 0 16 && bytesOk k true 64 1 &&
        free ((granulesOf 0 16 ++ granulesOf 64 1).map fun g => (7, g)) s) = true ∧
      vgoes .cvt (vec 64 0 0x0B 0 0 1 0 0 64) (fun s k => bytesOk k true 0 64 && bytesOk k true 64 2 &&
        free ((granulesOf 0 64 ++ granulesOf 64 2).map fun g => (7, g)) s) = true ∧
      vgoes .cvt (vec 12 0 0xDD 0 0 0 0 0 64) (fun s k => bytesOk k false 0 768 && bytesOk k true 0 768 && bytesOk k false 768 768 &&
        free (q 0 0 ++ q 0 12 ++ q 10 0) s) = true := by
  decide +kernel

/-- `MatrixMicroOps`: MTL of a tile of one column and one block, which ends in cycle 6; MMA of the last row of the binary geometry on it, which
ends in the next cycle; MDR of that row, in ACC56 form, which ends within the budget; no bank is claimed. -/
theorem wit_MatrixMicroOps :
    goes bigCore (.mtl ⟨16, 0, 0, 1, 0, false⟩) (fun s k =>
      let m := (movedOn at0 s).mx
      decide ((issueCtx at0 s).limit = 256 ∧ issueNow at0 s = 0 ∧ tileBytes .e2m1 1 1 = 16 ∧ tileScaleBytes .e2m1 1 1 = 1 ∧
        max 0 (max m.wFree m.buf0.used) + 4 + ceilDiv 16 512 + ceilDiv 1 512 = 6) && bytesOk k false 0 16 && bytesOk k false 1024 1 &&
        free (((tileGroups 4 16).flatMap fun g => (granulesOf (0 + g.2.1) g.2.2).map fun y => (g.1, y)) ++
          (tileGroups 5 1).flatMap fun g => (granulesOf (1024 + g.2.1) g.2.2).map fun y => (g.1, y)) s) = true ∧
    goes bigCore (.mma ⟨16, 0x5FFFC, 0, 255, 0, 2, true, true⟩) (fun s k =>
      let m := (movedOn at0 s).mx
      decide (m.ternary = false ∧ geomRows false = 256 ∧ geomCols false = 256 ∧
        rowTimes (rowRate m.buf1.wfmt) (fun _ => 0) 0 [255] = [0] ∧ 0 + rowRate m.buf1.wfmt ≤ 256) && bytesOk k false (0x5FFFC * 64) 256 &&
        bytesOk k false (16 * 64) 8 && free ((List.range 4).map (fun j => (0, 0x5FFFC + 4 * 0 + j)) ++ [(0, 16)]) s) = true ∧
    goes bigCore (.mdr ⟨0x5FFD0, 48, 0, 255, 0, 2, true⟩) (fun s k =>
      decide (rowTimes (drainQ 2 false) (fun _ => 0) 4 [255] = [4] ∧ 4 + drainQ 2 false ≤ 256) &&
        bytesOk k true (0x5FFD0 * 64) (256 * 12) && free ((List.range (drainQ 2 false)).flatMap fun j =>
          (List.range 16).map fun g => (4 + 8 - drainQ 2 false + j, 0x5FFD0 + 16 * j + g)) s) = true := by
  decide +kernel

/-- `PostedTransfers`: one flit that ends with panel memory and with cluster memory, and a flit held for the tag of an FRV. -/
theorem wit_PostedTransfers :
    (let f : DmF := ⟨0x3BFFFFFFF, 0, 0x5FFFC, 0, false, 0, 7⟩
     unitExists 0x3BFFFFFFF = true ∧
       goes bigCore (.dm true f) (fun _ k => inWindow k.pwin true 0x3BFFFFFFF 1 && decide (dmCaddr k f = 0x5FFFC) && flitsOk k false 0x5FFFC 1)
         = true ∧
       goes bigCore (.dm false f) (fun _ k => inWindow k.pwin false 0x3BFFFFFFF 1 && flitsOk k true 0x5FFFC 1) = true) ∧
    (let f : FmF := ⟨5, 0, 9, 0, 0x5FFF8, 0, 1, 7⟩
     goes bigCore (.fm .fsn f) (fun s k => decide (fmCaddr k f = 0x5FFF8) && flitsOk k false 0x5FFF8 2 && namesEndpoint s f.drank f.dclass)
         = true ∧
       goes bigCore (.fm .frv f) (fun _ k => flitsOk k true 0x5FFF8 2) = true ∧
       namesEndpoint State.reset 0x83 0 = true ∧ namesEndpoint State.reset 0x84 0 = false) ∧
    (heldFor { held := [⟨⟨0, 0, 0, 0, 0, 0, 0, 9, 0, false, false, 0, 0⟩, 1, []⟩] } 9).length = 1 := by
  decide +kernel

/-- `SetTransfers`: two flits with no bank claimed; a landing position without a payload and one with it. -/
theorem wit_SetTransfers :
    let f : FmF := ⟨0, 0, 0, 0xFFFE, 0x5FFF8, 0, 1, 7⟩
    goes bigCore (.fm .ssn f) (fun s k => decide (fmCaddr k f = 0x5FFF8) && flitsOk k false 0x5FFF8 2 &&
        free (flitAccesses (issueCtx at0 s).now 0x5FFF8 2) s) = true ∧
      goes bigCore (.fm .srv f) (fun s k => flitsOk k true 0x5FFF8 2 && free (flitAccesses (issueCtx at0 s).now 0x5FFF8 2) s) = true ∧
      tabGet [] (niOf State.reset 0).landing 0 = [] ∧
      tabGet [] (niOf { State.reset with nis := [(0, { landing := [(4095, [1])] })] } 0).landing 4095 = [1] := by
  decide +kernel

/-- `KnotsAndPauses`: a KNOT that the eighth core of a cluster issues while a transfer is in the way, in a set section; a core paused for
exactly its counter's value, in a cluster that goes on and in one that stood still; a die whose four clusters stand at a knot. -/
theorem wit_KnotsAndPauses :
    (let s : State := { State.reset with
       pat := { running := some [], inSect := true }
       clus := [(0, { cores := (0, { store := [(0, (encodeUop (.knot 0)).setWidth 144 <<< 16)] }) ::
         (List.range 7).map fun n => (n + 1, { knot := some 0, xfers := [{ kind := .frv }] }) })] }
     issues at0 s = true ∧ (Instr.knot at0 0).wf = true ∧ stored at0 (.knot 0) s = true ∧ inSetSection s = true ∧
       knotXfers ((0 : BitVec 12).toNat + 1 == imgNsect (runImg s)) (movedOn at0 s) = true) ∧
    (let w := fun (b : Bool) => ({ State.reset with
       clus := [(0, { pausedSet := b, cores := [(0, { paused := some (7, 3), ct := [(7, 3)] })] })] } : State)
     (Instr.sywSatisfied at0).wf = true ∧ physOf State.reset.grid.skip 0 = 0 ∧
       (cluCore (cluOf (w false) 0 0) 0).paused = some (7, 3) ∧ (cluCore (cluOf (w true) 0 0) 0).paused = some (7, 3) ∧
       (3 : W32).toNat ≤ (coreCt (cluCore (cluOf (w true) 0 0) 0) 7).toNat ∧ (cluOf (w true) 0 0).pausedSet = true ∧
       cluFreed (w true) (cluSetCore (cluOf (w true) 0 0) 0 { ct := [(7, 0)] }) = true) ∧
    (let c : Cluster := { cores := (List.range 8).map fun n => (n, { knot := some 2 }) }
     let s := { State.reset with clus := [(572, c), (573, c), (574, c), (575, c)] }
     (Instr.dieArrival 143).wf = true ∧ dieKnot s 143 = some 2 ∧ (niOf s 143).retime = [] ∧
       (List.range 4).all (fun j => (cluOf s 143 j).srvs == [] && !cluSending (cluOf s 143 j) &&
         !knotXfers ((2 : BitVec 12).toNat + 1 == imgNsect (runImg s)) (cluOf s 143 j)) = true) := by
  decide +kernel

/-- `TransferEnds`: at the last core of the panel, transfers of one flit that are moved and that are not; an FSN to another die in a later
stitch than its own, and an FRV whose message has come. -/
theorem wit_TransferEnds :
    let d := physOf State.reset.grid.skip 131
    let x := fun (t : Xfer) => ({ State.reset with
      clus := [(d * 4 + 3, { cores := [(7, { xfers := [t] })] })], dies := [(d, { count := 9 })] } : State)
    let has := fun (t : Xfer) => xferAt (x t) d 3 7 0 == some t
    let frv : Xfer := { kind := .frv, moved := 1, src := some (3, 0, 5) }
    let s := { x frv with nis := [(d, { rx := [{ srank := 3, sclass := 0, msg := 5, seen := [0] }] })]
                          clus := (12, { cores := [(0, { xfers := [{ kind := .fsn, msg := 5 }] })] }) :: (x frv).clus }
    xferOk 131 3 7 = true ∧ has { kind := .dmr, moved := 1 } = true ∧ has { kind := .dmw } = true ∧ has { kind := .dmr } = true ∧
      unitGone (x { kind := .dmr }) 0 = false ∧ poisonOf (x { kind := .dmr }) 0 = 0 ∧
      has { kind := .fsn, moved := 1 } = true ∧ (dieOf (x {kind := .fsn}) d).count ≠ 0 ∧ (niOf (x { kind := .fsn }) 0).held = [] ∧
      has { kind := .fsn } = true ∧ fsnFits (x { kind := .fsn }) d 3 131 { kind := .fsn } = true ∧
      xferAt s d 3 7 0 = some frv ∧ sentFlits s (3, 0, 5) = some 1 ∧ frvWhole s d frv = true := by
  decide +kernel

/-! ## Witnesses: the mailbox -/

/-- The hypotheses that a request reaches Herus, is the next taken up, and passes the checks of R421, as one check. -/
def passes (op : Nat) (q : MbReq) (l : List (Nat × List Byte)) (s : State) : Bool :=
  fnOk q.fn && fnReached s q.fn && !(fnOf s q.fn).mb.own && herusUp s && decide (nextUp (submitted op q l s) = some q.fn) &&
    decide (checkReq q op (params l) (takenUp op q l s) = none)

/-- What `passes` checks. -/
theorem accepted_of_passes {op : Nat} {q : MbReq} {l : List (Nat × List Byte)} {s : State} (h : passes op q l s = true) :
    fnOk q.fn = true ∧ accepted op q l s := by
  simp only [passes, Bool.and_eq_true, Bool.not_eq_true', decide_eq_true_eq] at h
  exact ⟨h.1.1.1.1.1, ⟨h.1.1.1.1.2, h.1.1.1.2, h.1.1.2⟩, h.1.2, h.2⟩

/-- A boot state at ready with the licence of a CRD-P144-X. -/
def readyBoot : Boot := { pstate := 1, phase := 8, co3Done := true, co4Done := true, lic := some {} }

/-- A panel at ready with both host ports up and 63 VFs. -/
def ready : State := { State.reset with boot := readyBoot, pins := { hostPerst := [], numVfs := 63 } }

/-- A panel at ready that runs an image of which only NSECT matters, with a round in progress. -/
def running (nsect : Nat) : State :=
  { ready with pat := { running := some (List.replicate 0x18 0 ++ natLe 2 nsect) }, rnd := { active := true } }

/-- Requests of PF0, PF1 and VF3. -/
def q0 : MbReq := { fn := 0, tag := 7 }
/-- A request of PF1. -/
def q1 : MbReq := { fn := 64, tag := 7 }
/-- A request of VF3. -/
def q3 : MbReq := { fn := 3, tag := 7 }

/-- `MailboxIdentity`: at ready, and TIME_READ during a cast-on before CO3 has ended. -/
theorem wit_MailboxIdentity :
    passes 0x01 q0 [] ready = true ∧ passes 0x01 q3 [] ready = true ∧ passes 0x03 q3 [] ready = true ∧ passes 0x11 q1 [] ready = true ∧
      passes 0x90 q3 [] ready = true ∧ ready.boot.co3Done = true ∧
      passes 0x90 q0 [] { ready with boot := { phase := 1 } } = true := by
  decide +kernel

/-- A panel with a session of tenant 3 at index 5, in generation 1. -/
def withSession (x : Session) : State := { ready with sess := [(5, x)] }

/-- `MailboxReads`: PF0 and a VF; the last die, the anchors as a broadcast read, every item; the ports of a die; a session by its handle. -/
theorem wit_MailboxReads :
    passes 0x02 q0 [] ready = true ∧ passes 0x02 q3 [] ready = true ∧ passes 0x43 q0 [] ready = true ∧ passes 0x51 q0 [] ready = true ∧
      passes 0x55 q0 [] ready = true ∧ passes 0xB1 q0 [] ready = true ∧ passes 0x54 q0 [(0, natLe 8 0), (8, natLe 4 4096)] ready = true ∧
      passes 0x32 q0 [(0, natLe 2 225), (2, natLe 1 1), (3, natLe 1 4)] ready = true ∧ (225 : W16).toNat < numDies ∧
      passes 0x32 q0 [(0, natLe 2 0xFFFF), (2, natLe 1 0), (3, natLe 1 3)] ready = true ∧
      passes 0xA0 q0 [(0, natLe 2 225), (2, natLe 1 0xFF)] ready = true ∧ (endsOf 225).length = 6 ∧ (endsOf 0).length = 3 ∧
      (let s := withSession { state := .active, tenant := 3 }
       passes 0x72 q3 [(0, natLe 4 0x100005), (4, natLe 4 0)] s = true ∧ sessionFor s 3 0x100005 = some 5 ∧
         sessionFor s 0 0x100005 = some 5) := by
  decide +kernel

/-- `MailboxSensors`: each scope, at its last part. -/
theorem wit_MailboxSensors :
    passes 0x50 q0 [(0, natLe 1 0), (1, natLe 1 0), (2, natLe 2 0)] ready = true ∧
      passes 0x50 q0 [(0, natLe 1 1), (1, natLe 1 0), (2, natLe 2 225)] ready = true ∧
      passes 0x50 q0 [(0, natLe 1 2), (1, natLe 1 5), (2, natLe 2 225)] ready = true ∧ (peer 225 4).isSome = true ∧
      passes 0x50 q0 [(0, natLe 1 3), (1, natLe 1 0), (2, natLe 2 11)] ready = true ∧ passes 0x41 q0 [] ready = true := by
  decide +kernel

/-- `MailboxSettings`: each command, the last tenant and timer; a timer in the future and one at the present stitch; a stack that is out. -/
theorem wit_MailboxSettings :
    passes 0x40 q0 [(0, natLe 4 2500)] ready = true ∧ passes 0x42 q0 [(0, natLe 2 5500), (2, natLe 2 500)] ready = true ∧
      passes 0x52 q0 [(0, natLe 1 1), (1, natLe 1 255), (2, natLe 1 0)] ready = true ∧
      passes 0x62 q0 [(0, natLe 1 63), (1, natLe 1 1), (4, natLe 4 0), (8, natLe 4 1)] ready = true ∧
      passes 0x91 q3 [(0, natLe 1 7), (1, natLe 1 1), (8, natLe 8 0)] ready = true ∧
      passes 0x91 q3 [(0, natLe 1 7), (1, natLe 1 0), (8, natLe 8 1)] ready = true ∧ (stitchAhead 1 (stitchNow ready)).isSome = true ∧
      passes 0x91 q3 [(0, natLe 1 7), (1, natLe 1 0), (8, natLe 8 0)] ready = true ∧ (stitchAhead 0 (stitchNow ready)).isNone = true ∧
      passes 0xB0 q0 [(0, natLe 2 721), (2, natLe 1 0), (3, natLe 1 0), (4, natLe 1 0)] ready = true ∧
      (let s := { ready with pmem := { stk := [(71, { state := .out })] } }
       passes 0xB0 q0 [(0, natLe 2 0), (2, natLe 1 1), (3, natLe 1 11), (4, natLe 1 5)] s = true ∧
         (stackOf s (11 : Byte).toNat (5 : Byte).toNat).state = .out ∧ s.pmem.failed.contains 5 = false ∧ s.pmem.rebuild = none ∧
         s.pat.running = none ∧ q0.env.trains = true) := by
  decide +kernel

/-- `MailboxFirmware`: a licence bound to this panel, with no pattern and with one; an image to stage; a staged image to activate. -/
theorem wit_MailboxFirmware :
    let q : MbReq := { q0 with bulkv := true, blen := 1, env := { lic := { serial := Config.serial } } }
    let z : MbReq := { q0 with bulkv := true }
    (passes 0x10 q [] ready = true ∧ passes 0x10 q [] (running 1) = true ∧ (∃ b, bulkIn q 4096 = .inr b) ∧ q.blen ≠ 0 ∧
      licGood q.env.lic = true ∧ licInUse ready q.env.lic = false ∧ licInUse (running 1) q.env.lic = false) ∧
    (passes 0xF0 z [] ready = true ∧ ∃ b, bulkIn z (min (32 * 2 ^ 20) Config.slotSize) = .inr b) ∧
    (let s := { ready with flash := { staged := some {} } }
     passes 0xF1 q0 [(0, natLe 1 1)] s = true ∧ s.flash.staged = some {}) := by
  refine ⟨⟨by decide +kernel, by decide +kernel, ⟨_, rfl⟩, by decide, by simp [licGood], by decide +kernel, by decide +kernel⟩,
    ⟨by decide +kernel, [], ?_⟩, by decide +kernel, rfl⟩
  simp [bulkIn, q0, fitBytes]

/-- `MailboxPatterns`, but for staging and commit (see the witnesses of images): the three cases of a stop; a target that ends with panel
memory, the whole of a stripe being allocated; an intake that is open on the same target. -/
theorem wit_MailboxPatterns :
    passes 0x23 q0 [(0, natLe 1 1)] (running 1) = true ∧ passes 0x23 q0 [(0, natLe 1 0)] (running 1) = true ∧
      (running 1).pat.running.isSome = true ∧ (running 1).rnd.active = true ∧
      (let s := { running 1 with rnd := {} }
       passes 0x23 q0 [(0, natLe 1 0)] s = true ∧ s.pat.running.isSome = true ∧ s.rnd.active = false) ∧
      (let b := List.replicate 0x50 0 ++ natLe 8 (1536 * stripeUnits)
       let s := { ready with pat := { committed := some b }, intake := { open_ := true, base := 6 * stripeUnits - 1, len := 1 } }
       passes 0x24 q1 [(0, natLe 8 (6 * stripeUnits - 1)), (8, natLe 8 1), (0x10, natLe 8 5)] s = true ∧
         6 * stripeUnits - 1 < 2 ^ 64 ∧ allocBound s = some stripeUnits ∧ targetFits stripeUnits (6 * stripeUnits - 1) 1 = true ∧
         passes 0x24 q1 [(0, natLe 8 0), (8, natLe 8 1), (0x10, natLe 8 0)] { s with intake := {} } = true ∧
         passes 0x25 q1 [] s = true ∧ s.intake.open_ = true) := by
  decide +kernel

/-- `MailboxSets`: the steady set point of every die, a ceiling of the last compute die and eight entries; a swap 512 stitches on; MODE_SET. -/
theorem wit_MailboxSets :
    let e := (natLe 1 0 ++ natLe 1 0 ++ natLe 2 1250 ++ List.replicate 12 0)
    let l : List (Nat × List Byte) := [(0, natLe 2 0xFFFF), (2, natLe 1 1), (3, natLe 1 8), (0x10, (List.replicate 8 e).flatten)]
    let c : List (Nat × List Byte) := [(0, natLe 2 131), (2, natLe 1 2), (3, natLe 1 1), (0x10, natLe 1 15 ++ natLe 1 0 ++ natLe 2 900)]
    (passes 0x30 q0 l ready = true ∧ scopeOk 1 0xFFFF = true ∧ (entriesApplied 1 (params l) (List.range 8)).isRight = true ∧
      unconfirmed q0 (copySets (takenUp 0x30 q0 l ready)) 0xFFFF = []) ∧
    (physOf ready.grid.skip 131 = 131 ∧ passes 0x30 q0 c ready = true ∧ scopeOk 2 131 = true ∧
      (entriesApplied 2 (params c) (List.range 1)).isRight = true ∧ unconfirmed q0 (copySets (takenUp 0x30 q0 c ready)) 131 = []) ∧
    (let t := copySets (takenUp 0x31 q0 [(0, natLe 8 512)] ready)
     passes 0x31 q0 [(0, natLe 8 512)] ready = true ∧ stitchAhead ((512 : W64).setWidth 48) (stitchNow ready) = some 512 ∧
      (dieOf t (anchorDie t)).shadow.mode = .steady ∧
      gradeBars ready .steady = false ∧ ((liveDies t).all fun d => (dieOf t d).arm != .notReady) = true) ∧
    (let t := copySets (takenUp 0x33 q0 [(0, natLe 1 1)] ready)
     passes 0x33 q0 [(0, natLe 1 1)] ready = true ∧ tabWf {} ready.dies = true ∧ modeOf 1 = some .brisk ∧ ready.boot.bound = false ∧
      gradeBars ready .brisk = false ∧ ((liveDies t).all fun d => (dieOf (modDies (liveDies t)
        (fun x => { x with shadow := { x.shadow with mode := .brisk } }) t) d).arm != .notReady) = true) := by
  decide +kernel

/-- A configuration of the last tenant: quota, window and its last ring pair. -/
def cfg63 : TenantCfg :=
  { tenant := 63, which := 0x405, quota := 10, age := 0, wstripe := 5, woff := 0, wlen := 1
    rings := List.replicate 7 ⟨0, 0, 0, 0⟩ ++ [⟨1, 6, 0x1000, 0x2000⟩] }

/-- `MailboxTenants`: a configuration with a new window, with no pattern and with one; a reset of a tenant that is not yet resetting and of one
that is; each action of the fence, open and closed. -/
theorem wit_MailboxTenants :
    let r := { running 1 with pat := { running := some (List.replicate 0x50 0 ++ natLe 8 1536) } }
    let c := cfgApplied ready.boot.lic (cfgOf (params [(0, cfgBytes cfg63)]))
    (passes 0x60 q0 [(0, cfgBytes cfg63)] ready = true ∧ c.tenant.toNat = 63 ∧ c.wstripe.toNat = 5 ∧ c.which.getLsbD 2 = true ∧
      ((ringsOf c).all fun x => decide (x.2.en.toNat ≤ 1)) = true ∧ ringsRefused ready c = [] ∧ winRefused ready c = false ∧
      ready.pat.running = none) ∧
    (passes 0x60 q0 [(0, cfgBytes cfg63)] r = true ∧ ringsRefused r c = [] ∧ winRefused r c = false ∧ cfgWin c ≠ (tenOf r 63).win ∧
      r.swp = none ∧ r.pat.running.isSome = true) ∧
    (passes 0x61 q0 [(0, natLe 1 63)] ready = true ∧ (tenOf ready 63).resetting = false ∧
      (let s := { ready with ten := [(63, { resetting := true })] }
       passes 0x61 q0 [(0, natLe 1 63)] s = true ∧ (tenOf s 63).resetting = true)) ∧
    (let f := { ready with rnd := { fence := true } }
     (List.range 3).all (fun a => passes 0x73 q0 [(0, natLe 1 a)] ready && passes 0x73 q0 [(0, natLe 1 a)] f) = true ∧
       ready.rnd.fence = false ∧ f.rnd.fence = true) := by
  decide +kernel

/-- A session image of KIND `kind` and length `len`, 0 or 1, for a vocabulary of one token, without pages. -/
def sessImg (kind len : Nat) : List Byte :=
  let body := natLe 4 0x31535345 ++ natLe 2 1 ++ natLe 1 kind ++ natLe 1 0 ++ natLe 8 (512 + 256 * len) ++ List.replicate 0x34 0 ++
    natLe 4 1 ++ List.replicate 0x20 0 ++ natLe 4 len ++ List.replicate 148 0 ++ List.replicate (256 * len) 0 ++ List.replicate 208 0
  body ++ sha384 body

/-- `MailboxSessions`: an export by the owner, and imports of an empty session and of a history of one token, at the quota's last place. -/
theorem wit_MailboxSessions :
    (let s := withSession { state := .active, tenant := 3 }
     passes 0x70 q3 [(0, natLe 4 0x100005)] s = true ∧ sessionFor s 3 0x100005 = some 5 ∧ (tenOf s 3).resetting = false ∧
       s.rnd.active = false) ∧
    (let s := { running 1 with rnd := { freeIdx := [(0, 1)], layout := some {} }, ten := [(3, { quota := 1 })] }
     let q := fun (k n : Nat) => ({ q3 with bulkv := true, blen := BitVec.ofNat 32 (2 + n), env := { bulk := sessImg k n } } : MbReq)
     passes 0x71 (q 0 0) [(0, natLe 1 3)] s = true ∧ passes 0x71 (q 1 1) [(0, natLe 1 3)] s = true ∧
       importCheck s (sessImg 0 0) = none ∧ importCheck s (sessImg 1 1) = none ∧ fitBytes 512 (sessImg 0 0) = sessImg 0 0 ∧
       fitBytes 768 (sessImg 1 1) = sessImg 1 1 ∧ (imageIn (sessImg 1 1)).kind = 1 ∧ (imageIn (sessImg 1 1)).len = 1 ∧
       (imageIn (sessImg 0 0)).len = 0 ∧ (imageIn (sessImg 1 1)).npage = 0 ∧ (q 1 1).baddr = 0 ∧ (q 1 1).env.readOk = true ∧
       (takeIndex (takenUp 0x71 (q 0 0) [(0, natLe 1 3)] s)).isSome = true ∧ (tenantSessions s 3).length < (tenOf s 3).quota ∧
       canGrow (takenUp 0x71 (q 1 1) [(0, natLe 1 3)] s) {} 0 = true) := by
  decide +kernel

/-- `MailboxResets`: each command, a live site of the last wale with a spare, a spare site, a retired site, links in the states that each form
accepts and a retired die's disabled link. -/
theorem wit_MailboxResets :
    (passes 0x56 q0 [(0, natLe 1 15)] ready = true ∧ passes 0x56 q0 [(0, natLe 1 15)] (running 1) = true) ∧
    (passes 0x53 q0 [(0, natLe 1 0), (1, natLe 1 11)] ready = true ∧ dieLive ready (siteDie 0 11) = true ∧ freeSpare ready 11 = true ∧
      skipOf ready.grid.skip 11 ≠ 0 ∧ passes 0x53 q0 [(0, natLe 1 11), (1, natLe 1 11)] ready = true ∧ skipOf ready.grid.skip 11 = 11 ∧
      ready.grid.retired.contains (siteDie 11 11) = false ∧ ready.boot.bound = false ∧
      passes 0x53 q0 [(0, natLe 1 0), (1, natLe 1 11)] { ready with grid := { retired := [11] } } = true ∧ [11].contains (siteDie 0 11) = true) ∧
    (passes 0x80 q0 [] ready = true ∧ passes 0x81 q0 [] ready = true ∧ passes 0x82 q0 [(0, natLe 1 1), (1, natLe 1 1)] ready = true ∧
      ready.boot.pstate ≠ 7) ∧
    (let s := fun (st : LinkState) => ({ ready with links := [(linkKey 225 5, { state := st })] } : State)
     let l := fun (form : Nat) => [(0, natLe 2 225), (2, natLe 1 5), (3, natLe 1 form)]
     portOk 225 5 = true ∧ passes 0xA1 q0 (l 0) (s .axust) = true ∧ (linkOf (s .axust) 225 5).state = .axust ∧
       passes 0xA1 q0 (l 0) (s .retraining) = true ∧ (linkOf (s .retraining) 225 5).state = .retraining ∧
       passes 0xA1 q0 (l 1) (s .axust) = true ∧ (s .axust).pat.running = none ∧ reportsOnly (s .axust) 225 5 = false) ∧
    (let s := { ready with links := [(linkKey 0 2, { state := .disabled })], grid := { retired := [0] } }
     passes 0xA1 q0 [(0, natLe 2 0), (2, natLe 1 2), (3, natLe 1 1)] s = true ∧ reportsOnly s 0 2 = true ∧ portOk 0 2 = true) := by
  decide +kernel

/-- `MailboxTakeUp`: with a P0 request of VF63 and a P2 request of PF0 waiting, VF63's is taken up; on a panel without requests none is, and a
request made then is the next; PF0's waits behind VF63's; each check that fails first. -/
theorem wit_MailboxTakeUp :
    (let s := { ready with fns := [(0, { mb := { own := true, cls := 2 } }), (63, { mb := { own := true, cls := 0 } })] }
     herusUp s = true ∧ nextUp s = some 63 ∧ (fnOf s 0).mb.own = true ∧ (fnOf s 0).mb.taken = false ∧ (fnOf s 63).mb.cls ≤ (fnOf s 0).mb.cls) ∧
    (let s := { ready with fns := [(63, { mb := { own := true, cls := 0 } })] }
     fnOk q0.fn = true ∧ fnReached s q0.fn = true ∧ (fnOf s q0.fn).mb.own = false ∧ herusUp s = true ∧
       nextUp (submitted 0x01 q0 [] s) = some 63) ∧
    nextUp ready = none ∧ ((List.range 65).all fun f => !(fnOf ready f).mb.own) = true ∧ whoMay 0x04 = none ∧
    (let s := { ready with fns := [(63, { mb := { own := true, req := [(0, 1)] } })] }
     nextUp s = some 63 ∧ checkReq (areaReq 63 {} (fnOf s 63).mb) (leAt (areaBytes (fnOf s 63).mb.req) 0 2)
       ((areaBytes (fnOf s 63).mb.req).drop 32) s = none) ∧
    (whoMay 0x20 = some .pf ∧ isPf 3 = false) ∧ (whoMay 0x60 ≠ some .pf → ownParams 3 0x60 (natLe 4 4) = false) ∧
    (let s := { ready with boot := { readyBoot with lic := none } }
     isPf 0 = true ∧ (whoMay 0x20).isSome = true ∧ s.boot.pstate ≠ 0 ∧ s.boot.trip = false ∧ freeOps.contains 0x20 = false) ∧
    (let s := { ready with boot := { readyBoot with pstate := 7, trip := true } }
     (whoMay 0x20).isSome = true ∧ s.boot.trip = true ∧ tripOps.contains 0x20 = false) ∧
    checkReq q0 0x01 [] ready = none := by
  decide +kernel

/-- `OutstandingRequest`: a request outstanding, and the first and last offsets of each area. -/
theorem wit_OutstandingRequest :
    let s := { ready with fns := [(0, { mb := { own := true } })] }
    fnOk 0 = true ∧ fnReached s 0 = true ∧ (fnOf s 0).mb.own = true ∧ 0x1000 % 4 = 0 ∧ 0x10FC % 4 = 0 ∧ 0x10FC < 0x1100 ∧
      (2 : W32) ≠ 1 := by
  decide +kernel

/-- `ResponseWritten`: a response that is not dropped, with and without NOINT, the vector unmasked, masked and held; and a quiet panel. -/
theorem wit_ResponseWritten :
    ((fnOf ready 0).mb.dropped = false ∧ q0.noint = false ∧ fnExists ready 0 = true ∧ (fnOf ready 0).bme = false) ∧
    (let s := { ready with fns := [(0, { bme := true, msix := [] }), (64, { bme := true })] }
     (fnOf s 0).bme = true ∧ (tabGet 0 (fnOf s 0).msix 3).getLsbD 0 = false ∧ (fnOf s 64).bme = true ∧
       (tabGet 0 (fnOf s 64).msix 3).getLsbD 0 = true ∧ fnExists s 64 = true) ∧
    quiet State.reset := by
  refine ⟨by decide +kernel, by decide +kernel, fun _ => rfl, rfl, rfl, rfl, ?_⟩
  simp [State.reset]

/-! ## Witnesses: rings, registers and functions -/

/-- A panel with a round in progress and one enabled ring, the last of the last tenant. -/
def withRing (q : RingPair) : State := { running 1 with ten := [(63, { rings := [(7, q)] })] }

/-- `RingRequests`: a ring with one entry left, at its end and across the wrap. -/
theorem wit_RingRequests :
    (let s := withRing { en := true, hostNext := 62, sqTail := 62 }
     ringOk ⟨63, 7⟩ = true ∧ fnReached s 63 = true ∧ (ringOf s 63 7).en = true ∧ (tenOf s 63).resetting = false ∧ s.boot.pstate ≠ 0 ∧
       (62 + 1) % 2 ^ 6 ≠ 0 ∧ tailOk (ringOf s 63 7) 63 = true) ∧
    (let s := withRing { en := true, hostNext := 63, sqTail := 63, sqHead := 1 }
     (63 + 1) % 2 ^ 6 ≠ (ringOf s 63 7).sqHead ∧ tailOk (ringOf s 63 7) 0 = true) := by
  decide +kernel

/-- A request of tenant 3 on the session at index 5. -/
def reqOn (op : Nat) : Req := { id := 0, tenant := 3, pair := 0, op := op, d := { handle := 0x100005, inline := true }, index := 5 }

/-- `RequestTurns`: each clause, at the quota, at the last free index, at a session's end of its sequence and before it. -/
theorem wit_RequestTurns :
    let act := fun (x : Session) => ({ running 1 with sess := [(5, { x with tenant := 3 })] } : State)
    let named := fun (s : State) => (sessionNamed s 3 0x100005).isSome = true ∧ (5 : Nat) ≠ noIndex
    (List.range 9).all (fun op => op == 0 || !badDesc op (reqOn op).d) = true ∧
    ((tenOf ready 3).quota ≤ (tenantSessions ready 3).length) ∧
    (let s := { ready with ten := [(3, { quota := 1 })] }
     (tenantSessions s 3).length < (tenOf s 3).quota ∧ takeIndex { s with rnd := { freeIdx := [] } } = none ∧
       (takeIndex { s with rnd := { freeIdx := [(1048575, 1048576)] } }).isSome = true) ∧
    (sessionNamed ready 3 0x100005).isSome = false ∧
    (let s := act { state := .active }
     named s ∧ (sessOf s 5).state = .active ∧ (sessOf s 5).npage = 0 ∧ (sessOf s 5).len = 0 ∧ s.pat.running.isSome = true) ∧
    (let s := act { state := .active, npage := 1, len := 2097152 }
     named s ∧ startMark 5 false s = none ∧ licSeqMax s.boot.lic ≤ (sessOf s 5).len ∧
       (startMark 5 false { s with park := [(5, { state := .inService, cap := 1024 })] }).isSome = true) ∧
    (let s := act { state := .active, npage := 1, len := 2097151 }
     (sessOf s 5).len < licSeqMax s.boot.lic ∧ (sessOf s 5).len ≠ 0) ∧
    named (act { state := .failed }) := by
  decide +kernel

/-- `RingEvents`: a live ring, a tail at the host's last place and one beyond it, a disabled ring; a request whose tokens have not come; a ring
that fetches. -/
theorem wit_RingEvents :
    (let s := withRing { en := true, sqTail := 5, sqHead := 5 }
     s.rnd.active = true ∧ fnOk 63 = true ∧ fnReached s 63 = true ∧ s.boot.pstate ≠ 0 ∧ (tenOf s 63).resetting = false ∧
       tailOk (ringOf s 63 7) 4 = true ∧ (ringOf s 63 6).en = false) ∧
    (let s := withRing { en := true, sqTail := 6, sqHead := 5 }
     tailOk (ringOf s 63 7) 6 = true ∧ tailOk (ringOf s 63 7) 5 = false) ∧
    (let s := { running 1 with rnd := { active := true, reqs := [reqOn 2] } }
     awaitingToks s 3 0 = some (reqOn 2)) ∧
    ringLive { withRing { en := true } with fns := [(63, { bme := true })] } 63 7 = true := by
  decide +kernel

/-- `RegisterAccesses`: the first and last words of the two areas, the widest misaligned accesses, a latched pair, and a register that is in no
pair. -/
theorem wit_RegisterAccesses :
    let s := { running 1 with fns := [(64, { latch := [(0x100010, some 5)] })] }
    fnOk 64 = true ∧ fnReached s 64 = true ∧ s.rnd.active = true ∧ (fnOf s 64).mb.own = false ∧
      (0x1000 % 4 = 0 ∧ 0x10FC % 4 = 0 ∧ 0x10FC < 0x1100 ∧ 0x1100 % 4 = 0 ∧ 0x11FC % 4 = 0 ∧ 0x11FC < 0x1200) ∧
      (0x3FFFFFB + 4 ≤ 2 ^ 26 ∧ 0x3FFFFFB % 4 ≠ 0 ∧ 0x3FFFFFB / 4 ≠ (0x3FFFFFB + 4 - 1) / 4 ∧ 0x102 % 4 ≠ 0 ∧
        0x102 / 4 ≠ (0x102 + 4096 - 1) / 4) ∧
      isLo 0x100010 = true ∧ isLo 0x10128 = true ∧ tabGet none (fnOf s 64).latch 0x100010 = some 5 ∧
      isLo 0x1200 = false ∧ isLo 0x11FC = false ∧ isLo 0x3FFFFFC = false ∧ isLo 0x3FFFFF8 = false := by
  decide +kernel

/-- `FunctionResets`: no long command, the first and the last VF, port 0 up and no VF enabled. -/
theorem wit_FunctionResets :
    (fnOf ready 0).mb.long = none ∧ fnReached ready 1 = true ∧ fnReached ready 63 = true ∧ portUp ready 0 = true ∧
      ({ ready with pins := { hostPerst := [] } } : State).pins.numVfs = 0 := by
  decide +kernel

/-- `ApertureAccesses`: port 1 up, a target of two units with the window on its second: unit 0 is mapped and unit 1 is not. -/
theorem wit_ApertureAccesses :
    let s := { ready with intake := { open_ := true, base := 100, len := 2, woff := 1 } }
    portUp s 1 = true ∧ apertureUnit s 0 = some 101 ∧ apertureUnit s 1 = none ∧ unitGone s 101 = false ∧
      apertureOk (2 ^ 32 - 1) 1 = true ∧ (List.replicate 256 (0 : Byte)).length = 256 := by
  decide +kernel

/-! ## Witnesses: time, swaps, knots -/

/-- `StitchEvents`: a ring die, the lodestar, a frozen panel, a die that takes set flits at the edge; a set section's cluster with work left; a
reported hold line; a cluster 26 cycles behind; a die that loads its count; phase errors of 8, 9 and 32 slot times. -/
theorem wit_StitchEvents :
    dieOk 225 = true ∧ State.reset.lode.frozen = false ∧ State.reset.pat.running = none ∧ 225 ≠ anchorDie State.reset ∧
      State.reset.pwr.leanDue = false ∧ anchorDie State.reset = 224 ∧ ({ frozen := true } : Lode).frozen = true ∧
      (cluOf State.reset 143 3).srvs = [] ∧
      (let s := before {} bigCore (.knot 0)
       s.pat.running.isSome = true ∧ inSetSection s = true ∧ s.lode.frozen = false ∧ (leftOver (budget s) (cluOf s 0 0)).isSome = true) ∧
      leftOver 256 { cores := (List.range 8).map fun n => (n, { knot := some 0 }) } = none ∧
      inSetSection State.reset = false ∧ ({ reported := true } : Lode).reported = true ∧ State.reset.lode.reported = false ∧
      (let s := { State.reset with dies := [(0, { loadNext := true })] }
       (dieOf s 0).loadNext = true ∧ (dieOf s 1).loadNext = false) ∧
      (let f : SetFlit := ⟨⟨0, 12, 0, false, 12, 0⟩, 0, []⟩
       flitsOwed { running 1 with nis := [(0, { retime := [(2, f)] })] } (physOf State.reset.grid.skip 12) = true) ∧
      (8 : Int).natAbs ≤ 32 ∧ (-9 : Int).natAbs ≤ 32 ∧ (32 : Int).natAbs ≤ 32 ∧ rankOk 131 = true := by
  decide +kernel

/-- `Freezes`: a freeze point that is named, a panel that is frozen, the last of two holders and the first, a cluster that nothing holds. -/
theorem wit_Freezes :
    let named := { State.reset with lode := { freezeAt := some 40, holders := [0, 225] } }
    let held := { State.reset with lode := { freezeAt := some 40, frozen := true, holders := [225], resumeAt := some 80 } }
    dieOk 225 = true ∧ named.lode.frozen = false ∧ named.lode.freezeAt = some 40 ∧ setDel 225 named.lode.holders ≠ [] ∧
      setDel 225 held.lode.holders = [] ∧ held.lode.frozen = true ∧ held.lode.resumeAt = some 80 ∧
      (State.reset.lode.frozen = false ∧ State.reset.lode.freezeAt = none ∧ setDel 225 State.reset.lode.holders = []) ∧
      cluFreed State.reset { pausedSet := true } = true := by
  decide +kernel

/-- A panel on which every link is trained in AXUST at full width. -/
def linked : State := { ready with links := allLinks.map fun e => (e.1 * 8 + e.2, { state := .axust, lanes0 := 64, lanes1 := 64, fb0 := true, fb1 := true }) }

/-- `TimingPaths`: a die with an alternative; a compute die, a stack and a ring die without one. -/
theorem wit_TimingPaths :
    dieOk 30 = true ∧ (altTiming linked 30).isSome = true ∧ altTiming ready 30 = none ∧ dieOk 215 = true ∧ altTiming ready 215 = none ∧
      dieOk 216 = true ∧ altTiming ready 216 = none := by
  decide +kernel

/-- `SwapEvents`: a pending swap with the last die idle, in time and out of it; with every live die armed, eight stitches before its target; sent,
two stitches before it and at it, with a nack, without, and with a die that has missed it; timers in their stitch and before it. -/
theorem wit_SwapEvents :
    let w : Swap := { kind := .sets, fn := 0, target := some 512 }
    let at_ := fun (n : Nat) (d : Die) (u : Swap) => ({ running 1 with
      swp := some u, dies := (List.range 226).map fun i => (i, { d with count := BitVec.ofNat 48 n }) } : State)
    let sent : Swap := { w with sent := true }
    (let s := at_ 0 {} w
     dieOk 225 = true ∧ dieLive s 225 = true ∧ (dieOf s 225).arm = .idle ∧ s.pat.running.isSome = true ∧ w.sent = false ∧ armOver s w = false ∧
       allArmed s = false ∧ w.target ≠ some 513 ∧ armOver (at_ 448 {} w) w = true ∧ allArmed (at_ 448 {} w) = false) ∧
    (let s := at_ 504 { arm := .armed } w
     allArmed s = true ∧ toTarget s 512 = 8 ∧ w.target = some 512 ∧ 2 < toTarget s 512) ∧
    (let s := { at_ 510 {} sent with lode := { nacks := [225] } }
     toTarget s 512 = 2 ∧ s.lode.nacks ≠ [] ∧ sent.sent = true) ∧
    (let s := at_ 512 { swapGot := some 512 } sent
     sent.target = some (stitchNow s) ∧ sent.withheld = false ∧ s.lode.nacks = [] ∧
       ((liveDies s).filter fun d => (dieOf s d).swapGot.isNone) = [] ∧
       ((liveDies (at_ 512 {} sent)).filter fun d => (dieOf (at_ 512 {} sent) d).swapGot.isNone) ≠ []) ∧
    (let s := { ready with fns := [(64, { timers := [(6, some 0), (7, some 9)] })] }
     fnOk 64 = true ∧ tabGet none (fnOf s 64).timers 6 = some 0 ∧ stitchNow s = 0 ∧ tabGet none (fnOf s 64).timers 7 = some 9) := by
  decide +kernel

/-- `KnotEvents`: a die at the knot of the section in progress, before F + LIMIT and at it, every site arrived at an inner knot and at the
ending one, a section about to start, and a knot that times out with one site missing. -/
theorem wit_KnotEvents :
    let all := siteDies State.reset
    let img := fun (n limit : Nat) => natLe 8 (limit * 2 ^ 24) ++ List.replicate 0x10 0 ++ natLe 2 n
    let sec := fun (n k limit : Nat) (l : List Nat) => ({ running n with
      pat := { running := some (img n limit), sect := k, inSect := true }, lode := { arrivals := l }
      dies := [(143, { arrived := some 0, count := 1 })] } : State)
    (dieOk 143 = true ∧ (dieOf (sec 2 0 1 []) 143).arrived = some 0 ∧ (dieOf (sec 2 0 1 []) 143).count ≠ (dieOf (sec 2 0 1 []) 143).arrivedIn ∧
      (sec 2 0 1 []).pat.sect = 0 ∧ (stitchNow (sec 2 0 1 []) - (sec 2 0 1 []).pat.first).toNat < knotLimit (runImg (sec 2 0 1 [])) 0 ∧
      knotLimit (runImg (sec 2 0 0 [])) 0 ≤ (stitchNow (sec 2 0 0 []) - (sec 2 0 0 []).pat.first).toNat) ∧
    (allArrived (sec 2 0 1 all) = true ∧ 0 + 1 ≠ imgNsect (runImg (sec 2 0 1 all)) ∧ fireStitch (sec 2 0 1 all) = stitchNow (sec 2 0 1 all)) ∧
    (allArrived (sec 2 1 1 all) = true ∧ 1 + 1 = imgNsect (runImg (sec 2 1 1 all)) ∧ fireStitch (sec 2 1 1 all) = stitchNow (sec 2 1 1 all) ∧
      allArrived (sec 2 0 1 []) = false) ∧
    ((running 2).pat.inSect = false ∧ stitchNow (running 2) = (running 2).pat.first ∧ (running 2).pwr.leanDue = false ∧ (running 2).swp = none) ∧
    (let s := sec 2 0 0 (all.drop 1)
     ((siteDies s).filter fun d => dieLive s d && !s.lode.arrivals.contains d) = [0] ∧
       (stitchNow s - s.pat.first).toNat = knotLimit (runImg s) s.pat.sect) := by
  decide +kernel

/-- `AbortEvents`: a fault of each kind, an abort of each end of its range, a stall at its limit and below it, in a replay and before one, a
request that waits for pages. -/
theorem wit_AbortEvents :
    (Instr.fault 225 1).wf = true ∧ (Instr.fault 0 6).wf = true ∧ (Instr.fault 0 0x13).wf = true ∧ (Instr.abort 1 [0]).wf = true ∧
      (Instr.abort 5 [1048575]).wf = true ∧
      (let s := { running 1 with lode := { stall := 2000000 } }
       2000000 ≤ s.lode.stall ∧ s.pat.tbsReplay = false ∧ ({ s with pat := { s.pat with tbsReplay := true } } : State).pat.tbsReplay = true) ∧
      ((running 1).lode.frozen = false ∧ (running 1).lode.stall < 2000000) ∧
      (let s := { running 1 with rnd := { reqs := [{ reqOn 2 with waitPages := true }] } }
       (s.rnd.reqs.find? fun x => x.tenant == 3 && x.d.usertag == 0 && x.waitPages).isSome = true) := by
  decide +kernel

/-- `ParkEvents`: a snapshot in a round and between rounds; a copy and an unpark of the last session, at the last port; a port that is down and
one that is up, with no bind-off. -/
theorem wit_ParkEvents :
    roundsUp (running 1) = true ∧ (running 1).rnd.active = true ∧ roundsUp ready = true ∧ ready.rnd.active = false ∧
      (let s := fun (b : Bool) => ({ running 1 with park := [(5, { state := .inService, jobs := [{ index := 1048575, unpark := b }] })] } : State)
       jobOf (s false) 1048575 false = some (5, { index := 1048575 }) ∧ jobOf (s false) 1048575 true = none ∧ (s false).rnd.active = true ∧
         jobOf (s true) 1048575 true = some (5, { index := 1048575, unpark := true }) ∧ (portOf (s true) 5).state ≠ .down ∧
         (s true).boot.binding = none ∧ ((portOf (s true) 5).jobs.all fun j => j.unpark) = true) ∧
      (let s := { ready with park := [(5, { jobs := [{ index := 7 }] })] }
       jobOf s 7 false = some (5, { index := 7 }) ∧ s.rnd.active = false ∧ (portOf s 5).state = .down) := by
  decide +kernel

/-! ## Witnesses: fabric, links, panel memory -/

/-- A panel whose pattern sends set-slot entry 0 of any rank to the rank below rank 0, due at slot 12, with such a flit handed over at rank 0, and
the RAW link to it. -/
def sending (n : NI) : State :=
  { ready with
    pat := { running := some (natLe 8 (12 * 2 ^ 40 + 12)) }
    clus := [(0, { handed := [(0, { payload := [1] })] })], dies := [(0, { ref := 2000 })], nis := [(0, n), (12, n)]
    links := [(linkKey 0 2, { state := .raw, lanes0 := 64 }), (linkKey 12 2, { state := .raw, lanes0 := 64 })] }

/-- The set flit of `sending`. -/
def flit12 : SetFlit := ⟨⟨0, 12, 0, false, 12, 0⟩, 0, [1]⟩

/-- `SetFlits`: at its source before its slot, on it with the slot free and taken, and late with a slot free and taken; nothing handed over; the
same at a die on the way; landings in a later stitch and in the stitch of departure. -/
theorem wit_SetFlits :
    (Instr.setFlitForward 0 2 4095 flit12).wf = true ∧ setOutput (sending {}) 0 flit12.hdr = some 2 ∧ isSource (sending {}) 0 flit12.hdr = true ∧
      handedAt (sending {}) 0 0 = some (0, { payload := [1] }) ∧ flit12 = sourceFlit (sending {}) flit12.hdr.srank.toNat 0 { payload := [1] } ∧
      handedAt (sending {}) 0 1 = none ∧
      setWaits 0 2 11 false flit12 (sending {}) = true ∧ setWaits 0 2 12 (handedShort (sending {}) 0 12 { payload := [1] }) flit12 (sending {}) = false ∧
      (niOf (sending {}) 0).due.contains (2, 12) = false ∧ (niOf (sending { due := [(2, 12)] }) 0).due.contains (2, 12) = true ∧
      setWaits 0 2 12 false flit12 (sending { due := [(2, 12)] }) = false ∧ setWaits 0 2 15 false flit12 (sending {}) = false ∧
      setWaits 0 2 15 false flit12 (sending { due := [(2, 15)] }) = true ∧ setWaits 0 2 13 false flit12 (sending {}) = true ∧
      handedShort (sending {}) 0 12 { ref := 2000, payload := [1] } = true ∧ slotAt flit12.hdr 530 = (1, 18) ∧
    (let f : SetFlit := ⟨⟨0, 24, 0, false, 12, 0⟩, 0, [1]⟩
     (Instr.setFlitForward 12 2 12 f).wf = true ∧ setOutput (sending {}) 12 f.hdr = some 2 ∧ isSource (sending {}) 12 f.hdr = false ∧
       setWaits 12 2 11 false f (sending {}) = true ∧ setWaits 12 2 12 false f (sending {}) = false ∧
       setWaits 12 2 15 false f (sending { used := [(2, 15)] }) = true ∧ setWaits 12 2 15 false f (sending {}) = false) ∧
    (let f : SetFlit := ⟨⟨0, 12, 12, false, 12, 0⟩, 3, []⟩
     (Instr.setFlitLanding 12 4095 f).wf = true ∧ physOf ready.grid.skip 12 = 12 ∧ setOutput ready 12 f.hdr = none ∧
       f.hdr.dstitch.toNat = (dieOf ready 12).count.toNat % 256 ∧
       f.hdr.dstitch.toNat ≠ (dieOf { ready with dies := [(12, { count := 0x1FF })] } 12).count.toNat % 256) := by
  decide +kernel

/-- A free flit to a cluster of rank 12, with its hops. -/
def free12 (hops : Nat) : FreeFlit := ⟨{ addr := 0, off := 0, msg := 5, srank := 0, sclass := 0, drank := 12, dclass := 0, tag := 0
                                         hops := BitVec.ofNat 6 hops, cm := false, ece := false, kind := 1, tepoch := 0 }, 1, []⟩

/-- `FreeFlits`: an output with a replay waiting, one that a set flit holds, and one that is not AXUST; a flit at its destination, at 62 and at 63
hops elsewhere, and one with no destination; an acknowledgement at the end of a window and before it; a flit that has been sent again five
and six times. -/
theorem wit_FreeFlits :
    ((Instr.freeFlitRoute 225 511).wf = true ∧ (linkOf ready 0 2).state ≠ .axust ∧ (linkOf linked 0 2).state = .axust ∧
      txRoom linked 0 2 = true ∧ outBusy linked 0 12 2 = false ∧ outBusy { linked with nis := [(0, { due := [(2, 12)] })] } 0 12 2 = true ∧
      (let s := { linked with links := [(linkKey 0 2, { state := .axust, lanes0 := 64, lanes1 := 64, d0 := { replays := [5] } })] }
       (txDir (linkOf s 0 2) 0 2).replays = [5] ∧ outBusy s 0 12 2 = false ∧ txRoom s 0 2 = true)) ∧
    (endpointDie linked 12 0 0 1 = some 12 ∧ endpointDie linked 0xFFFF 0 0 1 = none ∧ (free12 63).hdr.hops = 63 ∧ (free12 62).hdr.hops ≠ 63 ∧
      minBy (outPref 0 12) (productive linked 0 12 false []) = some 2) ∧
    (let n : NI := { sent := [{ flit := free12 0, tries := 5 }, { flit := { free12 0 with hdr := { (free12 0).hdr with msg := 6 } }, tries := 6 }]
                     wins := [{ drank := 12, dclass := 0, acked := 31 }, { drank := 13, dclass := 0, acked := 0 }] }
     let s := { ready with nis := [(144, n)] }
     let hit := fun (dr : W16) => (n.sent.filter fun x => [({ msg := 5, off := 0, count := 1 } : AckRec)].any fun r => ackCovers dr 0 r x).length
     dieOk 144 = true ∧ (winOf n 12 0).w ≤ (winOf n 12 0).acked + hit 12 ∧ (winOf n 13 0).acked + hit 13 < (winOf n 13 0).w ∧
       (winOf n 12 0).halved = none ∧ (winOf n 12 0).acked + hit 12 < (winOf n 12 0).w + 33 ∧
       (winAck 7999 9 true { drank := 12, dclass := 0, halved := some 0 }).2 = false ∧
       (winAck 8000 9 true { drank := 12, dclass := 0, w := 3, halved := some 0 }).1.w = 2 ∧
       (winAck 0 66 false { drank := 12, dclass := 0 }).1 = { drank := 12, dclass := 0, w := 34, acked := 1 } ∧
       (((niOf s 144).sent.find? fun y => y.flit.hdr.msg == 5 && y.flit.hdr.off == 0).map (·.tries)) = some 5 ∧
       (((niOf s 144).sent.find? fun y => y.flit.hdr.msg == 6 && y.flit.hdr.off == 0).map (·.tries)) = some 6) ∧
    (let s := { ready with nis := [(0, { rx := [{ srank := 3, sclass := 0, msg := 9, unacked := [0] }] })] }
     ((niOf s 0).rx.find? fun x => x.srank == 3 && x.msg == 9 && !x.unacked.isEmpty).isSome = true ∧
       ((niOf s 0).rx.find? fun x => x.srank == 3 && x.msg == 8 && !x.unacked.isEmpty) = none) := by
  decide +kernel

/-- A control packet of a type to a die, with its CRC. -/
def packet (type dest : Nat) : List Byte :=
  let b := natLe 1 type ++ natLe 1 0 ++ natLe 2 dest ++ List.replicate 56 0
  b ++ natLe 4 (crc32 b).toNat

/-- `ControlFabric`: a bad and good packets, of each type to this die, to another with a way there and without one, and a broadcast; to a drained
interface and to one that is not; a packet resent seven and eight times. -/
theorem wit_ControlFabric :
    portOk 0 2 = true ∧ peer 0 2 = some (12, 0) ∧ ctlCrcOk (List.replicate 64 1) = false ∧ ctlCrcOk (packet 7 0) = true ∧
      ctlCrcOk (packet 1 0xFFFF) = true ∧ ctlCrcOk (packet 2 0) = true ∧ ctlCrcOk (packet 5 0) = true ∧ ctlCrcOk (packet 1 5) = true ∧
      leAt (packet 7 0) 0 1 = 7 ∧ leAt (packet 7 0) 2 2 = 0 ∧ leAt (packet 1 5) 2 2 = 5 ∧
      (ctlToward ready 0 5).isSome = true ∧ ctlToward { ready with nis := [(0, { ctlDown := List.range 6 })] } 0 5 = none ∧
      ctlForMe ready 0 0xFFFF = true ∧ (niOf ready 0).drained = false ∧ ({ drained := true } : NI).drained = true ∧
      (let s := { ready with nis := [(0, { ctlSent := [{ port := 2, seq := 1, bytes := [], resends := 7 }, { port := 2, seq := 2, bytes := [], resends := 8 }] })] }
       (((niOf s 0).ctlSent.find? fun x => x.port == 2 && x.seq == 1).map (·.resends)) = some 7 ∧
         (((niOf s 0).ctlSent.find? fun x => x.port == 2 && x.seq == 2).map (·.resends)) = some 8) := by
  decide +kernel

/-- A frame of a channel, with a NAK or without. -/
def frame5 (chan : Nat) (seq : BitVec 12) (nakv : Bool) : AxFrame := ⟨chan, seq, 0, 5, nakv, false, 0, []⟩

/-- `LinkFrames`: good frames of channels 0, 4 and 5, without and with a NAK; a bad one; a link that is down, one in AXUST with new and duplicate
frames and with frames replayed three and four times in the replay buffer, and one in RAW. -/
theorem wit_LinkFrames :
    portOk 0 2 = true ∧ (linkOf ready 0 2).state ≠ .axust ∧ (linkOf linked 0 2).state = .axust ∧
      ([frame5 0 0 false, frame5 4 0x7FF false, frame5 5 0 false, frame5 0 0x800 false, frame5 0 0 true].all fun f =>
        frameGood (frameBits f) f.payload && decide (frameFields (frameBits f) f.payload = f)) = true ∧
      frameGood (frameBits (frame5 0 0 false) + 1) [] = false ∧
      rxDuplicate (rxDir (linkOf linked 0 2) 0 2) 0 = false ∧ rxDuplicate (rxDir (linkOf linked 0 2) 0 2) 0x7FF = false ∧
      rxDuplicate (rxDir (linkOf linked 0 2) 0 2) 0x800 = true ∧ frameOf (txDir (linkOf linked 0 2) 0 2) 5 = none ∧
      (let s := fun (n : Nat) => ({ ready with links := [(linkKey 0 2, { state := .axust, d0 := {
         nextSeq := 6, buf := [{ seq := 5, chan := 1, hdr := 0, payload := [], tries := n }] } })] } : State)
       (frameOf (txDir (linkOf (s 3) 0 2) 0 2) 5).isSome = true ∧ replayLimit (s 3) 0 2 5 = false ∧ replayLimit (s 4) 0 2 5 = true ∧
         nakNamed (s 3) 0 2 (frame5 0 0 true) = true) ∧
      (let s := { ready with links := [(linkKey 0 2, { state := .raw })] }
       (linkOf s 0 2).state = .raw ∧ (linkOf ready 0 2).state ≠ .raw ∧ (rxDir (linkOf s 0 2) 0 2).rseqRx = 0) := by
  decide +kernel

/-- Bytes followed by their own CRC-64, low byte first. -/
theorem crc_after (l : List Byte) (h : l.length = 280) : rawGood (l ++ natLe 8 (crc64 (crcBytes l)).toNat) = true := by
  generalize hc : (crc64 (crcBytes l)) = c
  have h1 : (l ++ natLe 8 c.toNat).length = 288 := by simp [h, natLe]
  have h2 : (l ++ natLe 8 c.toNat).take 280 = l := by simp [← h]
  have h3 : BitVec.ofNat 64 (leAt (l ++ natLe 8 c.toNat) 280 8) = c := by
    simp [leAt, ← h, natLe, leNat]
    bv_omega
  simp only [rawGood, h1, h2, h3, hc]
  simp

/-- RSEQ, zeros and a CRC as the last 16 bytes of a raw flit. -/
theorem tail_join (q : BitVec 12) (c : BitVec 64) :
    natLe 2 q.toNat ++ natLe 6 0 ++ natLe 8 c.toNat = natLe 16 (c.toNat * 2 ^ 64 + q.toNat) := by
  have hq := q.isLt
  simp only [natLe, List.cons_append, List.nil_append, List.cons.injEq, and_true]
  refine ⟨?_, ?_, ?_, ?_, ?_, ?_, ?_, ?_, ?_, ?_, ?_, ?_, ?_, ?_, ?_, ?_⟩ <;>
    (apply BitVec.eq_of_toNat_eq; simp only [BitVec.toNat_ofNat]; omega)
/-- The bytes of a raw flit are some payload, header and tail. -/
theorem raw_join (h : SetHdr) (q : BitVec 12) (l : List Byte) : ∃ tail, rawBytes h q l = rawFlit (fitBytes 256 l) (setBits h) tail := by
  generalize hc : crc64 (crcBytes (rawHead h q l)) = c
  have hq := q.isLt
  have hc' := c.isLt
  refine ⟨BitVec.ofNat 128 (c.toNat * 2 ^ 64 + q.toNat), ?_⟩
  rw [rawFlit, BitVec.toNat_ofNat, Nat.mod_eq_of_lt (by omega), ← tail_join, rawBytes, hc, rawHead]
  simp only [List.append_assoc]

/-- `LinkFrames`: raw flits in order, out of order and bad. -/
theorem wit_RawFlits :
    (∃ tail, rawGood (rawFlit (fitBytes 256 [1]) (setBits flit12.hdr) tail) = true ∧
      rawSeq (rawFlit (fitBytes 256 [1]) (setBits flit12.hdr) tail) = 0) ∧
    rawGood (rawFlit [] 0 0) = false ∧ rawSeq (rawFlit (List.replicate 256 0) 0 1) = 1 := by
  obtain ⟨tail, e⟩ := raw_join flit12.hdr 0 [1]
  exact ⟨⟨tail, e ▸ crc_after _ (by decide +kernel), e ▸ by decide +kernel⟩, by decide +kernel, by decide +kernel⟩

/-- `LinkActions`: links in AXUST, in RETRAINING and in STANDBY, both ends of one; a standby check that finds nothing wrong, one that finds a
delay beyond the depth, and one that a repair cuts short; a ladder that finds 31, 32 and 15 lanes. -/
theorem wit_LinkActions :
    portOk 0 2 = true ∧ portOk 12 0 = true ∧ leads 0 2 = true ∧ leads 12 0 = false ∧
      (linkOf linked 0 2).state = .axust ∧ (linkOf linked 0 2).acting = false ∧ (linkOf ready 0 2).state ≠ .axust ∧
      (linkOf ready 0 2).state ≠ .raw ∧ (linkOf ready 0 2).state ≠ .retraining ∧ ({ state := .retraining } : Link).state = .retraining ∧
      ({ state := .standby } : Link).state = .standby ∧ delaysOk 9 [8, 6] = true ∧ delaysOk 9 [9] = false ∧ delaysOk 9 [5] = false ∧
      ({ taken := true } : StandbyFind).taken = true ∧
      (let ends := fun (n : Nat) => climb 0 2 2 { lanes0 := n, lanes1 := 0 } (linkFreeze 0 2 linked)
       (linkOf (ends 15) 0 2).state = .failed ∧ (linkOf (ends 32) 0 2).state ≠ .failed) ∧
      ((ladder false 2 { lanes0 := 32, lanes1 := 0 } (linkOf linked 0 2)).state, (ladder false 2 { lanes0 := 31, lanes1 := 0 } (linkOf linked 0 2)).state,
        (ladder false 2 { lanes0 := 15, lanes1 := 0 } (linkOf linked 0 2)).state, (ladder true 2 { lanes0 := 31, lanes1 := 0 } (linkOf linked 0 2)).state) =
        (.axust, .raw, .failed, .failed) := by
  decide +kernel

/-- A request on panel memory that waits in the queue of S(0,2): a write of unit 0. -/
def write0 : FreeFlit := ⟨{ addr := 0, off := 0, msg := 5, srank := 0, sclass := 0, drank := 0, dclass := 1, tag := 0, hops := 0, cm := false
                            ece := false, kind := 0, tepoch := 0 }, 1, [7]⟩

/-- `MemoryWrites`: the last unit and the address after it; a canonical memory and a poison table; a unit with nothing waiting and one whose
write waits. -/
theorem wit_MemoryWrites :
    unitExists (0x3BFFFFFFF : BitVec 34).toNat = true ∧ unitExists (0x3C0000000 : BitVec 34).toNat = false ∧ Memory.wf [(0, 1), (255, 2)] ∧
      tabWf 0 ([(0x3BFFFFFFF, 0xF)] : Tab (BitVec 4)) = true ∧ (stackOf State.reset 2 0).queue = [] ∧ unitPlace 0 = (0, 2, 0) ∧
      serveCourse State.reset 0 2 0 true = 2 ∧ (takeOp 2 0 0 (fun f => f.payload == [7]) State.reset).1 = none ∧
      (let s := { State.reset with pmem := { stk := [(12, { queue := [write0] })] } }
       (takeOp 2 0 0 (fun f => f.hdr.kind == 0 && (0xF : BitVec 4) == 0xF && f.payload == [7]) s).1 = some write0) := by
  decide +kernel

/-- A panel whose stripe 0 has failed, with a poisoned sector in stripe 1. -/
def failedStripe : State :=
  { State.reset with pmem := { failed := [0], stk := [(0, { state := .out }), (6, { state := .out }), (12, { state := .out })]
                               poison := [(stripeUnits, 1)] } }

/-- `MemoryReads`: a unit without poison, one with it, an address that names none, and data beyond recovery; a check that recovers a sector, and
one that finds three units of a row erased. -/
theorem wit_MemoryReads :
    unitExists 0 = true ∧ unitGone State.reset 0 = false ∧ poisonOf (checkRead 0 {} State.reset) 0 = 0 ∧ unitExists stripeUnits = true ∧
      unitGone failedStripe stripeUnits = false ∧ poisonOf (checkRead stripeUnits {} failedStripe) stripeUnits ≠ 0 ∧ unitExists 0x3C0000000 = false ∧
      endpointDie State.reset 131 0 0 2 = some 131 ∧ endpointDie State.reset 0xFFFF 0 0 2 = none ∧
      (List.range 20).any (unitGone failedStripe) = true ∧
      poisonOf (checkRead 0 { erased := 1 } State.reset) 0 = 0 ∧
      poisonOf (checkRead 0 { erased := 1, others := [(5, 1), (6, 1)] } State.reset) 0 = 1 := by
  decide +kernel

/-- `StackEvents`: the last stack in and out of service and being rebuilt, in a pattern and in none; a stripe that fails; 104 and 105 degrees;
scrubbing on and off, and a row that is written meanwhile. -/
theorem wit_StackEvents :
    stackOk 11 5 = true ∧ (stackOf (running 1) 11 5).state = .inService ∧ (running 1).pat.running.isSome = true ∧
      (settleTorn 5 [] (drainFabric (markLost 11 5 .channel (running 1)))).pmem.failed.contains 5 = false ∧
      (stackOf failedStripe 0 0).state ≠ .inService ∧ (stackOf failedStripe 0 0).state ≠ .rebuilding ∧
      ((settleTorn 0 [] (drainFabric (markLost 5 0 .channel failedStripe))).pmem.failed.contains 0 = true ∧ (stackOf failedStripe 5 0).state = .inService) ∧
      (ready.pat.running = none ∧ courseLost ready 11 = false ∧ (StackCause.channel ≠ .baseDie)) ∧
      (let s := { ready with pmem := { stk := [(71, { state := .rebuilding })], period := 0 } }
       (stackOf s 11 5).state = .rebuilding ∧ s.pmem.period = 0) ∧ ready.pmem.period ≠ 0 ∧
      ({ written := true } : ScrubFind).written = true ∧ ({} : ScrubFind).erased = [] := by
  decide +kernel

/-! ## Witnesses: lifecycle, repair, power and cooling, management -/

/-- `CastOnEvents`: a panel in service; one held in reset; one in a cold cast-on before the end of CO4, which waits for a course in CO1; one in
back-off; one in CO0 that waits for the flash; boots that pass and fail the checks of CO0. -/
theorem wit_CastOnEvents :
    (anchorUp ready = true ∧ ready.boot.trip = false ∧ ready.boot.pstate ≠ 7 ∧ ready.boot.pstate ≠ 0) ∧
    (({} : CastOnEnv).programmed = none ∧ ready.boot.heldRst = false ∧ ({ heldRst := true } : Boot).heldRst = true ∧
      ({ programmed := some (none, some {}, true) } : CastOnEnv).programmed = some (none, some {}, true)) ∧
    (let s := { State.reset with boot := { phase := 1, waiting := [11] } }
     anchorUp s = true ∧ s.boot.trip = false ∧ s.boot.pstate = 0 ∧ s.boot.kind ≠ .warm ∧ s.boot.co4Done = false ∧
       s.boot.waiting.contains 11 = true ∧ s.pwr.warn = false) ∧
    (let s := { State.reset with boot := { phase := 9 } }
     s.boot.phase = 9 ∧ anchorUp s = true ∧ s.boot.trip = false) ∧
    (({ anchorNOk := false } : CastOnEnv).anchorNOk = false ∧ State.reset.grid.anchorS = false ∧ co0Check {} State.reset.flash = none ∧
      co0Check { rootKey := false } State.reset.flash = some 4) ∧
    (let s := { State.reset with boot := { cast := some {} } }
     s.boot.cast = some {} ∧ s.boot.phase = 0 ∧ anchorUp s = true) := by
  decide +kernel

/-- `AnchorEvents`: with and without a standby, during CO1, after a takeover, and a warning that has lasted. -/
theorem wit_AnchorEvents :
    (ready.grid.anchorS = false ∧ anchorUp ready = true ∧ ready.boot.nostby = false ∧ ready.boot.pstate ≠ 0) ∧
    (let s := { State.reset with boot := { phase := 1, cast := some {} } }
     anchorUp s = true ∧ s.boot.nostby = false ∧ s.boot.pstate = 0 ∧ s.boot.cast = some {} ∧ s.grid.anchorS = false) ∧
    (let s := { ready with boot := { readyBoot with nostby := true } }
     anchorUp s = true ∧ s.boot.nostby = true) ∧
    ({ anchorS := true } : Grid).anchorS = true ∧
    (let s := { ready with pwr := { warn := true } }
     s.pwr.warn = true ∧ s.pwr.warnDone = false ∧ herusUp s = true ∧ s.boot.trip = false ∧ s.boot.pstate = 1) ∧ ready.pwr.warn = false := by
  decide +kernel

/-- `PowerFailures`: a live site of the last wale, the last course with power, in a run and out of it; over-current warnings old and new; set
points at the ends of their range; a park port's die; a panel with and without a warning. -/
theorem wit_PowerFailures :
    (repairsRun ready = true ∧ siteOk 10 11 3 = true ∧ mayFail ready (siteDie 10 11) = true ∧
      mayFail { ready with boot := { ready.boot with bound := true } } (siteDie 10 11) = true ∧ ready.boot.good.contains 11 = true ∧
      ready.boot.heldRst = false ∧ courseLost ready 11 = false ∧ ready.boot.bound = false ∧ ready.boot.vinGone.contains 11 = false ∧
      ocSoon ready 11 = false ∧ ocSoon { ready with pwr := { ocAt := [(11, some 0)] } } 11 = true ∧
      tabGet 1350 ready.pwr.courseSp 11 = 1350 ∧ tabGet 1350 [(11, 1000)] 11 = 1000) ∧
    (ready.pat.running = none ∧ ready.boot.binding = none ∧ (running 1).pat.running.isSome = true ∧ repairsRun (running 1) = true ∧
      courseLost { ready with grid := { lostCourses := [11] } } 11 = true ∧ parkOfDie 216 = some 0 ∧
      ({ vinGone := [11] } : Boot).vinGone.contains 11 = true) ∧
    (herusUp ready = true ∧ ready.pwr.warn = false ∧ ready.boot.pstate = 1 ∧ ready.boot.trip = false ∧ ready.lode.mode ≠ .lean) ∧
    (let s := { running 1 with pwr := { warn := true, leanDue := true } }
     herusUp s = true ∧ s.pwr.leanDue = true ∧ s.pwr.forced = none ∧ s.boot.pstate ≠ 0) := by
  decide +kernel

/-- `CapAndThrottle`: limits that are met exactly and passed by 1 W; Herus at work and during a cast-on; a stack of each refresh rate; a panel
with a compute die at 95 degrees and one without. -/
theorem wit_CapAndThrottle :
    herusUp ready = true ∧ ready.boot.trip = false ∧ ready.boot.pstate ≠ 0 ∧ tabWf {} ready.clus = true ∧
      (capStep 0 ⟨10500, 8620, 3000⟩ ⟨10501, 0, 0⟩ {}).capSp = 1300 ∧ (capStep 0 ⟨10500, 8620, 3000⟩ ⟨10500, 8620, 3000⟩ {}).capSp = 1350 ∧
      (capStep 0 ⟨10500, 8620, 3000⟩ ⟨0, 0, 0⟩ { capSp := 1000 }).capSp = 1025 ∧
      (capStep 0 ⟨10500, 8620, 3000⟩ ⟨0, 8621, 0⟩ { capSp := 1000 }).capSp = 1000 ∧
      herusUp { State.reset with boot := { phase := 1 } } = true ∧ (255 : Nat) ≤ ({ quiet := 255 } : Cluster).quiet ∧
      stackOk 11 5 = true ∧ (stackOf ready 11 5).refresh = 0 ∧ hotDie ready = none ∧
      hotDie { ready with thm := { temps := [(3, 95)] } } = some 3 := by
  decide +kernel

/-- `CoolingEvents`: a panel at work, a tripped one, a compute die and a ring die. -/
theorem wit_CoolingEvents :
    herusUp ready = true ∧ ready.boot.trip = false ∧ anchorUp ready = true ∧ dieOk 0 = true ∧ dieOk 225 = true ∧ ready.boot.heldRst = false ∧
      ready.boot.supplyLost = false ∧ tabWf {} ready.links = true ∧ ({ trip := true } : Boot).trip = true ∧
      (let c : Cycles := { up := true, hi := 80, lo := 40 }
       (cycleStep 60 c).up = false ∧ (cycleStep 61 c).up = true ∧ (cycleStep 60 { c with up := false }).up = true ∧
         (cycleStep 59 { c with up := false }).up = false) := by
  decide +kernel

/-- `HealthScoring`: scoring at work and suspended. -/
theorem wit_HealthScoring : repairsRun ready = true ∧ herusUp ready = true ∧ ready.hlt.stale = false ∧ ({ stale := true } : Health).stale = true := by
  decide +kernel

/-- `ManagementMessages`: an anchor up before and after CO0, with an identifier, at ready and after a trip. -/
theorem wit_ManagementMessages :
    anchorUp State.reset = true ∧ herusUp State.reset = false ∧ State.reset.boot.pstate = 0 ∧ herusUp ready = true ∧ anchorUp ready = true ∧
      ready.boot.pstate ≠ 0 ∧ ready.boot.pstate ≠ 7 ∧ ready.boot.trip = false ∧ resetBusy ready = false ∧ resetBusy { ready with boot := { warmDue := true } } = true ∧
      ({ lic := none } : Boot).lic = none ∧ ({ pstate := 7 } : Boot).pstate = 7 ∧ ({ eid := some 9 } : Pins).eid.isSome = true ∧ (1 : Byte) ≠ 0 ∧ (0xFE : Byte) ≠ 0xFF := by
  decide +kernel

/-- `JtagInstructions`: the ring supplied, before a takeover and after one, with PANEL_RST_N asserted and deasserted. -/
theorem wit_JtagInstructions : State.reset.boot.supplyLost = false ∧ (State.reset.grid.anchorS || State.reset.boot.ancNOut) = false ∧
    State.reset.boot.heldRst = false ∧ ({ heldRst := true } : Boot).heldRst = true := by
  decide +kernel

end Sys2Proof.Tests
end

