-- ==== Sys2Proof/Tests/Image.lean ====
section
/-! SUPPORT. A small image that passes every check of PATTERN_STAGE: the witness for the statements about images. -/

set_option Elab.async false

namespace Sys2Proof.Tests

open Sys2Proof Sys2Proof.Machine

/-- Header, directory, one elastic section, its knot and the session-layout record (R207, R208, R346): an allocation of 74 units, with
the two round descriptors in its halves. -/
def imgHead : List Byte :=
  natLe 4 0x334E5450 ++ natLe 2 1 ++ natLe 2 256 ++ natLe 8 642752 ++ natLe 4 0 ++ natLe 4 0 ++ natLe 2 1 ++ natLe 2 1 ++ natLe 4 0 ++
    List.replicate 48 0 ++ natLe 8 113664 ++ natLe 16 0 ++ List.replicate 24 0 ++
    natLe 8 256 ++ natLe 8 16 ++ natLe 8 320 ++ natLe 8 8 ++ natLe 8 640 ++ natLe 8 642048 ++ natLe 8 256 ++ natLe 8 0 ++
    natLe 8 256 ++ natLe 8 0 ++ natLe 8 256 ++ natLe 8 0 ++ natLe 8 384 ++ natLe 8 256 ++ natLe 16 0 ++
    natLe 16 (2 ^ 48) ++ List.replicate 48 0 ++ natLe 8 (24 * 2 ^ 16 + 2 ^ 24) ++ List.replicate 56 0 ++
    natLe 2 1 ++ List.replicate 46 0 ++ natLe 8 0 ++ natLe 8 37 ++ List.replicate 192 0

/-- A site block (R209, R210) from its length to its window table: counts of one descriptor and entries at 0. -/
def blkPre : List Byte := natLe 4 4864 ++ (List.replicate 32 (natLe 2 1)).flatten ++ List.replicate 120 0

/-- A panel window of 74 units from 0 with both permissions (R212). -/
def winBytes : List Byte := natLe 16 (74 * 2 ^ 64 + 3 * 2 ^ 126)

/-- A store entry: KNOT 0 in cycle 0 (R119, R154). -/
def knotBytes : List Byte := natLe 18 (0x60 * 2 ^ 16)

/-- A site block after its rank: one KNOT in each store, and one window of panel memory at the first core. -/
def blkTail : List Byte :=
  blkPre ++ (List.replicate 64 0 ++ (winBytes ++ (List.replicate 4016 0 ++ (List.replicate 32 knotBytes).flatten)))

/-- The site block of a rank. -/
def blk (r : Nat) : List Byte := natLe 2 r ++ [0, 0] ++ blkTail

/-- The site blocks of `n` ranks from `k` on. -/
def blks : Nat → Nat → List Byte
  | _, 0 => []
  | k, n + 1 => blk k ++ blks (k + 1) n

/-- What the digest covers. -/
def imgBody : List Byte := imgHead ++ (blks 0 132 ++ List.replicate 16 0)

/-- The image. -/
def img : List Byte := imgBody ++ sha384 imgBody

theorem imgHead_length : imgHead.length = 640 := by decide +kernel
theorem blkTail_length : blkTail.length = 4860 := by decide +kernel
theorem blk_length (r : Nat) : (blk r).length = 4864 := by simp [blk, natLe, blkTail_length]
theorem blks_length (k n : Nat) : (blks k n).length = 4864 * n := by
  induction n generalizing k with
  | zero => rfl
  | succ n ih => simp [blks, blk_length, ih]; omega

theorem natLe_length (n v : Nat) : (natLe n v).length = n := by
  induction n generalizing v with
  | zero => rfl
  | succ n ih => simp [natLe, ih]

theorem shaRound_length (v : List W64) (kw : W64 × W64) (h : v.length = 8) : (shaRound v kw).length = 8 := by
  unfold shaRound; split <;> simp_all

theorem shaExtend_length (n : Nat) (w : List W64) : (shaExtend n w).length = w.length + n := by
  induction n generalizing w with
  | zero => rfl
  | succ n ih => simp [shaExtend, ih]; omega

theorem foldl_shaRound_length (l : List (W64 × W64)) (v : List W64) (h : v.length = 8) : (l.foldl shaRound v).length = 8 := by
  induction l generalizing v with
  | nil => simpa
  | cons x l ih => exact ih _ (shaRound_length v x h)

theorem shaBlock_length (h : List W64) (b : List Byte) (e : h.length = 8) : (shaBlock h b).length = 8 := by
  simp [shaBlock, foldl_shaRound_length, e]

theorem foldl_shaBlock_length (l : List (List Byte)) (h : List W64) (e : h.length = 8) : (l.foldl shaBlock h).length = 8 := by
  induction l generalizing h with
  | nil => simpa
  | cons x l ih => exact ih _ (shaBlock_length h x e)

theorem flatMap_beBytes_length (l : List W64) : (l.flatMap beBytes).length = 8 * l.length := by
  induction l with
  | nil => rfl
  | cons w l ih => simp [beBytes, natLe_length, ih]; omega

theorem sha384_length (l : List Byte) : (sha384 l).length = 48 := by
  simp only [sha384, flatMap_beBytes_length, List.length_take, foldl_shaBlock_length _ _ (show sha384H.length = 8 from rfl)]
  rfl

theorem imgBody_length : imgBody.length = 642704 := by simp [imgBody, imgHead_length, blks_length]
theorem img_length : img.length = 642752 := by simp [img, imgBody_length, sha384_length]

/-- SHA-384 of "abc", as the standard that defines the digest publishes it (log entry 16). -/
theorem test_sha384_abc : leNat (sha384 [0x61, 0x62, 0x63]).reverse =
    0xcb00753f45a35e8bb5a03d699ac65007272c32ab0eded1631a8b605a43ff5bed8086072ba1e7cc2358baeca134c825a7 := by decide +kernel

/-! ## Reads -/

/-- The bytes that a read of an image takes. -/
def seg (l : List Byte) (o n : Nat) : List Byte := (l.drop o).take n

theorem seg_append_left (a c : List Byte) (o n : Nat) (h : o + n ≤ a.length) : seg (a ++ c) o n = seg a o n := by
  rw [seg, seg, List.drop_append_of_le_length (by omega), List.take_append_of_le_length (by simp; omega)]

theorem seg_append_right (a c : List Byte) (k n o : Nat) (h : o = a.length + k) : seg (a ++ c) o n = seg c k n := by
  subst h; rw [seg, seg, List.drop_append, List.drop_eq_nil_of_le (by omega), List.nil_append]; congr 2; omega

/-- Reads of the first 640 bytes. -/
theorem seg_head (o n : Nat) (h : o + n ≤ 640) : seg img o n = seg imgHead o n := by
  rw [img, seg_append_left _ _ _ _ (by simp [imgBody_length]; omega), imgBody, seg_append_left _ _ _ _ (by simp [imgHead_length]; omega)]

theorem seg_blks (c : List Byte) (r m k n : Nat) (hr : r < m) (s : Nat) (h : k + n ≤ 4864) :
    seg (blks s m ++ c) (4864 * r + k) n = seg (blk (s + r)) k n := by
  induction m generalizing r s with
  | zero => omega
  | succ m ih =>
    rw [blks, List.append_assoc]
    cases r with
    | zero => rw [seg_append_left _ _ _ _ (by simp [blk_length]; omega)]; simp
    | succ r =>
      rw [seg_append_right _ _ (4864 * r + k) n _ (by simp [blk_length]; omega), ih r (by omega) (s + 1)]
      congr 2; omega

/-- Reads of a site block. -/
theorem seg_block (r k n : Nat) (hr : r < 132) (h : k + n ≤ 4864) : seg img (640 + 4864 * r + k) n = seg (blk r) k n := by
  rw [img, seg_append_left _ _ _ _ (by simp [imgBody_length]; omega), imgBody,
    seg_append_right _ _ (4864 * r + k) n _ (by simp [imgHead_length]; omega), seg_blks _ r 132 k n hr 0 h]
  simp

/-- Past its rank, every block reads as the first. -/
theorem seg_blk (r k n : Nat) (h : 4 ≤ k) : seg (blk r) k n = seg (blk 0) k n := by
  obtain ⟨k, rfl⟩ := Nat.exists_eq_add_of_le h
  rw [blk, seg_append_right _ _ k n _ (by simp [natLe_length]), blk, seg_append_right _ _ k n _ (by simp [natLe_length])]

theorem seg_past (r k n : Nat) (hr : r < 132) (h4 : 4 ≤ k) (h : k + n ≤ 4864) : seg img (640 + 4864 * r + k) n = seg (blk 0) k n := by
  rw [seg_block r k n hr h, seg_blk r k n h4]

theorem leAt_append_left (a c : List Byte) (o n : Nat) (h : o + n ≤ a.length) : leAt (a ++ c) o n = leAt a o n :=
  congrArg leNat (seg_append_left a c o n h)
theorem leAt_append_right (a c : List Byte) (k n o : Nat) (h : o = a.length + k) : leAt (a ++ c) o n = leAt c k n :=
  congrArg leNat (seg_append_right a c k n o h)
theorem leAt_head (o n : Nat) (h : o + n ≤ 640) : leAt img o n = leAt imgHead o n := congrArg leNat (seg_head o n h)
theorem leAt_past (r k n : Nat) (hr : r < 132) (h4 : 4 ≤ k) (h : k + n ≤ 4864) : leAt img (640 + 4864 * r + k) n = leAt (blk 0) k n :=
  congrArg leNat (seg_past r k n hr h4 h)
theorem zeros_head (o n : Nat) (h : o + n ≤ 640) : zeros img o n = zeros imgHead o n := congrArg (List.all · (· == 0)) (seg_head o n h)

theorem leAt_zeros (n k m : Nat) : leAt (List.replicate n 0) k m = 0 := by
  have e : ∀ i, leNat (List.replicate i (0 : Byte)) = 0 := by
    intro i
    induction i with
    | zero => rfl
    | succ i ih => rw [List.replicate_succ, leNat, ih]; rfl
  rw [leAt, List.drop_replicate, List.take_replicate, e]

/-- A read of one of several equal parts. -/
theorem leAt_parts (x : List Byte) (n j : Nat) (c : List Byte) (h : j < n) :
    leAt ((List.replicate n x).flatten ++ c) (x.length * j) x.length = leAt x 0 x.length := by
  induction n generalizing j with
  | zero => omega
  | succ n ih =>
    rw [List.replicate_succ, List.flatten_cons, List.append_assoc]
    cases j with
    | zero => rw [leAt_append_left _ _ _ _ (by simp)]; rfl
    | succ j => rw [leAt_append_right _ _ (x.length * j) _ _ (by rw [Nat.mul_succ, Nat.add_comm]), ih j (by omega)]

/-- The block up to its window table, and the rest of it. -/
theorem blk0 : blk 0 = (natLe 2 0 ++ [0, 0] ++ blkPre) ++
    (List.replicate 64 0 ++ (winBytes ++ (List.replicate 4016 0 ++ (List.replicate 32 knotBytes).flatten))) := by
  rw [blk, blkTail, List.append_assoc _ blkPre]

theorem pre_length : (natLe 2 0 ++ [0, 0] ++ blkPre).length = 192 := by decide +kernel
theorem winBytes_length : winBytes.length = 16 := natLe_length _ _
theorem knotBytes_length : knotBytes.length = 18 := natLe_length _ _

theorem blk0_low (k n : Nat) (h : k + n ≤ 64) : leAt (blk 0) (192 + k) n = 0 := by
  rw [blk0, leAt_append_right _ _ k n _ (by rw [pre_length]), leAt_append_left _ _ _ _ (by rwa [List.length_replicate]), leAt_zeros]

theorem blk0_rest (k n : Nat) : leAt (blk 0) (256 + k) n =
    leAt (winBytes ++ (List.replicate 4016 0 ++ (List.replicate 32 knotBytes).flatten)) k n := by
  rw [blk0, leAt_append_right _ _ (64 + k) n _ (by rw [pre_length]; omega), leAt_append_right _ _ k n _ (by rw [List.length_replicate])]

theorem blk0_high (k n : Nat) (h : k + n ≤ 4016) : leAt (blk 0) (272 + k) n = 0 := by
  rw [show 272 + k = 256 + (16 + k) by omega, blk0_rest, leAt_append_right _ _ k n _ (by rw [winBytes_length]),
    leAt_append_left _ _ _ _ (by rwa [List.length_replicate]), leAt_zeros]

theorem blk0_win : leAt (blk 0) 256 16 = 74 * 2 ^ 64 + 3 * 2 ^ 126 := by
  rw [show 256 = 256 + 0 from rfl, blk0_rest, leAt_append_left _ _ _ _ (by rw [winBytes_length])]
  decide +kernel

theorem blk0_knot (j : Nat) (h : j < 32) : leAt (blk 0) (4288 + 18 * j) 18 = 0x600000 := by
  have e := leAt_parts knotBytes 32 j [] h
  rw [knotBytes_length, List.append_nil] at e
  rw [show 4288 + 18 * j = 256 + (4032 + 18 * j) by omega, blk0_rest, leAt_append_right _ _ (4016 + 18 * j) 18 _ (by rw [winBytes_length]; omega),
    leAt_append_right _ _ (18 * j) 18 _ (by rw [List.length_replicate]), e]
  decide +kernel

/-! ## The parts of the image -/

theorem img_dir (i : Nat) (h : i < 8) : imgDir img i = imgDir imgHead i := by
  simp only [imgDir]
  rw [leAt_head _ _ (by omega), leAt_head _ _ (by omega)]

theorem img_nsect : imgNsect img = 1 := by rw [imgNsect, leAt_head _ _ (by omega)]; decide +kernel
theorem img_grade : imgGrade img = 0 := by rw [imgGrade, leAt_head _ _ (by omega)]; decide +kernel
theorem img_len : imgLen img = 642752 := by rw [imgLen, leAt_head _ _ (by omega)]; decide +kernel
theorem img_batch : imgBatch img = 1 := by rw [imgBatch, leAt_head _ _ (by omega)]; decide +kernel
theorem img_draft : imgDraft img = 0 := by rw [imgDraft, leAt_head _ _ (by omega)]; decide +kernel
theorem img_budget : imgBudget img = 256 := by rw [imgBudget, img_grade]; rfl
theorem img_place : imgPlace img = 113664 := by
  rw [imgPlace, leAt_head _ _ (by omega), leAt_head _ _ (by omega), leAt_head _ _ (by omega)]; decide +kernel
theorem img_alloc : imgAlloc img = 74 := by rw [imgAlloc, img_place]; decide +kernel
theorem img_slots : slotCount img = 0 := by rw [slotCount, img_dir 3 (by omega)]; decide +kernel
theorem img_manifest : manifestEntries img = [] := by rw [manifestEntries, img_dir 4 (by omega)]; decide +kernel
theorem img_relocs : relocEntries img = [] := by rw [relocEntries, img_dir 5 (by omega)]; decide +kernel

/-- The site block of rank `r`. -/
def site (r : Nat) : SiteBlock := { off := 640 + 4864 * r, len := 4864 }

theorem blocksFrom_img (n r : Nat) (h : r + n ≤ 132) : blocksFrom img n (640 + 4864 * r) = (List.range' r n).map site := by
  induction n generalizing r with
  | zero => rfl
  | succ n ih =>
    have h4 : leAt img (640 + 4864 * r + 4) 4 = 4864 := by rw [leAt_past r 4 4 (by omega) (by omega) (by omega)]; decide +kernel
    have ha : align64 (640 + 4864 * r + 4864) = 640 + 4864 * (r + 1) := by simp only [align64, ceilDiv]; omega
    simp only [blocksFrom, h4, ha]
    rw [ih (r + 1) (by omega), List.range'_succ]
    rfl

theorem img_blocks : imgBlocks img = (List.range' 0 132).map site := by
  rw [imgBlocks, img_dir 2 (by omega), show (imgDir imgHead 2).1 = 640 + 4864 * 0 by decide +kernel, blocksFrom_img 132 0 (by omega)]

/-- What stands at a place of the list of blocks. -/
theorem of_mem_blocks {x : SiteBlock × Nat} (h : x ∈ (imgBlocks img).zipIdx) : x.2 < 132 ∧ x.1 = site x.2 := by
  rw [img_blocks] at h
  obtain ⟨h1, h2⟩ := List.mem_zipIdx' h
  simp at h1
  refine ⟨h1, ?_⟩
  rw [h2]; simp

variable {r : Nat} (hr : r < 132)
include hr

theorem site_count {j : Nat} (hj : j < 32) : blockCount img (site r) j = 1 := by
  have e : ∀ j < 32, leAt (blk 0) (8 + 2 * j) 2 = 1 := by decide +kernel
  rw [blockCount, show (site r).off + 8 + 2 * j = 640 + 4864 * r + (8 + 2 * j) by simp [site]; omega, leAt_past r _ 2 hr (by omega) (by omega)]
  exact e j hj

theorem site_counts {j : Nat} (hj : j ≤ 32) : ((List.range j).map (blockCount img (site r))).sum = j := by
  induction j with
  | zero => rfl
  | succ j ih => rw [List.range_succ, List.map_append, List.sum_append, ih (by omega)]; simp [site_count hr (show j < 32 by omega)]

theorem site_entry {j : Nat} (hj : j < 32) : blockEntry img (site r) 0 j = 0 := by
  have e : ∀ j < 32, leAt (blk 0) (128 + 2 * j) 2 = 0 := by decide +kernel
  rw [blockEntry, show (site r).off + 128 + 2 * (32 * 0 + j) = 640 + 4864 * r + (128 + 2 * j) by simp [site]; omega,
    leAt_past r _ 2 hr (by omega) (by omega)]
  exact e j hj

theorem site_desc {j : Nat} (hj : j ≤ 32) : blockDesc img (site r) j = 640 + 4864 * r + (4288 + 18 * j) := by
  rw [blockDesc, blockWin, img_nsect, site_counts hr hj, site]; simp only []; omega

/-- The one entry of each store: KNOT 0, in cycle 0. -/
theorem site_store {j : Nat} (hj : j < 32) : blockStore img (site r) j = [0x600000] := by
  simp only [blockStore, site_count hr hj, site_desc hr (show j ≤ 32 by omega)]
  rw [show List.range 1 = [0] from rfl, List.map_singleton, Nat.mul_zero, Nat.add_zero, leAt_past r _ 18 hr (by omega) (by omega), blk0_knot j hj]
  rfl

theorem site_cwin {j i : Nat} (hj : j < 32) (hi : i < 8) : leAt img (blockWin img (site r) + 128 * j + 8 * i) 8 = 0 := by
  rw [show blockWin img (site r) + 128 * j + 8 * i = 640 + 4864 * r + (192 + (128 * j + 8 * i)) by simp only [blockWin, img_nsect, site]; omega,
    leAt_past r _ 8 hr (by omega) (by omega)]
  by_cases h : j = 0
  · exact blk0_low _ 8 (by omega)
  · rw [show 192 + (128 * j + 8 * i) = 272 + (128 * j + 8 * i - 80) by omega]; exact blk0_high _ 8 (by omega)

theorem site_pwin {j i : Nat} (hj : j < 32) (hi : i < 4) :
    leAt img (blockWin img (site r) + 128 * j + 64 + 16 * i) 16 = if j = 0 ∧ i = 0 then 74 * 2 ^ 64 + 3 * 2 ^ 126 else 0 := by
  rw [show blockWin img (site r) + 128 * j + 64 + 16 * i = 640 + 4864 * r + (192 + (64 + 128 * j + 16 * i)) by
    simp only [blockWin, img_nsect, site]; omega, leAt_past r _ 16 hr (by omega) (by omega)]
  by_cases h : j = 0 ∧ i = 0
  · rw [if_pos h, h.1, h.2]; exact blk0_win
  · rw [if_neg h, show 192 + (64 + 128 * j + 16 * i) = 272 + (128 * j + 16 * i - 16) by omega]; exact blk0_high _ 16 (by omega)


/-! ## The checks of PATTERN_STAGE -/

theorem check_block : checkBlock img r (site r) = none := by
  have e0 : leAt img (site r).off 2 = r := by
    rw [leAt, show (site r).off = 640 + 4864 * r + 0 from rfl]
    change leNat (seg img _ 2) = r
    rw [seg_block r 0 2 hr (by omega)]
    change r % 256 + 256 * (r / 256 % 256 + 256 * 0) = r
    omega
  have e1 : zeros img ((site r).off + 2) 2 = true := by
    change (seg img (640 + 4864 * r + 2) 2).all (· == 0) = true
    rw [seg_block r 2 2 hr (by omega)]
    rfl
  have e2 : zeros img ((site r).off + 72) 56 = true := by
    change (seg img (640 + 4864 * r + 72) 56).all (· == 0) = true
    rw [seg_past r 72 56 hr (by omega) (by omega)]
    decide +kernel
  have e3 : blockSize img (site r) = 4864 := by
    rw [blockSize, site_desc hr (by omega)]; simp only [site]; omega
  have e4 : (imgDir img 2).1 = 640 ∧ (imgDir img 2).2 = 642048 := by rw [img_dir 2 (by omega)]; decide +kernel
  have hk : isKnot 6291456#144 0 = true := by decide +kernel
  simp only [checkBlock, firstFail, List.findSome?_eq_none_iff, List.cons_append, List.mem_cons, List.mem_append, List.mem_map, List.mem_range,
    img_nsect]
  rintro x (rfl | (⟨j, hj, rfl⟩ | ⟨j, hj, rfl⟩) | ⟨j, hj, rfl⟩)
  · simp only [e0, e1, e2, e3, e4]
    simp [need, site]; omega
  · simp [need, site_count hr hj]
  · simp [need, site_entry hr hj]
  · simp [need, site_count hr hj, site_store hr hj, List.range_succ, hk]

theorem check_store : checkStores img r (site r) = none := by
  simp only [checkStores, List.findSome?_eq_none_iff, List.mem_range]
  intro j hj
  have hd : decodeUop 96#128 = some (.knot 0) := by decide +kernel
  rw [site_store hr hj]
  have hw : walkStore img [0x600000] {} = none := by
    simp [walkStore, walkOne, hd, img_budget, show issueWordOk 256 true 0 = true by decide]
    exact ⟨rfl, .inl rfl, rfl⟩
  have hk : knotSeq [0x600000] = [(0, 0)] := by simp [knotSeq, hd]
  rw [site_store hr (show 0 < 32 by omega), hw, hk]
  rfl

theorem check_windows : checkWindows img r (site r) = none := by
  simp only [checkWindows, firstFail, List.findSome?_eq_none_iff, List.mem_range, List.mem_append, List.mem_map]
  rintro j hj x (⟨i, hi, rfl⟩ | ⟨i, hi, rfl⟩)
  · simp only [site_cwin hr hj hi]; rfl
  · simp only [site_pwin hr hj hi]
    split <;> rfl

theorem check_slots : checkSlots img r (site r) = none := by
  have hc : ssnChains img (site r) = [] := by
    simp only [ssnChains, List.flatMap_eq_nil_iff, List.mem_range]
    intro j hj
    rw [site_store hr hj]
    decide +kernel
  simp [checkSlots, firstFail, img_slots, hc]

omit hr

theorem check_head : checkHead img = none := by
  have h1 : img.take 642704 = imgBody := by rw [img, ← imgBody_length, List.take_left]
  have h2 : img.drop 642704 = sha384 imgBody := by rw [img, ← imgBody_length, List.drop_left]
  have e1 : leAt img 0 4 = 0x334E5450 ∧ leAt img 4 2 = 1 ∧ leAt img 6 2 = 256 := by
    rw [leAt_head _ _ (by omega), leAt_head _ _ (by omega), leAt_head _ _ (by omega)]; decide +kernel
  simp [checkHead, firstFail, need, e1, img_len, img_length, h1, h2]

theorem check_dir : checkDir img = none := by
  have hr : (imgDir imgHead 6).1 = 384 := by decide +kernel
  have hl : (List.range 7).map (imgDir img) = (List.range 7).map (imgDir imgHead) := by
    apply List.map_congr_left; intro i hi; exact img_dir i (by simp at hi; omega)
  simp only [checkDir, hl, img_grade, img_len, img_nsect, img_batch, img_draft, img_slots, img_dir 7 (by omega), img_dir 0 (by omega),
    img_dir 1 (by omega), img_dir 6 (by omega), img_dir 3 (by omega), img_dir 4 (by omega), img_dir 5 (by omega)]
  rw [hr, zeros_head _ _ (by omega), zeros_head _ _ (by omega), zeros_head _ _ (by omega), zeros_head _ _ (by omega),
    zeros_head _ _ (by omega), leAt_head _ _ (by omega)]
  decide +kernel

theorem check_sections : checkSections img = none := by
  have e1 : imgSection img 0 = imgSection imgHead 0 := by
    rw [imgSection, img_dir 0 (by omega), show (imgDir imgHead 0).1 + 16 * 0 = 256 by decide +kernel, leAt_head _ _ (by omega), imgSection,
      show (imgDir imgHead 0).1 + 16 * 0 = 256 by decide +kernel]
  have e2 : imgKnot img 0 = imgKnot imgHead 0 := by
    rw [imgKnot, img_dir 1 (by omega), show (imgDir imgHead 1).1 + 8 * 0 = 320 by decide +kernel, leAt_head _ _ (by omega), imgKnot,
      show (imgDir imgHead 1).1 + 8 * 0 = 320 by decide +kernel]
  simp only [checkSections, img_nsect, knotOffset, knotLimit, img_batch, show List.range 1 = [0] from rfl, List.findSome?_cons,
    List.findSome?_nil, e1, e2]
  decide +kernel

/-- An image whose parts pass passes. -/
theorem stage_none {lic : Option Licence} {b : List Byte} (h1 : checkHead b = none) (h2 : checkDir b = none)
    (h3 : need (gradeLicensed lic (imgGrade b)) { check := 4 } = none) (h4 : checkPlace b = none) (h5 : checkSections b = none)
    (h6 : ∀ x ∈ (imgBlocks b).zipIdx, checkBlock b x.2 x.1 = none ∧ checkStores b x.2 x.1 = none ∧ checkWindows b x.2 x.1 = none ∧
      checkSlots b x.2 x.1 = none) (h7 : manifestEntries b = []) (h8 : relocEntries b = []) : stageCheck lic b = none := by
  have e1 := List.findSome?_eq_none_iff.mpr fun x hx => (h6 x hx).1
  have e2 := List.findSome?_eq_none_iff.mpr fun x hx => (h6 x hx).2.1
  have e3 := List.findSome?_eq_none_iff.mpr fun x hx => (h6 x hx).2.2.1
  have e4 := List.findSome?_eq_none_iff.mpr fun x hx => (h6 x hx).2.2.2
  simp only [stageCheck, firstFail, List.findSome?_cons, List.findSome?_nil, id, h1, h2, h3, h4, h5, e1, e2, e3, e4, h7, h8, List.zipIdx_nil]

/-- The image passes every check of PATTERN_STAGE. -/
theorem img_staged : stageCheck (some {}) img = none := by
  refine stage_none check_head check_dir ?_ ?_ check_sections (fun x hx => ?_) img_manifest img_relocs
  · rw [img_grade]; decide
  · rw [checkPlace, img_place]; decide
  · obtain ⟨h1, h2⟩ := of_mem_blocks hx
    rw [h2]
    exact ⟨check_block h1, check_store h1, check_windows h1, check_slots h1⟩

/-! ## Committing and starting -/

/-- The one window, and an empty one. -/
def winAll : Window := { base := 0, len := 74, r := true, w := true }
/-- An empty window. -/
def winNone : Window := { base := 0, len := 0, r := false, w := false }

/-- The panel windows of a stream core of a site: one, at the first core. -/
theorem site_pwins {r j : Nat} (hr : r < 132) (hj : j < 32) : blockPwins img (site r) j =
    if j = 0 then [winAll, winNone, winNone, winNone] else [winNone, winNone, winNone, winNone] := by
  have z : pwinAt img (blockWin img (site r) + 128 * j + 64 + 16 * 1) = winNone ∧ pwinAt img (blockWin img (site r) + 128 * j + 64 + 16 * 2) = winNone ∧
      pwinAt img (blockWin img (site r) + 128 * j + 64 + 16 * 3) = winNone := by
    refine ⟨?_, ?_, ?_⟩ <;> (rw [pwinAt, site_pwin hr hj (by omega), if_neg (by omega)]; decide)
  have f : pwinAt img (blockWin img (site r) + 128 * j + 64 + 16 * 0) =
      if j = 0 then winAll else winNone := by
    rw [pwinAt, site_pwin hr hj (by omega)]
    by_cases h : j = 0
    · rw [if_pos ⟨h, rfl⟩, if_pos h]; decide
    · rw [if_neg (by omega), if_neg h]; decide
  rw [blockPwins, show List.range 4 = [0, 1, 2, 3] from rfl]
  simp only [List.map_cons, List.map_nil, z, f]
  split <;> rfl

/-- Every window of the image lies within its allocation, so it commits. -/
theorem img_commits (s : State) : commitImage s img = .inl img := by
  have w : windowsPlaced img (winsFor s (imgAlloc img)) (imgBlocks img) = true := by
    simp only [windowsPlaced, List.all_eq_true, List.mem_range]
    rintro ⟨x, n⟩ hx j hj w hw
    have hx' := (List.mem_zipIdx hx).2.2
    have hx := List.mem_of_getElem hx'.symm
    rw [img_blocks, List.mem_map] at hx
    obtain ⟨r, hr, rfl⟩ := hx
    rw [site_pwins (by simp at hr; exact hr) hj] at hw
    simp only [windowPlaced, img_relocs, img_alloc, List.filter_nil, List.getLast?_nil, Option.bind_none, Option.none_or]
    split at hw <;> (simp [List.zipIdx] at hw; rcases hw with rfl | rfl | rfl | rfl) <;> decide
  simp only [commitImage, img_relocs, List.zipIdx_nil, relocAll, w, if_true]

/-- It has no entries of the tenants' windows. -/
theorem img_rewound (s : State) : rewindowAll s img = img := by rw [rewindowAll, img_relocs]; rfl

/-- Its layout is what its first 640 bytes give. -/
theorem img_layout : layoutOf img = layoutOf imgHead := by
  have h6 : (imgDir imgHead 6).1 = 384 := by decide +kernel
  have hs : fitBytes 48 (img.drop 0x20) = fitBytes 48 (imgHead.drop 0x20) := by
    rw [fitBytes, fitBytes, List.take_append_of_le_length (by simp [img_length]), List.take_append_of_le_length (by simp [imgHead_length])]
    exact seg_head 0x20 48 (by omega)
  have hp : ((List.range 6).map fun m => min 0xFFFFFF (leAt img (384 + 0x10 + 4 * m) 4)) =
      (List.range 6).map fun m => min 0xFFFFFF (leAt imgHead (384 + 0x10 + 4 * m) 4) := by
    apply List.map_congr_left
    intro m hm
    rw [leAt_head _ _ (by simp at hm; omega)]
  simp only [layoutOf, img_dir 6 (by omega), h6, hs, hp]
  rw [leAt_head _ _ (by omega), leAt_head _ _ (by omega), leAt_head _ _ (by omega), leAt_head _ _ (by omega), leAt_head _ _ (by omega),
    leAt_head _ _ (by omega), leAt_head _ _ (by omega), leAt_head _ _ (by omega), leAt_head _ _ (by omega)]

/-- A descriptor area in either half of its window. -/
theorem img_desc {a : Nat} (h : a ≤ 37) : descPlaced img a = true := by
  simp only [descPlaced, List.any_eq_true, List.mem_range]
  refine ⟨site 0, ?_, 0, by omega, winAll, ?_, ?_⟩
  · rw [img_blocks]; exact List.mem_map.mpr ⟨0, by simp, rfl⟩
  · rw [site_pwins (by omega) (by omega)]; simp
  · have e : ceilDiv (descSize img) 256 = 37 := by rw [descSize, rmaxOf, img_batch]; decide
    rw [e]; simp [winAll]; omega

/-- Nothing refuses a start of it on a panel at ready. -/
theorem img_starts {s : State} (h1 : s.boot.lic = some {} ∧ s.boot.classB = false) (h2 : s.rnd.layout = none) (h3 : s.sess = []) : startRefused s img = none := by
  have l : startLayout img = startLayout imgHead := by rw [startLayout, startLayout, img_layout]
  have d0 : (startLayout imgHead).desc0 ≤ 37 ∧ (startLayout imgHead).desc1 ≤ 37 ∧ (startLayout imgHead).npool ≠ 0 := by decide +kernel
  have k : keepsLayout s (startLayout imgHead) = true := by rw [keepsLayout, h2]
  have u : (usedPages s).length = 0 := by rw [usedPages, h3]; decide
  have g : gradeLicensed s.boot.lic 0 = true ∧ s.boot.classB = false := by rw [h1.1]; exact ⟨by decide, h1.2⟩
  simp [startRefused, l, img_grade, img_desc d0.1, img_desc d0.2.1, k, u, g, d0.2.2, show bitOf 0 0 = false from by decide]

/-! ## Witnesses -/

/-- A request with the image as its bulk input. -/
def qImg : MbReq := { q0 with bulkv := true, blen := 642752, env := { bulk := img } }

/-- A panel at ready with an image staged. -/
def staged (x : List Byte) : State := { ready with pat := { staged := some x } }
/-- A panel at ready with an image committed. -/
def committed (x : List Byte) : State := { ready with pat := { committed := some x } }

/-- What is taken up next depends on the mailboxes and on what was served last only. -/
theorem nextUp_congr {s t : State} (h : s.fns = t.fns) (g : s.served = t.served) : nextUp s = nextUp t := by
  have f : ∀ n, fnOf s n = fnOf t n := fun n => by rw [fnOf, fnOf, h]
  have w : waitingFns s = waitingFns t := by simp only [waitingFns, f]
  simp only [nextUp, w, aheadOf, turnPlace, f, g]
  rfl

/-- A request passes where it does with no image in sight. -/
theorem passes_of {op : Nat} {q p : MbReq} {s : State} (h : nextUp (submitted op p [] ready) = some 0) (hq : q.fn = 0)
    (e : (submitted op q [] s).fns = (submitted op p [] ready).fns) (g : s.served = ready.served)
    (r : (fnReached s 0 && !(fnOf s 0).mb.own && herusUp s) = true) (c : checkReq q op (params []) (takenUp op q [] s) = none) :
    passes op q [] s = true := by
  have n : nextUp (submitted op q [] s) = some 0 := 
    (nextUp_congr (s := submitted op q [] s) (t := submitted op p [] ready) e (by simp only [submitted]; exact g)).trans h
  simp only [passes, hq, n, c, decide_true, Bool.and_true]
  simpa [fnOk] using r

theorem staged_passes (x : List Byte) : passes 0x21 q0 [] (staged x) = true :=
  passes_of (p := q0) (by decide +kernel) rfl rfl rfl rfl rfl
theorem committed_passes (x : List Byte) (l : List Nat) : passes 0x22 { q0 with env := { silent := l } } [] (committed x) = true :=
  passes_of (p := q0) (by decide +kernel) rfl rfl rfl rfl rfl
theorem qImg_passes (x : List Byte) : passes 0x20 { q0 with bulkv := true, blen := 642752, env := { bulk := x } } [] ready = true :=
  passes_of (p := { q0 with bulkv := true, blen := 642752 }) (by decide +kernel) rfl rfl rfl rfl rfl

/-- `MailboxPatterns`, its clauses about images: the image is staged, and the same image staged commits. -/
theorem wit_MailboxPatterns_images :
    (passes 0x20 qImg [] ready = true ∧ bulkIn qImg (2 ^ 30) = .inr img ∧ stageCheck ready.boot.lic img = none) ∧
    (passes 0x21 q0 [] (staged img) = true ∧ (staged img).pat.staged = some img ∧ commitImage (staged img) img = .inl img) := by
  refine ⟨⟨qImg_passes img, ?_, img_staged⟩, staged_passes img, rfl, img_commits _⟩
  have e : fitBytes 642752 img = img := by
    rw [fitBytes, img_length, Nat.sub_self, List.replicate_zero, List.append_nil, List.take_of_length_le (by rw [img_length])]
  exact congrArg Sum.inr e

/-- `PatternStart`, with the compute field in service: the committed image starts where every site answers, and sites of it are silent or not
ready. -/
theorem wit_PatternStart (l : List Nat) :
    let q : MbReq := { q0 with env := { silent := l } }
    let s := committed img
    let t := takenUp 0x22 q [] s
    passes 0x22 q [] s = true ∧ s.pat.committed = some img ∧ s.pat.running = none ∧ s.boot.bound = false ∧ s.boot.vinGone = [] ∧
      startRefused (startMode s.boot.bound t) (rewindowAll t img) = none ∧ courseMissing t = false ∧ q.env.notReady = [] := by
  refine ⟨committed_passes img l, rfl, rfl, rfl, rfl, ?_, rfl, rfl⟩
  rw [img_rewound]; exact img_starts ⟨rfl, rfl⟩ rfl rfl

/-- A panel with an image committed and the VIN of course 3 removed. -/
def away (x : List Byte) : State := { committed x with boot := { readyBoot with vinGone := [3] } }

/-- What the return of the compute field answers depends on the sites that cannot be used only. -/
theorem fieldBack_fst (bad : List Nat) (s : State) : (fieldBack bad s).1 = (List.range 12).find? fun w => decide (2 ≤ (unusableOf s
    ((rising bad).filter fun d => decide (d < 144) && !s.grid.retired.contains d && !courseLost s (d / 12)) w).length) := by
  simp only [fieldBack]
  split <;> (rename_i h; exact h.symm)

theorem away_passes (x : List Byte) (l : List Nat) : passes 0x22 { q0 with env := { returnFail := l } } [] (away x) = true :=
  passes_of (p := q0) (by decide +kernel) rfl rfl rfl rfl rfl

/-- `PatternStart`, with courses to bring back: every site returns, and two sites of wale 5 do not. -/
theorem wit_PatternStart_away (l : List Nat) :
    let q : MbReq := { q0 with env := { returnFail := l } }
    let s := away img
    let t := takenUp 0x22 q [] s
    passes 0x22 q [] s = true ∧ s.pat.committed = some img ∧ s.pat.running = none ∧ s.boot.vinGone ≠ [] ∧
      startRefused (startMode s.boot.bound t) (rewindowAll t img) = none ∧ courseMissing t = false ∧ q.env.silent = [] ∧ q.env.notReady = [] ∧
      (fieldBack [] t).1 = none ∧ (fieldBack [5, 17] t).1 = some 5 := by
  refine ⟨away_passes img l, rfl, rfl, by simp [away], ?_, rfl, rfl, rfl, ?_, ?_⟩
  · rw [img_rewound]; exact img_starts ⟨rfl, rfl⟩ rfl rfl
  · rw [fieldBack_fst]; rfl
  · rw [fieldBack_fst]; rfl

end Sys2Proof.Tests
end

section
/-! PROOF. Descriptors of the stream cores' stores (R99, R102, R107, R124, R135, R149, R151, R154): each layout reads back the
fields that were written into it, and a descriptor decodes to a micro-op exactly when it is that micro-op's encoding. -/

namespace Sys2Proof

/-! ## One bit of a concatenation -/

/-- A bit below the width of the low part. -/
theorem getLsbD_append_low {m n i : Nat} (x : BitVec m) (y : BitVec n) (h : i < n) : (x ++ y).getLsbD i = y.getLsbD i := by
  rw [BitVec.getLsbD_append, if_pos h]

/-- A bit at or above the width of the low part. -/
theorem getLsbD_append_high {m n i : Nat} (x : BitVec m) (y : BitVec n) (h : n ≤ i) : (x ++ y).getLsbD i = x.getLsbD (i - n) := by
  rw [BitVec.getLsbD_append, if_neg (by omega)]

/-! ## The fields of each layout -/

theorem decodeCtl_encodeCtl (opc : BitVec 8) (f : CtlF) : decodeCtl (encodeCtl opc f) = f := by
  simp (disch := omega) only [decodeCtl, encodeCtl, BitVec.extractLsb'_append_eq_of_le, BitVec.extractLsb'_append_eq_of_add_le]
  simp

theorem decodeVec_encodeVec (opc : BitVec 8) (f : VecF) : decodeVec (encodeVec opc f) = f := by
  simp (disch := omega) only [decodeVec, encodeVec, BitVec.extractLsb'_append_eq_of_le, BitVec.extractLsb'_append_eq_of_add_le,
    getLsbD_append_low, getLsbD_append_high]
  simp

theorem decodeMtl_encodeMtl (f : MtlF) : decodeMtl (encodeMtl f) = f := by
  simp (disch := omega) only [decodeMtl, encodeMtl, BitVec.extractLsb'_append_eq_of_le, BitVec.extractLsb'_append_eq_of_add_le,
    getLsbD_append_low, getLsbD_append_high]
  simp

theorem decodeMma_encodeMma (f : MmaF) : decodeMma (encodeMma f) = f := by
  simp (disch := omega) only [decodeMma, encodeMma, BitVec.extractLsb'_append_eq_of_le, BitVec.extractLsb'_append_eq_of_add_le,
    getLsbD_append_low, getLsbD_append_high]
  simp

theorem decodeMdr_encodeMdr (f : MdrF) : decodeMdr (encodeMdr f) = f := by
  simp (disch := omega) only [decodeMdr, encodeMdr, BitVec.extractLsb'_append_eq_of_le, BitVec.extractLsb'_append_eq_of_add_le,
    getLsbD_append_low, getLsbD_append_high]
  simp

theorem decodeDm_encodeDm (opc : BitVec 8) (f : DmF) : decodeDm (encodeDm opc f) = f := by
  simp (disch := omega) only [decodeDm, encodeDm, BitVec.extractLsb'_append_eq_of_le, BitVec.extractLsb'_append_eq_of_add_le,
    getLsbD_append_low, getLsbD_append_high]
  simp

theorem decodeFm_encodeFm (opc : BitVec 8) (f : FmF) : decodeFm (encodeFm opc f) = f := by
  simp (disch := omega) only [decodeFm, encodeFm, BitVec.extractLsb'_append_eq_of_le, BitVec.extractLsb'_append_eq_of_add_le]
  simp

/-- KNOT has its index in bits 27 to 16 (R154). -/
theorem knotField_encodeUop (k : BitVec 12) : (encodeUop (.knot k)).extractLsb' 16 12 = k := by
  simp (disch := omega) only [encodeUop, BitVec.extractLsb'_append_eq_of_le, BitVec.extractLsb'_append_eq_of_add_le]
  simp

/-! ## The operation code -/

/-- The operation code of a micro-op (R123). -/
def uopOpc : Uop → BitVec 8
  | .ctl op _ => ctlOpc op
  | .vec op _ => vecOpc op
  | .mtl _ => 0x40
  | .mma _ => 0x41
  | .mdr _ => 0x42
  | .dm write _ => if write then 0x51 else 0x50
  | .fm op _ => fmOpc op
  | .knot _ => 0x60

/-- Every layout ends in the operation code. -/
theorem opcode_encodeUop (u : Uop) : (encodeUop u).extractLsb' 0 8 = uopOpc u := by
  cases u <;> exact BitVec.extractLsb'_append_eq_right

/-! ## Round trips -/

/-- A micro-op with its fields read again from the bits of a descriptor. -/
def rereadUop (b : BitVec 128) : Uop → Uop
  | .ctl op _ => .ctl op (decodeCtl b)
  | .vec op _ => .vec op (decodeVec b)
  | .mtl _ => .mtl (decodeMtl b)
  | .mma _ => .mma (decodeMma b)
  | .mdr _ => .mdr (decodeMdr b)
  | .dm write _ => .dm write (decodeDm b)
  | .fm op _ => .fm op (decodeFm b)
  | .knot _ => .knot (b.extractLsb' 16 12)

/-- Under the operation code of a micro-op, a descriptor reads as one of its kind. -/
theorem readUop_of_opcode {b : BitVec 128} {u : Uop} (h : b.extractLsb' 0 8 = uopOpc u) : readUop b = some (rereadUop b u) := by
  unfold readUop
  rw [h]
  cases u with
  | ctl op f => cases op <;> rfl
  | vec op f => cases op <;> rfl
  | mtl f => rfl
  | mma f => rfl
  | mdr f => rfl
  | dm write f => cases write <;> rfl
  | fm op f => cases op <;> rfl
  | knot k => rfl

/-- The fields of an encoding are those that were encoded. -/
theorem rereadUop_encodeUop (u : Uop) : rereadUop (encodeUop u) u = u := by
  cases u with
  | ctl op f => rw [rereadUop, encodeUop, decodeCtl_encodeCtl]
  | vec op f => rw [rereadUop, encodeUop, decodeVec_encodeVec]
  | mtl f => rw [rereadUop, encodeUop, decodeMtl_encodeMtl]
  | mma f => rw [rereadUop, encodeUop, decodeMma_encodeMma]
  | mdr f => rw [rereadUop, encodeUop, decodeMdr_encodeMdr]
  | dm write f => rw [rereadUop, encodeUop, decodeDm_encodeDm]
  | fm op f => rw [rereadUop, encodeUop, decodeFm_encodeFm]
  | knot k => rw [rereadUop, knotField_encodeUop]

/-- An encoding reads as the micro-op that was encoded. -/
theorem readUop_encodeUop (u : Uop) : readUop (encodeUop u) = some u := by
  rw [readUop_of_opcode (opcode_encodeUop u), rereadUop_encodeUop]

/-- What decoding accepts (R20): a descriptor whose bits are those that its micro-op is written as. -/
theorem decodeUop_eq_some_iff (b : BitVec 128) (u : Uop) : decodeUop b = some u ↔ encodeUop u = b := by
  constructor
  · intro h
    unfold decodeUop at h
    split at h
    · split at h
      · rename_i hb
        exact Option.some.inj h ▸ hb
      · cases h
    · cases h
  · rintro rfl
    simp [decodeUop, readUop_encodeUop]

/-- Settles O5: encodings read back field by field, and the decoder compares what it read with the bits it was given. -/
theorem descriptorRoundTrip : Obligations.DescriptorRoundTrip :=
  ⟨fun u => (decodeUop_eq_some_iff _ u).2 rfl, fun b u => (decodeUop_eq_some_iff b u).1⟩

end Sys2Proof
end

section
/-! PROOF. Micro-ops that do not have their whole effect: those that do not issue change nothing, and a control micro-op that raises a
pattern fault moves its core on and leaves one record (R1, R120, R122, R126, R130, R133, R229). -/

namespace Sys2Proof.Machine

open Sys2Proof

/-! ## Every micro-op is issued in one way -/

/-- The effect of a control micro-op on its cluster. -/
def ctlEffect : CtlOp → CtlF → Ctx → Cluster → Cluster × List Pf
  | .nop, f => (opNop · f)
  | .loop, f => (opLoop · f)
  | .seti, f => (opSeti · f)
  | .alu, f => (opAlu · f)
  | .ldw, f => (opLdw · f)
  | .stw, f => (opStw · f)
  | .mask, f => (opMask · f)
  | .syw, f => (opSyw · f)

/-- The effect of a vector micro-op on its cluster. -/
def vecEffect : VecOp → VecF → Ctx → Cluster → Cluster × List Pf
  | .vld, f => (opVld · f)
  | .vst, f => (opVst · f)
  | .vew, f => (opVew · f)
  | .vrd, f => (opVrd · f)
  | .vsf, f => (opVsf · f)
  | .vsmx, f => (opVsmx · f)
  | .vnrm, f => (opVnrm · f)
  | .vtopk, f => (opVtopk · f)
  | .vrng, f => (opVrng · f)
  | .cvt, f => (opCvt · f)
  | .vflg, f => (opVflg · f)

/-- The effect of a micro-op on the panel. -/
def uopAct : Uop → UopAct
  | .ctl op f => onCluster (ctlEffect op f)
  | .vec op f => onCluster (vecEffect op f)
  | .mtl f => onCluster (opMtl · f)
  | .mma f => onCluster (opMma · f)
  | .mdr f => onCluster (opMdr · f)
  | .dm write f => actDm write f
  | .fm .ssn f => onCluster (opSsn · f)
  | .fm .srv f => actSrv f
  | .fm .fsn f => actFsn f
  | .fm .frv f => actFrv f
  | .knot k => actKnot k

/-- The meaning of a micro-op's command: its issue with the micro-op's effect. -/
theorem exec_uopCommand (i : Issue) (u : Uop) (s : State) :
    exec (uopCommand i u) s = done (uopCommand i u).wf (issueUop i u (uopAct u) s) := by
  cases u with
  | ctl op f => cases op <;> rfl
  | vec op f => cases op <;> rfl
  | mtl f => rfl
  | mma f => rfl
  | mdr f => rfl
  | dm write f => cases write <;> rfl
  | fm op f => cases op <;> rfl
  | knot k => rfl

/-- A well-formed micro-op that does not issue changes nothing. -/
theorem exec_uopCommand_idle {i : Issue} {u : Uop} {s : State} (hwf : (uopCommand i u).wf = true)
    (h : (issues i s && stored i u s) = false) : exec (uopCommand i u) s = .next s := by
  rw [exec_uopCommand, hwf, issueUop_idle _ h]
  rfl

/-! ## The issuing core, past its micro-op -/

/-- The core past its micro-op remembers the cycle of issue. -/
theorem movedCore_last (i : Issue) (s : State) : (movedCore i s).last = some (issueNow i s) := by
  rw [movedCore, movedOn, cluCore_cluSetCore _ _ _ (coreIssued_ne _ _)]
  rfl

/-- Wherever the core past its micro-op goes on, its cluster holds it. -/
theorem cores_jump (i : Issue) (s : State) (c : Cluster) (p : Nat) (l : List LoopFrame) :
    (cluSetCore c i.sc { movedCore i s with uop := p, loops := l }).cores ≠ [] := by
  refine cores_cluSetCore _ _ _ fun h => ?_
  have hl : (movedCore i s).last = none := congrArg Core.last h
  rw [movedCore_last] at hl
  cases hl

/-! ## Micro-ops that raise a pattern fault -/

/-- The state after a micro-op that leaves its cluster as `c` and raises the pattern fault `pf`: one record, at the place of issue. -/
def issueFails (i : Issue) (s : State) (pf : Pf) (c : Cluster) : State :=
  addPatFault (issueCtx i s).die (uopFault s (issueCtx i s) (cluCore (issueClu i s) i.sc).uop pf) (withIssue i c s)

/-- A micro-op that acts on its own cluster changes this cluster and records the faults that it raises. -/
theorem issueUop_onCluster_faults {i : Issue} {u : Uop} {s : State} {op : Ctx → Cluster → Cluster × List Pf} {c : Cluster}
    {l : List Pf} (h : issues i s = true) (hu : stored i u s = true) (hop : op (issueCtx i s) (movedOn i s) = (c, l))
    (hc : c.cores ≠ []) : issueUop i u (onCluster op) s =
      l.foldl (fun t p => addPatFault (issueCtx i s).die (uopFault s (issueCtx i s) (cluCore (issueClu i s) i.sc).uop p) t)
        (withIssue i c s) := by
  have hmoved : cluSetCore (issueClu i s) i.sc (coreIssued (cluCore (issueClu i s) i.sc) (issueCtx i s).now) = movedOn i s := rfl
  have hclu : (issueCtx i s).clu = i.clu := rfl
  have hne := clu_ne_default (movedOn_cores i s)
  simp only [issueUop, h, hu, Bool.and_self, if_true, onCluster, hmoved, hclu, cluOf_modClu _ _ _ _ hne, hop]
  rw [modClu_modClu _ _ _ _ _ hne (clu_ne_default hc), withIssue]

/-- A control micro-op that is placed and raises one fault. -/
theorem exec_ctl_fails {i : Issue} {op : CtlOp} {f : CtlF} {s : State} {c : Cluster} {pf : Pf} (h : issues i s = true)
    (hp : placed i (.ctl op f) s) (hop : ctlEffect op f (issueCtx i s) (movedOn i s) = (c, [pf])) (hc : c.cores ≠ []) :
    exec (uopCommand i (.ctl op f)) s = .next (issueFails i s pf c) := by
  obtain ⟨hwf, hstored⟩ := hp
  rw [exec_uopCommand, hwf, uopAct, issueUop_onCluster_faults h hstored hop hc]
  rfl

/-! ## The faults of LDW, STW, MASK and LOOP -/

section

variable {x : Ctx} {f : CtlF} {c : Cluster} {pf : Pf}

/-- LDW outside the core's readable windows (R133). -/
theorem opLdw_outside (h : bytesOk (cluCore c x.sc) false (ctlWord (cluCore c x.sc) f * 4) 4 = false) :
    opLdw x f c = (c, [pfAdr 0 (ctlWord (cluCore c x.sc) f)]) := by
  simp [opLdw, h]

/-- LDW on a claimed bank (R130). -/
theorem opLdw_claimed (h : bytesOk (cluCore c x.sc) false (ctlWord (cluCore c x.sc) f * 4) 4 = true)
    (hcl : claimAll x.sc ((granulesOf (ctlWord (cluCore c x.sc) f * 4) 4).map fun g => (x.now, g)) c.claims = .inr pf) :
    opLdw x f c = (c, [pf]) := by
  simp [opLdw, h, hcl]

/-- STW outside the core's writable windows (R133). -/
theorem opStw_outside (h : bytesOk (cluCore c x.sc) true (ctlWord (cluCore c x.sc) f * 4) 4 = false) :
    opStw x f c = (c, [pfAdr 0 (ctlWord (cluCore c x.sc) f)]) := by
  simp [opStw, h]

/-- STW on a bank that is claimed two cycles on (R130). -/
theorem opStw_claimed (h : bytesOk (cluCore c x.sc) true (ctlWord (cluCore c x.sc) f * 4) 4 = true)
    (hcl : claimAll x.sc ((granulesOf (ctlWord (cluCore c x.sc) f * 4) 4).map fun g => (x.now + 2, g)) c.claims = .inr pf) :
    opStw x f c = (c, [pf]) := by
  simp [opStw, h, hcl]

/-- MASK over words outside the core's readable windows (R133). -/
theorem opMask_outside (h : bytesOk (cluCore c x.sc) false (ctlWord (cluCore c x.sc) f * 4) 1024 = false) :
    opMask x f c = (c, [pfAdr 0 (ctlWord (cluCore c x.sc) f)]) := by
  simp [opMask, h]

/-- MASK over a claimed bank (R130). -/
theorem opMask_claimed (h : bytesOk (cluCore c x.sc) false (ctlWord (cluCore c x.sc) f * 4) 1024 = true)
    (hcl : claimAll x.sc ((granulesOf (ctlWord (cluCore c x.sc) f * 4) 1024).map fun g => (x.now, g)) c.claims = .inr pf) :
    opMask x f c = (c, [pf]) := by
  simp [opMask, h, hcl]

/-- LOOP with a register count above IMM skips its body (R126). -/
theorem opLoop_above (hsrc : f.srca ≠ 0) (h : f.imm.toNat < (coreIdx (cluCore c x.sc) f.srca.toNat).toNat) :
    let k := cluCore c x.sc
    let next := advance (k.uop - 1 + f.body.toNat) k.loops
    opLoop x f c = (cluSetCore c x.sc { k with uop := next.1, loops := next.2 }, [pfAdr 2 (coreIdx k f.srca.toNat).toNat]) := by
  simp only [opLoop, if_neg hsrc]
  exact if_pos ⟨hsrc, h⟩

end

/-- Settles O7: a micro-op that does not issue leaves the state, and each fault of a control micro-op is one of its operation's cases. -/
theorem microOpFaults : Obligations.MicroOpFaults := by
  intro i s
  refine ⟨fun u hwf h => exec_uopCommand_idle hwf h, fun h => ?_⟩
  have hc := movedOn_cores i s
  intro c k n fails f w
  refine ⟨fun hp => ⟨fun hb => ?_, fun hb pf hcl => ?_⟩, fun hp => ⟨fun hb => ?_, fun hb pf hcl => ?_⟩,
    fun hp => ⟨fun hb => ?_, fun hb pf hcl => ?_⟩, fun hp hsrc himm => ?_⟩
  · exact exec_ctl_fails h hp (opLdw_outside hb) hc
  · exact exec_ctl_fails h hp (opLdw_claimed hb hcl) hc
  · exact exec_ctl_fails h hp (opStw_outside hb) hc
  · exact exec_ctl_fails h hp (opStw_claimed hb hcl) hc
  · exact exec_ctl_fails h hp (opMask_outside (x := issueCtx i s) (f := f) (c := movedOn i s) hb) hc
  · exact exec_ctl_fails h hp (opMask_claimed (x := issueCtx i s) (f := f) (c := movedOn i s) hb hcl) hc
  · exact exec_ctl_fails h hp (opLoop_above hsrc himm) (cores_jump i s _ _ _)

end Sys2Proof.Machine
end

section
/-! PROOF. Mailbox commands that are accepted: the request area that a host writes reads back, so that the command is carried out in the
state `takenUp`; and what licence installation, firmware staging and activation answer there (R10, R12, R408, R411, R417, R447, R459). -/

namespace Sys2Proof.Machine

open Sys2Proof

/-! ## Tables -/

/-- Two changes at one key, neither of which leaves the default, are one change. -/
theorem tabMod_tabMod {α : Type} [DecidableEq α] (d : α) (t : Tab α) (k : Nat) (f g : α → α) (hf : f (tabGet d t k) ≠ d)
    (hg : g (f (tabGet d t k)) ≠ d) : tabMod d (tabMod d t k f) k g = tabMod d t k fun x => g (f x) := by
  simp only [tabMod]
  rw [tabGet_tabPut_some d t k _ hf, tabPut_tabPut d t k hf hg]

/-- A read after several writes whose values are given by their keys, in a canonical table. -/
theorem tabGet_tabPuts_map {α : Type} [DecidableEq α] (d : α) (g : Nat → α) (ks : List Nat) (t : Tab α) (j : Nat)
    (h : tabWf d t = true) :
    tabGet d (tabPuts d t (ks.map fun i => (i, g i))) j = if j ∈ ks then g j else tabGet d t j := by
  induction ks generalizing t with
  | nil => rfl
  | cons k ks ih =>
    have hstep : tabPuts d t ((k :: ks).map fun i => (i, g i)) = tabPuts d (tabPut d t k (g k)) (ks.map fun i => (i, g i)) := rfl
    rw [hstep, ih _ (tabWf_tabPut d t k _ h), tabGet_tabPut d t k j _ h]
    by_cases hjk : j = k
    · simp [hjk]
    · simp [hjk]

/-! ## Bytes -/

/-- The bytes of a number spell it, up to their range. -/
theorem leNat_natLe (n v : Nat) : leNat (natLe n v) = v % 256 ^ n := by
  induction n generalizing v with
  | zero => simp [natLe, leNat, Nat.mod_one]
  | succ n ih =>
    rw [natLe, leNat, ih, BitVec.toNat_ofNat, pow_succ' 256 n, Nat.mod_mul]

/-- A number has as many bytes as are asked for. -/
@[simp] theorem length_natLe (n v : Nat) : (natLe n v).length = n := by
  induction n generalizing v with
  | zero => rfl
  | succ n ih => simp [natLe, ih]

/-- A number at the head of a byte list. -/
theorem leAt_natLe_append (n v : Nat) (l : List Byte) : leAt (natLe n v ++ l) 0 n = v % 256 ^ n := by
  rw [leAt, List.drop_zero, List.take_left' (length_natLe n v), leNat_natLe]

/-! ## The request area (R408) -/

/-- A word of a request area. -/
theorem tabGet_wordsOf (l : List Byte) {i : Nat} (h : i < 64) : tabGet 0 (wordsOf l) i = BitVec.ofNat 32 (leAt l (4 * i) 4) := by
  rw [wordsOf, tabGet_tabPuts_map 0 (fun i => BitVec.ofNat 32 (leAt l (4 * i) 4)) _ _ _ (tabWf_nil 0), if_pos (List.mem_range.2 h)]

/-- The first two bytes of a request area are the low half of its first word. -/
theorem leAt_areaBytes_opcode (t : Tab W32) : leAt (areaBytes t) 0 2 = (tabGet 0 t 0).toNat % 2 ^ 16 := by
  have hsplit : areaBytes t = natLe 4 (tabGet 0 t 0).toNat ++ (List.range' 1 63).flatMap fun i => natLe 4 (tabGet 0 t i).toNat := rfl
  rw [hsplit]
  exact leAt_natLe_append 2 _ _

/-- The low half of the first word of a request is its operation code. -/
theorem leAt_reqBytes_mod (op : Nat) (q : MbReq) (l : List (Nat × List Byte)) : leAt (reqBytes op q l) 0 4 % 2 ^ 16 = op % 2 ^ 16 := by
  have hhead : ∀ rest : List Byte, leAt (natLe 2 op ++ rest) 0 4 % 2 ^ 16 = op % 2 ^ 16 := by
    intro rest
    simp only [leAt, natLe, leNat, List.cons_append, List.nil_append, List.drop_zero, List.take_succ_cons, BitVec.toNat_ofNat]
    omega
  simpa only [reqBytes, List.append_assoc] using hhead _

/-- The operation code reads back from the request area. -/
theorem opcode_wordsOf_reqBytes {op : Nat} (h : op < 2 ^ 16) (q : MbReq) (l : List (Nat × List Byte)) :
    leAt (areaBytes (wordsOf (reqBytes op q l))) 0 2 = op := by
  rw [leAt_areaBytes_opcode, tabGet_wordsOf _ (by omega), BitVec.toNat_ofNat, Nat.mod_mod_of_dvd _ (by norm_num), leAt_reqBytes_mod,
    Nat.mod_eq_of_lt h]

/-- The request area of a command is not empty. -/
theorem wordsOf_reqBytes_ne_nil {op : Nat} (hpos : 0 < op) (h : op < 2 ^ 16) (q : MbReq) (l : List (Nat × List Byte)) :
    wordsOf (reqBytes op q l) ≠ [] := by
  intro e
  have hop := opcode_wordsOf_reqBytes h q l
  rw [e, leAt_areaBytes_opcode] at hop
  exact hpos.ne hop

/-! ## From a request to its command's effect (R411, R417, R421) -/

/-- A function whose mailbox holds a request area is not in its reset state. -/
theorem func_ne_of_req {x : Func} (h : x.mb.req ≠ []) : x ≠ {} := by
  intro e
  exact h (congrArg (fun y : Func => y.mb.req) e)

section

variable {op : Nat} {q : MbReq} {l : List (Nat × List Byte)} {s : State}

/-- What a host writes and the doorbell leave (R408, R411). -/
theorem submit_eq_submitted (hpos : 0 < op) (h : op < 2 ^ 16) :
    submit q.fn (modMb q.fn (fun m => { m with req := wordsOf (reqBytes op q l), tag := q.tag }) s) = submitted op q l s := by
  have hreq := wordsOf_reqBytes_ne_nil hpos h q l
  have hop := opcode_wordsOf_reqBytes h q l
  simp only [submit, modMb, modFn, submitted]
  generalize wordsOf (reqBytes op q l) = area at hreq hop
  rw [tabMod_tabMod _ _ _ _ _ (func_ne_of_req hreq) (func_ne_of_req hreq)]
  simp only [hop]

/-- What take-up leaves (R417, R419). -/
theorem takeUp_submitted (hpos : 0 < op) (h : op < 2 ^ 16) (p : List Byte) (hcheck : checkReq q op p (takenUp op q l s) = none) :
    takeUp op q p (submitted op q l s) = runBody op q p (takenUp op q l s) := by
  have hreq := wordsOf_reqBytes_ne_nil hpos h q l
  have htaken : backlog q.env.wait (modMb q.fn (fun m => { m with taken := true })
      { submitted op q l s with served := tabPut 64 (submitted op q l s).served (classOf op) q.fn }) = takenUp op q l s := by
    simp only [backlog, modMb, modFn, submitted, takenUp]
    generalize wordsOf (reqBytes op q l) = area at hreq
    rw [tabMod_tabMod _ _ _ _ _ (func_ne_of_req hreq) (func_ne_of_req hreq)]
  rw [takeUp, htaken]
  simp only [hcheck]

/-- An accepted request is carried out in the state in which it was taken up; then follow the panel's own duties. -/
theorem request_of_accepted (hpos : 0 < op) (h : op < 2 ^ 16) (ha : accepted op q l s) :
    request op q l s = duties (runBody op q (params l) (takenUp op q l s)) := by
  obtain ⟨⟨hreach, hown, hup⟩, hnext, hcheck⟩ := ha
  obtain ⟨hport, hexists⟩ : portUp s (portOfFn q.fn) = true ∧ fnExists s q.fn = true := by
    simpa only [fnReached, Bool.and_eq_true] using hreach
  have hup' : herusUp (submitted op q l s) = true := hup
  simp only [request, access, hport, hexists, hown, submit_eq_submitted hpos h, hup', hnext, Bool.not_true, Bool.false_eq_true,
    if_false, if_true, beq_self_eq_true, Bool.and_self, takeUp_submitted hpos h _ hcheck]

/-- The answer of an accepted command that completes at once (R418): its response, written in the state that it leaves. -/
theorem exec_of_accepted {c : Instr} {f : Imm} {r : Rsp} {t : State} (hexec : exec c s = done (fnOk q.fn) (request op q l s))
    (hbody : runBody op = answer op f) (hpos : 0 < op) (h : op < 2 ^ 16) (hfn : fnOk q.fn = true) (ha : accepted op q l s)
    (himm : f q (params l) (takenUp op q l s) = (r, t)) : exec c s = answers op q r t := by
  rw [hexec, hfn, request_of_accepted hpos h ha, hbody, answer, himm]
  rfl

end

/-! ## Parameters -/

/-- A single parameter at the start of the parameter area reads back. -/
theorem par_params_head (n v : Nat) (h : n ≤ 224) : par (params [(0, natLe n v)]) 0 n = v % 256 ^ n := by
  have hfields : fieldsAt [(0, natLe n v)] = natLe n v ++ (List.replicate 224 0).drop n := by
    have hfits : (natLe n v).take 224 = natLe n v := List.take_of_length_le (by rwa [length_natLe])
    have hone : fieldsAt [(0, natLe n v)] = overlay (List.replicate 224 0) 0 (natLe n v) := rfl
    rw [hone, overlay, List.take_zero, List.nil_append, List.length_replicate, Nat.sub_zero, hfits, length_natLe, Nat.zero_add]
  have hlen : (fieldsAt [(0, natLe n v)]).length = 224 := by
    rw [hfields, List.length_append, length_natLe, List.length_drop, List.length_replicate]
    omega
  rw [par, params, fitBytes, hlen, Nat.sub_self, List.replicate_zero, List.append_nil, List.take_of_length_le (Nat.le_of_eq hlen),
    hfields, leAt_natLe_append]

/-! ## Licence and firmware -/

/-- Field checks that all pass. -/
theorem checked_pass {cs : List (Bool × Rsp)} (s : State) (act : Rsp × State) (h : ∀ c ∈ cs, c.1 = false) : checked cs s act = act := by
  have hfind : cs.find? (·.1) = none := List.find?_eq_none.2 fun c hc => by simp [h c hc]
  simp only [checked, hfind]

/-- The panel with a licence in flash that waits to take effect. -/
def licenceWaits (lic : Licence) (t : State) : State :=
  modBoot (fun b => { b with licNext := some lic }) { t with flash := { t.flash with lic := some lic } }

/-- LICENCE_INSTALL of a licence that is bound to this panel and withdraws nothing in use (R10, R12). -/
theorem licenceInstallImm_good {q : MbReq} {b : List Byte} {t : State} (p : List Byte) (hbulk : bulkIn q 4096 = .inr b) (hlen : q.blen ≠ 0)
    (hgood : licGood q.env.lic = true) (huse : licInUse t q.env.lic = false) :
    licenceInstallImm q p t =
      (okRsp [(0, natLe 4 (licFeatures (some q.env.lic)).toNat),
          (8, natLe 8 (if t.pat.running.isNone then 0 else (t.rnd.no + 1).toNat))],
        if t.pat.running.isNone then takeLicence (licenceWaits q.env.lic t) else licenceWaits q.env.lic t) := by
  simp only [licenceInstallImm, hbulk]
  exact checked_pass _ _ (by simpa [hgood, huse] using hlen)

/-- The panel with an image, or none, in the inactive firmware slot. -/
def slotTakes (x : Option Firmware) (t : State) : State :=
  { t with flash := { t.flash with
      staged := x, slotA := if t.flash.bootB then x else t.flash.slotA, slotB := if t.flash.bootB then t.flash.slotB else x } }

/-- FIRMWARE_STAGE with bulk input that can be read (R459). -/
theorem firmwareStageImm_read {q : MbReq} {b : List Byte} (p : List Byte) (t : State)
    (hbulk : bulkIn q (min (32 * 2 ^ 20) Config.slotSize) = .inr b) :
    firmwareStageImm q p t =
      (if q.env.fw.sigOk then okRsp [(0, natLe 4 q.env.fw.version.toNat)] else { status := rsBadImage },
        slotTakes (if q.env.fw.sigOk then some q.env.fw else none) t) := by
  simp only [firmwareStageImm, hbulk, slotTakes]
  cases q.env.fw.sigOk <;> cases t.flash.bootB <;> rfl

/-- FIRMWARE_ACTIVATE of a staged image (R459): WHEN 1 asks for a warm reset. -/
theorem firmwareActivateImm_staged (q : MbReq) {p : List Byte} {t : State} {fw : Firmware} (hwhen : par p 0 1 ≤ 1)
    (hstaged : t.flash.staged = some fw) :
    firmwareActivateImm q p t =
      (okRsp [(0, natLe 4 t.boot.fwver.toNat), (4, natLe 4 fw.version.toNat)],
        { t with
          flash := { t.flash with bootB := !t.flash.bootB, staged := none }
          boot := { t.boot with warmDue := t.boot.warmDue || decide (par p 0 1 = 1) } }) := by
  simp only [firmwareActivateImm, hstaged]
  rw [checked_pass _ _ (by simpa using hwhen)]
  by_cases hw : par p 0 1 = 1
  · simp [hw, modBoot]
  · simp [hw]

/-- Settles O22: an accepted command is its immediate meaning in the state in which it is taken up. -/
theorem mailboxFirmware : Obligations.MailboxFirmware := by
  intro q s hfn
  refine ⟨?licence, ?stage, ?activate⟩
  case licence =>
    rintro ha ⟨b, hbulk⟩ hlen hgood t u huse
    have himm := licenceInstallImm_good (params []) hbulk hlen hgood huse
    have hrun : t.pat.running = s.pat.running := rfl
    have hno : t.rnd.no = s.rnd.no := rfl
    rw [hrun, hno] at himm
    constructor
    · intro h
      simp only [h, Option.isNone_none, if_true] at himm
      exact exec_of_accepted (f := licenceInstallImm) rfl rfl (by omega) (by omega) hfn ha himm
    · intro h
      simp only [Option.isNone_eq_false_iff.2 h, Bool.false_eq_true, if_false] at himm
      exact exec_of_accepted (f := licenceInstallImm) rfl rfl (by omega) (by omega) hfn ha himm
  case stage =>
    rintro ha ⟨b, hbulk⟩
    have himm := firmwareStageImm_read (params []) (takenUp 0xF0 q [] s) hbulk
    exact exec_of_accepted (f := firmwareStageImm) rfl rfl (by omega) (by omega) hfn ha himm
  case activate =>
    intro when_ fw l t ha hwhen hstaged
    have hpar : par (params l) 0 1 = when_.toNat := (par_params_head 1 _ (by omega)).trans (Nat.mod_eq_of_lt when_.isLt)
    have himm := firmwareActivateImm_staged q (p := params l) (t := t) (hpar ▸ hwhen) hstaged
    have hone : decide (par (params l) 0 1 = 1) = (when_ == 1) := by
      rw [hpar, beq_eq_decide]
      exact decide_eq_decide.2 (BitVec.toNat_inj (y := 1))
    rw [hone] at himm
    exact exec_of_accepted (f := firmwareActivateImm) rfl rfl (by omega) (by omega) hfn ha himm

end Sys2Proof.Machine
end

section
/-! PROOF. The end of a DMR (R150, R307, R320): the counter of a read is written to the table of stacks, and a table that lists a stack
twice shows its second entry once the first has become the default; so a DMR can put one stack out by reading it. -/

namespace Sys2Proof.Machine

open Sys2Proof

/-! ## When the panel's duties leave a state -/

/-- No line waits to be announced once invalidations have been sent (R280). -/
theorem sendInvals_lines (s : State) : (sendInvals s).rnd.lines = [] := by
  unfold sendInvals
  dsimp only
  split
  next h =>
    rw [Bool.and_eq_true, Bool.and_eq_true] at h
    exact List.isEmpty_iff.1 h.1.1
  next => rfl

/-- Duties that leave a line to be announced were not looked at: they left the state as it was. -/
theorem duties_eq_self_of_lines {s : State} (h : (duties s).rnd.lines ≠ []) : duties s = s := by
  unfold duties at h ⊢
  split
  next => rfl
  next hrun =>
    rw [if_neg hrun] at h
    exact absurd (sendInvals_lines _) h

/-- No anchor runs while PANEL_RST_N is held. -/
theorem duties_of_heldRst {s : State} (h : s.boot.heldRst = true) : duties s = s := by
  rw [duties, h, Bool.true_or, Bool.true_or, if_pos rfl]

/-! ## The memory of a cluster -/

/-- A change of a cluster is read back where it leaves a cluster with cores. -/
theorem cluOf_modClu_of_cores {d k : Nat} {f : Cluster → Cluster} {s : State} (h : (f (cluOf s d k)).cores ≠ []) :
    cluOf (modClu d k f s) d k = f (cluOf s d k) :=
  cluOf_modClu d k _ s (clu_ne_default h)

/-- A change of a cluster that keeps its memory, where this holds a byte. -/
theorem mem_modClu {d k : Nat} {f : Cluster → Cluster} {s : State} (hf : ∀ c, (f c).mem = c.mem) (h : (cluOf s d k).mem ≠ []) :
    (cluOf (modClu d k f s) d k).mem = (cluOf s d k).mem := by
  have hne : f (cluOf s d k) ≠ {} := fun e => h ((hf _).symm.trans (congrArg Cluster.mem e))
  exact (congrArg Cluster.mem (cluOf_modClu d k _ s hne)).trans (hf _)

/-- A stopped cluster that goes on keeps its memory. -/
@[simp] theorem cluResume_mem (s : State) (d ref : Nat) (c : Cluster) : (cluResume s d ref c).mem = c.mem := by
  unfold cluResume
  split <;> rfl

/-- The end of a transfer moves no byte of cluster memory. -/
theorem mem_endXfer {d k : Nat} (n idx : Nat) {s : State} (h : (cluOf s d k).mem ≠ []) :
    (cluOf (endXfer d k n idx s) d k).mem = (cluOf s d k).mem := by
  have hcore : ∀ g, (cluOf (modCore d k n g s) d k).mem = (cluOf s d k).mem := fun g => mem_modClu (fun _ => rfl) h
  unfold endXfer freeClu
  split
  · exact hcore _
  · rw [mem_modClu (cluResume_mem _ _ _) (by rwa [hcore]), hcore]

/-! ## The flits of a DMR -/

/-- One flit of a DMR whose unit is not poisoned: the read is counted and its bytes go to cluster memory (R150, R307). -/
def dmrFlit (d k : Nat) (t : Xfer) (s : State) (o : Nat) : State :=
  modClu d k (fun c => { c with mem := memWrite c.mem ((t.caddr + 4 * o) * 64) (readBytes s (t.paddr + o)) }) (countRead (t.paddr + o) s)

/-- Counting a read changes no cluster. -/
@[simp] theorem cluOf_countRead (a d k : Nat) (s : State) : cluOf (countRead a s) d k = cluOf s d k := by
  unfold countRead
  dsimp only
  split <;> rfl

/-- Counting a read poisons nothing. -/
@[simp] theorem poisonOf_countRead (a b : Nat) (s : State) : poisonOf (countRead a s) b = poisonOf s b := by
  unfold countRead
  dsimp only
  split <;> rfl

/-- A flit of a DMR poisons nothing. -/
theorem poisonOf_dmrFlit (d k : Nat) (t : Xfer) (s : State) (o a : Nat) : poisonOf (dmrFlit d k t s o) a = poisonOf s a := by
  rw [dmrFlit, poisonOf_modClu, poisonOf_countRead]

/-- What a flit of a DMR makes of a cluster that has cores. -/
theorem cluOf_dmrFlit {d k : Nat} (t : Xfer) {s : State} (o : Nat) (h : (cluOf s d k).cores ≠ []) :
    cluOf (dmrFlit d k t s o) d k =
      { cluOf s d k with mem := memWrite (cluOf s d k).mem ((t.caddr + 4 * o) * 64) (readBytes s (t.paddr + o)) } := by
  rw [dmrFlit, cluOf_modClu_of_cores (by simpa using h), cluOf_countRead]

/-- A DMR that meets no poisoned unit moves its flits one after another and ends. -/
theorem dmrRest_of_unpoisoned (d k : Nat) (t : Xfer) (l : List Nat) (s : State) (h : ∀ o ∈ l, poisonOf s (t.paddr + o) = 0) :
    dmrRest d k t l s = (l.foldl (dmrFlit d k t) s, true) := by
  induction l generalizing s with
  | nil => rfl
  | cons o l ih =>
    rw [dmrRest, if_pos (h o List.mem_cons_self)]
    refine ih _ fun p hp => ?_
    exact (poisonOf_dmrFlit d k t s o _).trans (h p (List.mem_cons_of_mem o hp))

/-! ## A DMR on a canonical table of stacks -/

section

variable {s : State} (hstk : tabWf {} s.pmem.stk = true)

include hstk

/-- Counting in a stack puts none out. -/
theorem stackLost_stackCount (a b c m i n : Nat) : stackLost (stackCount c m i n s) a b = stackLost s a b := by
  have hget := tabGet_tabPut {} s.pmem.stk (6 * c + m) (6 * a + b)
    { stackOf s c m with cnt := cntInc (stackOf s c m).cnt i n } hstk
  have hstack : stackOf (stackCount c m i n s) a b =
      if 6 * a + b = 6 * c + m then { stackOf s c m with cnt := cntInc (stackOf s c m).cnt i n } else stackOf s a b := hget
  rw [stackLost, stackLost, hstack]
  split
  next hkey => rw [stackOf, stackOf, hkey]
  next => rfl

/-- Counting a read keeps the table canonical and puts no unit beyond recovery. -/
theorem countRead_canonical (a : Nat) :
    tabWf {} (countRead a s).pmem.stk = true ∧ ∀ b, unitGone (countRead a s) b = unitGone s b := by
  have hcount : ∀ c m i, tabWf {} (stackCount c m i 1 s).pmem.stk = true ∧ ∀ b, unitGone (stackCount c m i 1 s) b = unitGone s b := by
    refine fun c m i => ⟨tabWf_tabMod {} s.pmem.stk (6 * c + m) (fun x => { x with cnt := cntInc x.cnt i 1 }) hstk, fun b => ?_⟩
    rw [unitGone, unitGone, stackLost_stackCount hstk]
    rfl
  unfold countRead
  dsimp only
  split <;> exact hcount _ _ _

end

/-- Counting a read changes no byte of panel memory. -/
@[simp] theorem unitBytes_countRead (a b : Nat) (s : State) : unitBytes (countRead a s) b = unitBytes s b := by
  unfold countRead
  dsimp only
  split <;> rfl

/-- Where the table of stacks is canonical and no unit is beyond recovery, a DMR brings its units' bytes to cluster memory (R150). -/
theorem mem_dmrFlits {d k : Nat} {t : Xfer} (l : List Nat) {s : State} (hc : (cluOf s d k).cores ≠ [])
    (hstk : tabWf {} s.pmem.stk = true) (hgone : ∀ o ∈ l, unitGone s (t.paddr + o) = false) :
    (cluOf (l.foldl (dmrFlit d k t) s) d k).mem =
      l.foldl (fun m o => memWrite m ((t.caddr + 4 * o) * 64) (unitBytes s (t.paddr + o))) (cluOf s d k).mem := by
  induction l generalizing s with
  | nil => rfl
  | cons o l ih =>
    have hflit := cluOf_dmrFlit t o hc
    obtain ⟨hwf, hsame⟩ := countRead_canonical hstk (t.paddr + o)
    have hbytes : ∀ b, unitBytes (dmrFlit d k t s o) b = unitBytes s b := fun b => unitBytes_countRead _ b s
    have hread : readBytes s (t.paddr + o) = unitBytes s (t.paddr + o) := by
      rw [readBytes, hgone o List.mem_cons_self, if_neg Bool.false_ne_true]
    have htail := ih (s := dmrFlit d k t s o) (hflit ▸ hc) hwf
      fun p hp => (hsame _).trans (hgone p (List.mem_cons_of_mem o hp))
    simp only [hbytes, hflit, hread] at htail
    exact htail

/-! ## Writes above the first byte -/

/-- A canonical memory that holds a one in its first byte. -/
def Marked (m : Mem) : Prop := Memory.wf m ∧ memGet m 0 = 1

/-- A marked memory holds something. -/
theorem Marked.ne_nil {m : Mem} (h : Marked m) : m ≠ [] := by
  rintro rfl
  exact absurd h.2 (by decide)

/-- A write that does not reach the first byte keeps the mark. -/
theorem Marked.memWrite {m : Mem} {a : Nat} (h : Marked m) (ha : 0 < a) (l : List Byte) : Marked (memWrite m a l) :=
  ⟨memWrite_wf l m a h.1, (memGet_memWrite_out l m a 0 (.inl ha)).trans h.2⟩

/-- Writes of granules above the first keep the mark. -/
theorem Marked.foldl {m : Mem} {g : Nat} (h : Marked m) (hg : 0 < g) (f : Nat → List Byte) (l : List Nat) :
    Marked (l.foldl (fun m o => Machine.memWrite m ((g + 4 * o) * 64) (f o)) m) := by
  induction l generalizing m with
  | nil => exact h
  | cons o l ih => exact ih (h.memWrite (by omega) _)

/-- Flits of a DMR to granules above the first keep the cores of its cluster and the mark of its memory. -/
theorem dmrFlits_marked {d k : Nat} {t : Xfer} (hg : 0 < t.caddr) (l : List Nat) {s : State} (hc : (cluOf s d k).cores ≠ [])
    (hm : Marked (cluOf s d k).mem) :
    (cluOf (l.foldl (dmrFlit d k t) s) d k).cores ≠ [] ∧ Marked (cluOf (l.foldl (dmrFlit d k t) s) d k).mem := by
  induction l generalizing s with
  | nil => exact ⟨hc, hm⟩
  | cons o l ih =>
    have hflit := cluOf_dmrFlit t o hc
    exact ih (hflit ▸ hc) (hflit ▸ hm.memWrite (by omega) _)

/-! ## A stack that goes out by being read -/

/-- A DMR of units 9 to 18 to granules from 1 on.  Units 9 and 18 lie on the stack at course 11 of stripe 0, and no other two of them share
a stack (R302). -/
def tenUnits : Xfer := { kind := .dmr, paddr := 9, caddr := 1, flits := 10 }

/-- Address of the first byte of unit 18. -/
def lastUnit : Nat := 4608

/-- A panel whose table of stacks lists the stack of units 9 and 18 twice: in service, with a read counter that the next read wraps to 0,
and behind that dead.  Its stripe has failed; the first byte of unit 18 is not the one that a read beyond recovery would return.  PANEL_RST_N
is held and a line waits to be announced, so that no duty is carried out. -/
def twiceListed : State :=
  { State.reset with
    boot := { heldRst := true }, rnd := { lines := [0] }
    clus := [(0, { cores := [(0, { xfers := [tenUnits] })], mem := [(0, 1)] })]
    pmem := { data := [(lastUnit, Config.lostByte 0 lastUnit + 1)], stk := [(66, { cnt := [(0, 0xFFFFFFFF)] }), (66, { state := .dead })]
              failed := [0] } }

/-- The panel when the first `n` flits have moved. -/
def flitsMoved (n : Nat) : State := (List.range n).foldl (dmrFlit 0 0 tenUnits) twiceListed

/-- Cluster memory with the bytes that the first `n` units hold before the DMR, as the statement has it. -/
def unitsMoved (n : Nat) : Mem :=
  (List.range n).foldl (fun m o => memWrite m ((1 + 4 * o) * 64) (unitBytes twiceListed (9 + o))) (cluOf twiceListed 0 0).mem

/-- The memory of the DMR's cluster holds a one in its first byte. -/
theorem marked_twiceListed : Marked (cluOf twiceListed 0 0).mem := ⟨by decide +kernel, by decide +kernel⟩

/-- Moving units keeps the mark. -/
theorem marked_unitsMoved (n : Nat) : Marked (unitsMoved n) := marked_twiceListed.foldl Nat.one_pos _ _

/-- Moving flits keeps the cluster's core and the mark of its memory. -/
theorem marked_flitsMoved (n : Nat) : (cluOf (flitsMoved n) 0 0).cores ≠ [] ∧ Marked (cluOf (flitsMoved n) 0 0).mem :=
  dmrFlits_marked (t := tenUnits) Nat.one_pos _ (by decide +kernel) marked_twiceListed

/-- The memory of the statement, unit by unit. -/
theorem unitsMoved_succ (n : Nat) :
    unitsMoved (n + 1) = memWrite (unitsMoved n) ((1 + 4 * n) * 64) (unitBytes twiceListed (9 + n)) := by
  simp only [unitsMoved, List.range_succ, List.foldl_append, List.foldl_cons, List.foldl_nil]

/-- The memory of the cluster, flit by flit. -/
theorem mem_flitsMoved_succ (n : Nat) : (cluOf (flitsMoved (n + 1)) 0 0).mem =
    memWrite (cluOf (flitsMoved n) 0 0).mem ((1 + 4 * n) * 64) (readBytes (flitsMoved n) (9 + n)) := by
  have hflit : flitsMoved (n + 1) = dmrFlit 0 0 tenUnits (flitsMoved n) n := by
    simp only [flitsMoved, List.range_succ, List.foldl_append, List.foldl_cons, List.foldl_nil]
  have hcaddr : tenUnits.caddr = 1 := rfl
  have hpaddr : tenUnits.paddr = 9 := rfl
  rw [hflit, cluOf_dmrFlit _ _ (marked_flitsMoved n).1, hcaddr, hpaddr]

/-- No unit is poisoned. -/
theorem poisonOf_twiceListed (a : Nat) : poisonOf twiceListed a = 0 := rfl

/-- Before the DMR no unit of it is beyond recovery. -/
theorem unitGone_twiceListed : ∀ o, o < 10 → unitGone twiceListed (9 + o) = false := by
  decide +kernel

/-- Once unit 9 has been read, unit 18 is beyond recovery. -/
theorem unitGone_flitsMoved : unitGone (flitsMoved 9) (9 + 9) = true := by
  decide +kernel

/-- The DMR ends with all its flits moved. -/
theorem dmComplete_twiceListed : dmComplete 0 0 0 0 twiceListed = endXfer 0 0 0 0 (flitsMoved 10) := by
  have hd : physOf twiceListed.grid.skip 0 = 0 := by decide +kernel
  have hat : xferAt twiceListed 0 0 0 0 = some tenUnits := by decide +kernel
  have hkind : tenUnits.kind = .dmr := rfl
  have hrest : dmrRest 0 0 tenUnits (restOf tenUnits) twiceListed = (flitsMoved 10, true) :=
    dmrRest_of_unpoisoned 0 0 tenUnits (List.range 10) twiceListed fun o _ => poisonOf_twiceListed (9 + o)
  simp only [dmComplete, hd, hat, hkind, hrest, if_true]

/-- DM_TRANSFER_COMPLETE ends the DMR, and no duty follows. -/
theorem exec_twiceListed : exec (.dmTransferComplete 0 0 0 0) twiceListed = .next (endXfer 0 0 0 0 (flitsMoved 10)) := by
  have hheld : (endXfer 0 0 0 0 (flitsMoved 10)).boot.heldRst = true := by decide +kernel
  calc exec (.dmTransferComplete 0 0 0 0) twiceListed
      = .next (duties (dmComplete 0 0 0 0 twiceListed)) := rfl
    _ = .next (endXfer 0 0 0 0 (flitsMoved 10)) := by rw [dmComplete_twiceListed, duties_of_heldRst hheld]

/-- The first byte of unit 18 comes to cluster memory as a free value. -/
theorem memGet_flitsMoved : memGet (cluOf (flitsMoved 10) 0 0).mem ((1 + 4 * 9) * 64) = Config.lostByte 0 lastUnit := by
  have hfree : (flitsMoved 9).free = 0 := by decide +kernel
  have hbytes : readBytes (flitsMoved 9) (9 + 9) = (List.range 256).map fun i => Config.lostByte 0 (lastUnit + i) := by
    rw [readBytes, unitGone_flitsMoved, hfree, if_pos rfl]
    rfl
  rw [mem_flitsMoved_succ, hbytes]
  exact (memGet_memWrite_in _ _ _ 0 (marked_flitsMoved 9).2.1 (by simp)).trans (by simp)

/-- The statement has there the byte that unit 18 holds. -/
theorem memGet_unitsMoved : memGet (unitsMoved 10) ((1 + 4 * 9) * 64) = Config.lostByte 0 lastUnit + 1 := by
  rw [unitsMoved_succ]
  refine (memGet_memWrite_in _ _ _ 0 (marked_unitsMoved 9).1 (by simp [unitBytes, memRead])).trans ?_
  simp [unitBytes, memRead, memGet, twiceListed, tabGet, lastUnit]

/-- Cluster memory does not end as the statement has it. -/
theorem mem_flitsMoved_ne : (cluOf (flitsMoved 10) 0 0).mem ≠ unitsMoved 10 := by
  intro h
  have hbyte := memGet_flitsMoved
  rw [h, memGet_unitsMoved] at hbyte
  exact absurd hbyte (by simp)

/-- Refutes O17: the clause on a DMR is asked of every state, and in `twiceListed` the DMR's own first read puts its last unit beyond recovery,
so that a free value and not the unit's byte comes to cluster memory.  A table that lists a key twice is not in canonical form (`tabWf`), which
the statement does not ask for; where the table is canonical, `mem_dmrFlits` gives the memory that the clause names. -/
theorem not_transferEnds : ¬ Obligations.TransferEnds := by
  intro h
  have hd : physOf twiceListed.grid.skip 0 = 0 := by decide +kernel
  have hat : xferAt twiceListed (physOf twiceListed.grid.skip 0) 0 0 0 = some tenUnits := by decide +kernel
  obtain ⟨-, -, hdmr, -⟩ := h 0 0 0 0 twiceListed tenUnits rfl hat
  obtain ⟨u, hexec, hmem, -⟩ := hdmr rfl (by decide) fun o _ => poisonOf_twiceListed (9 + o)
  rw [hd] at hexec hmem
  have hu : (cluOf u 0 0).mem = unitsMoved 10 := hmem unitGone_twiceListed
  have hduties : duties (endXfer 0 0 0 0 u) = endXfer 0 0 0 0 (flitsMoved 10) :=
    Host.Outcome.next.inj (hexec.symm.trans exec_twiceListed)
  have hlines : (endXfer 0 0 0 0 (flitsMoved 10)).rnd.lines ≠ [] := by decide +kernel
  have hend : endXfer 0 0 0 0 u = endXfer 0 0 0 0 (flitsMoved 10) :=
    (duties_eq_self_of_lines (hduties ▸ hlines)).symm.trans hduties
  apply mem_flitsMoved_ne
  calc (cluOf (flitsMoved 10) 0 0).mem
      = (cluOf (endXfer 0 0 0 0 (flitsMoved 10)) 0 0).mem := (mem_endXfer 0 0 (marked_flitsMoved 10).2.ne_nil).symm
    _ = (cluOf (endXfer 0 0 0 0 u) 0 0).mem := by rw [hend]
    _ = (cluOf u 0 0).mem := mem_endXfer 0 0 (hu ▸ (marked_unitsMoved 10).ne_nil)
    _ = unitsMoved 10 := hu

end Sys2Proof.Machine
end

section
/-! PROOF. Special codes of MX elements (R48, R49): what the code 0x80 of MXINT8 reads as and why no convert writes it, and the codes of E4M3
and E5M2 that set a flag. -/

namespace Sys2Proof.Machine

open Sys2Proof

/-! ## MXINT8 -/

/-- A two's-complement reading is that of the bit vector. -/
theorem signedOf_eq_toInt (w v : Nat) : signedOf w v = (BitVec.ofNat w v).toInt := by
  rw [signedOf, BitVec.toInt_eq_toNat_cond, BitVec.toNat_ofNat]
  push_cast
  rfl

theorem elemSig_mxint8 (code : Nat) : elemSig .mxint8 code = ((BitVec.ofNat 8 code).toInt, 0) := by
  rw [elemSig, signedOf_eq_toInt]

/-- A converted MXINT8 element has a magnitude of at most 127, with the sign of the value converted (R74). -/
theorem encElem_mxint8_eq (rtz : Bool) (x : Int) (d : Dy) :
    ∃ k : Nat, k ≤ 127 ∧ (encElem .mxint8 rtz x d).1 = (BitVec.ofInt 8 (if d.m < 0 then -(k : Int) else k)).toNat :=
  ⟨min _ 127, Nat.min_le_right _ _, rfl⟩

/-- An integer that eight bits hold reads back from them. -/
theorem toInt_ofInt_eight {v : Int} (hlo : -128 ≤ v) (hhi : v < 128) : (BitVec.ofInt 8 v).toInt = v := by
  rw [BitVec.toInt_ofInt]
  exact Int.bmod_eq_of_le (by omega) (by omega)

theorem neg_le_toInt_encElem_mxint8 (rtz : Bool) (x : Int) (d : Dy) :
    -127 ≤ (BitVec.ofNat 8 (encElem .mxint8 rtz x d).1).toInt := by
  obtain ⟨k, hk, hcode⟩ := encElem_mxint8_eq rtz x d
  rw [hcode, BitVec.ofNat_toNat, BitVec.setWidth_eq]
  split
  · rw [toInt_ofInt_eight (by omega) (by omega)]
    omega
  · rw [toInt_ofInt_eight (by omega) (by omega)]
    omega

/-- No convert of an element writes 0x80 (R48). -/
theorem encElem_mxint8_ne (rtz : Bool) (x : Int) (d : Dy) : (encElem .mxint8 rtz x d).1 ≠ 0x80 := by
  intro h
  have hge := neg_le_toInt_encElem_mxint8 rtz x d
  rw [h] at hge
  exact absurd hge (by decide)

/-- The codes of a block are those of its elements, or all zero. -/
theorem mem_encBlock_codes {fm : ElemFmt} {fit rtz : Bool} {l : List W32} {code : Nat} (h : code ∈ (encBlock fm fit rtz l).2.1) :
    code = 0 ∨ ∃ x d, code = (encElem fm rtz x d).1 := by
  unfold encBlock at h
  dsimp only at h
  split at h
  · obtain ⟨w, -, rfl⟩ := List.mem_map.1 h
    exact .inl rfl
  · obtain ⟨e, he, rfl⟩ := List.mem_map.1 h
    obtain ⟨d, -, rfl⟩ := List.mem_map.1 he
    exact .inr ⟨_, d, rfl⟩

theorem notMem_encBlock_mxint8 (fit rtz : Bool) (l : List W32) : 0x80 ∉ (encBlock .mxint8 fit rtz l).2.1 := by
  intro h
  obtain hzero | ⟨x, d, hcode⟩ := mem_encBlock_codes h
  · exact absurd hzero (by decide)
  · exact encElem_mxint8_ne rtz x d hcode.symm

/-! ## NaN and infinity -/

/-- The NaN codes of E4M3. -/
theorem elemSig_e4m3_nan {code : Nat} (h : code % 128 = 0x7F) : elemSig .e4m3 code = (0, flagIv) := if_pos h

/-- The NaN codes of E5M2. -/
theorem elemSig_e5m2_nan {code : Nat} (hexp : bitsOf code 6 2 = 31) (hman : bitsOf code 1 0 ≠ 0) :
    elemSig .e5m2 code = (0, flagIv) := by
  rw [elemSig, if_pos hexp, if_neg hman]

/-- Only the codes with the largest exponent of E5M2 and the NaN codes of E4M3 set a flag. -/
theorem elemSig_flags {fm : ElemFmt} {code : Nat} (h : (elemSig fm code).2 ≠ 0) :
    fm = .e4m3 ∧ code % 128 = 0x7F ∨ fm = .e5m2 ∧ 0x7C ≤ code % 128 := by
  cases fm with
  | e4m3 =>
    refine .inl ⟨rfl, ?_⟩
    by_contra hnan
    exact h (by rw [elemSig, if_neg hnan])
  | e5m2 =>
    refine .inr ⟨rfl, ?_⟩
    by_cases hexp : bitsOf code 6 2 = 31
    · simp only [bitsOf] at hexp
      omega
    · exact absurd (by rw [elemSig, if_neg hexp]) h
  | e2m1 | e2m3 | e3m2 | mxint8 | t5 => exact absurd rfl h

/-- Settles O6: MXINT8 codes are two's-complement and converts clip at 127; the flags follow from the exponent and mantissa of the code. -/
theorem specialElements : Obligations.SpecialElements := by
  have hnan4 : ∀ code ∈ [0x7F, 0xFF], code % 128 = 0x7F := by decide
  have hnan5 : ∀ code ∈ [0x7D, 0x7E, 0x7F, 0xFD, 0xFE, 0xFF], bitsOf code 6 2 = 31 ∧ bitsOf code 1 0 ≠ 0 := by decide
  refine ⟨⟨rfl, fun code _ => elemSig_mxint8 code, rfl⟩, neg_le_toInt_encElem_mxint8, notMem_encBlock_mxint8,
    fun code h => elemSig_e4m3_nan (hnan4 code h), fun code h => elemSig_e5m2_nan (hnan5 code h).1 (hnan5 code h).2, rfl, rfl, rfl,
    rfl, rfl, rfl, rfl, rfl, fun fm code _ h => elemSig_flags h⟩

end Sys2Proof.Machine
end

section
/-! PROOF. CVT between registers and cluster memory (R72, R74, R143, R144): one lemma for each form of CVT that passes its window and bank checks,
and what follows the last read of the two forms that read over three cycles. -/

namespace Sys2Proof.Machine

open Sys2Proof

/-! ## Issue on a busy vector unit -/

/-- A cluster whose issuing core has been occupied holds this core. -/
theorem cores_vecOccupy {x : Ctx} {c : Cluster} (h : (cluCore c x.sc).last ≠ none) (n : Nat) : (vecOccupy x n c).cores ≠ [] :=
  cores_cluSetCore _ _ _ fun e => h (congrArg Core.last e)

/-- A result in flight changes no core. -/
@[simp] theorem vecOut_cores (x : Ctx) (lat dst : Nat) (l : List (Nat × W32)) (fl : Flags) (c : Cluster) :
    (vecOut x lat dst l fl c).cores = c.cores := rfl

/-- A gathering micro-op changes no core when it issues. -/
@[simp] theorem cluGather_cores (now : Nat) (op : GatherOp) (l : List Piece) (c : Cluster) : (cluGather now op l c).cores = c.cores := by
  unfold cluGather
  split <;> rfl

/-- CVT that is placed and raises no fault leaves the cluster that its operation leaves. -/
theorem exec_cvt {i : Issue} {f : VecF} {s : State} {c : Cluster} (h : issues i s = true) (hp : placed i (.vec .cvt f) s)
    (hop : opCvt (issueCtx i s) f (movedOn i s) = (c, [])) (hc : c.cores ≠ []) : exec (.cvt i f) s = .next (withIssue i c s) := by
  obtain ⟨hwf, hstored⟩ := hp
  have hexec := exec_uopCommand i (.vec .cvt f) s
  rw [hwf, uopAct, issueUop_onCluster (op := vecEffect .cvt f) h hstored hop hc] at hexec
  exact hexec

/-- A cluster on which CVT has occupied the vector unit of the issuing core. -/
theorem cores_cvtBusy (i : Issue) (s : State) (n : Nat) (cl : List (Nat × Nat × Nat)) :
    (vecOccupy (issueCtx i s) n { movedOn i s with claims := cl }).cores ≠ [] := by
  refine cores_vecOccupy ?_ n
  have hlast : (cluCore (movedOn i s) i.sc).last = some (issueNow i s) := movedCore_last i s
  exact fun e => Option.some_ne_none _ (hlast.symm.trans e)

/-! ## The forms of CVT that touch memory (R143) -/

section

variable {x : Ctx} {f : VecF} {c : Cluster} {cl : List (Nat × Nat × Nat)}

/-- The form of a CVT on a free vector unit, by its source and destination codes. -/
theorem opCvt_of_free (h : vecGate x c = none) :
    opCvt x f c =
      if f.func.toNat / 16 = 13 then (if f.func.toNat % 16 = 13 then cvtMerge x f c else cvtFromAcc x f c)
      else if f.func.toNat / 16 = 12 then cvtFromT5 x f c
      else if 6 ≤ f.func.toNat / 16 then cvtFromMx x f c (cvtMx (f.func.toNat / 16))
      else if 6 ≤ f.func.toNat % 16 then cvtToMx x f c (cvtMx (f.func.toNat % 16))
      else cvtReg x f c (f.func.toNat / 16) (f.func.toNat % 16) := by
  simp only [opCvt, h]

/-- The 768 bytes of an ACC56 form are read in three pieces of four granules. -/
theorem piecesOf_accSpan (a : Nat) : piecesOf a accSpan 256 = (List.range 3).map fun j => (a + j * 256, 256) := rfl

/-- CVT from an MX format whose bytes can be read. -/
theorem cvtFromMx_of_claimed (fm : ElemFmt) :
    let k := cluCore c x.sc
    let ea := mxElems k f (elemW fm)
    let sa := (f.imm + 2 * coreIdx k f.ixa.toNat).toNat
    let eb := ceilDiv (vecN f * elemW fm) 8
    let sb := ceilDiv (vecN f) 32
    bytesOk k false ea eb = true → bytesOk k false sa sb = true →
    claimAll x.sc ((granulesOf ea eb ++ granulesOf sa sb).map fun g => (x.now, g)) c.claims = .inl cl →
    let sc := memRead c.mem sa sb
    let r := vecMap f fun l => mxTo32 fm ((sc.drop (l / 32)).headD 0) (packedElem (elemW fm) (memRead c.mem ea eb) l)
    cvtFromMx x f c fm = (vecOut x 8 f.dst.toNat r.1 (r.2 ||| flagsUnion (sc.map fun b => flagIf (b == 0xFF) flagIv))
      (vecOccupy x 1 { c with claims := cl }), []) := by
  intro k ea sa eb sb he hs hcl
  simp +zetaDelta only at he hs hcl
  simp +zetaDelta only [cvtFromMx, he, hs, hcl, Bool.not_true, Bool.false_eq_true, if_false]

/-- CVT from T5 whose bytes can be read. -/
theorem cvtFromT5_of_claimed :
    let k := cluCore c x.sc
    let e0 := 64 * (coreIdx k f.ixa.toNat).toNat
    let ba := f.maddr.toNat * 64
    let ea := ba + t5ElemOff e0
    let eb := t5ElemOff (e0 + vecN f - 1) + 1 - t5ElemOff e0
    let ta := ba + e0 / 65536 * 14132 + 13108 + e0 % 65536 / 64
    bytesOk k false ea eb = true → bytesOk k false ta 1 = true →
    claimAll x.sc ((granulesOf ea eb ++ granulesOf ta 1).map fun g => (x.now, g)) c.claims = .inl cl →
    let r := vecMap f fun l => t5To32 (memGet c.mem ta) (memGet c.mem (ba + t5ElemOff (e0 + l))) ((e0 + l) % 65536 % 5)
    cvtFromT5 x f c = (vecOut x 8 f.dst.toNat r.1 (r.2 ||| (flagIf (memGet c.mem ta == 0xFF) flagIv |||
      flagsUnion ((memRead c.mem ea eb).map fun b => flagIf (!t5Valid b) flagIv))) (vecOccupy x 1 { c with claims := cl }), []) := by
  intro k e0 ba ea eb ta he ht hcl
  simp +zetaDelta only at he ht hcl
  simp +zetaDelta only [cvtFromT5, he, ht, hcl, Bool.not_true, Bool.false_eq_true, if_false]

/-- CVT from ACC56 whose bytes can be read. -/
theorem cvtFromAcc_of_claimed :
    let ga := vecAddr (cluCore c x.sc) f
    bytesOk (cluCore c x.sc) false (ga * 64) accSpan = true →
    claimAll x.sc (byCycle x.now 4 (granulesOf (ga * 64) accSpan)) c.claims = .inl cl →
    cvtFromAcc x f c = (cluGather x.now (.acc32 x.sc f.dst.toNat (vecN f) f.rnd)
      ((List.range 3).map fun j => ((ga * 64 + j * 256, 256), (0, 0))) (vecOccupy x 3 { c with claims := cl }), []) := by
  intro ga hb hcl
  simp +zetaDelta only at hb hcl
  simp +zetaDelta only [cvtFromAcc, hb, hcl, Bool.not_true, Bool.false_eq_true, if_false, piecesOf_accSpan, List.map_map]
  rfl

/-- CVT to an MX format whose bytes can be written. -/
theorem cvtToMx_of_claimed (fm : ElemFmt) :
    let k := cluCore c x.sc
    let ea := mxElems k f (elemW fm)
    let sa := (f.imm + 2 * coreIdx k f.ixa.toNat).toNat
    let nb := ceilDiv (vecN f) 32
    bytesOk k true ea (nb * 4 * elemW fm) = true → bytesOk k true sa nb = true →
    claimAll x.sc ((granulesOf ea (nb * 4 * elemW fm) ++ granulesOf sa nb).map fun g => (x.now + 7, g)) c.claims = .inl cl →
    let bl := (List.range nb).map fun b => encBlock fm f.mod f.rnd ((List.range 32).map fun l => vecA k f (32 * b + l))
    cvtToMx x f c fm = (cluPend (vecOccupy x 1 { c with claims := cl }) [
      { cycle := x.now + 8, eff := .flags 0 (flagsUnion (bl.map fun b => b.2.2)) },
      { cycle := x.now + 8, eff := .mem (cellsAt ea (bl.flatMap fun b => packElems (elemW fm) b.2.1) ++
          cellsAt sa (bl.map fun b => b.1)) }], []) := by
  intro k ea sa nb he hs hcl
  simp +zetaDelta only at he hs hcl
  simp +zetaDelta only [cvtToMx, he, hs, hcl, Bool.not_true, Bool.false_eq_true, if_false]

/-- The merge of two ACC56 forms whose bytes can be read and written. -/
theorem cvtMerge_of_claimed :
    let k := cluCore c x.sc
    let ga := ixAdd f.maddr.toNat (coreIdx k f.ixa.toNat)
    let gb := ixAdd f.imm.toNat (coreIdx k f.ixa.toNat)
    bytesOk k false (ga * 64) accSpan = true → bytesOk k true (ga * 64) accSpan = true → bytesOk k false (gb * 64) accSpan = true →
    claimAll x.sc (byCycle x.now 4 (granulesOf (ga * 64) accSpan) ++ byCycle x.now 4 (granulesOf (gb * 64) accSpan) ++
      byCycle (x.now + 10) 4 (granulesOf (ga * 64) accSpan)) c.claims = .inl cl →
    cvtMerge x f c = (cluGather x.now (.merge (ga * 64) (vecN f))
      ((List.range 3).map fun j => ((ga * 64 + j * 256, 256), (gb * 64 + j * 256, 256))) (vecOccupy x 3 { c with claims := cl }), []) := by
  intro k ga gb hra hwa hrb hcl
  simp +zetaDelta only at hra hwa hrb hcl
  simp +zetaDelta only [cvtMerge, hra, hwa, hrb, hcl, Bool.and_self, Bool.not_true, Bool.false_eq_true, if_false, piecesOf_accSpan, List.zip_map']

end

/-! ## After the last read (R143, R144) -/

/-- The lanes of an ACC56 source and their flags come eight cycles after the last read. -/
theorem gatherEnd_acc32 (t core dst n : Nat) (rtz : Bool) (a b : List Byte) :
    let r := (List.range n).map fun j => accTo32 rtz (accOfBytes ((a.drop (12 * j)).take 12))
    gatherEnd t (.acc32 core dst n rtz) a b = [{ cycle := t + 8, eff := .flags 0 (flagsUnion (r.map Prod.snd)) },
      { cycle := t + 8, eff := .lanes core dst (r.zipIdx.map fun p => (p.2, p.1.1)) }] := by
  simp only [gatherEnd, accsOf, List.map_map]
  rfl

/-- The steps of a merge, value by value. -/
theorem mergeSteps_eq (n : Nat) (a b : List Byte) :
    mergeSteps n a b = (List.range n).map fun j =>
      accStep (accOfBytes ((a.drop (12 * j)).take 12)) (accOfBytes ((b.drop (12 * j)).take 12)) := by
  simp only [mergeSteps, accsOf, List.zip_map', List.map_map]
  rfl

/-- The flags of a merge come nine to eleven cycles after the last read, its values eleven. -/
theorem gatherEnd_merge (t dst n : Nat) (a b : List Byte) :
    let st := (List.range n).map fun j =>
      accStep (accOfBytes ((a.drop (12 * j)).take 12)) (accOfBytes ((b.drop (12 * j)).take 12))
    let fl := fun q => flagsUnion ((st.zipIdx.filter fun p => (12 * p.2 + 11) / 256 == q).map fun p => p.1.2)
    gatherEnd t (.merge dst n) a b = [{ cycle := t + 9, eff := .flags (fl 0) 0 }, { cycle := t + 10, eff := .flags (fl 1) 0 },
      { cycle := t + 11, eff := .flags (fl 2) 0 }, { cycle := t + 11, eff := .mem (cellsAt dst (st.flatMap fun x => accBytes x.1)) }] := by
  simp only [gatherEnd, mergeSteps_eq]

/-- Settles O12: on a free vector unit the source and destination codes select the form, and the form's checks pass. -/
theorem convertMemory : Obligations.ConvertMemory := by
  intro i f s h hp x c k n src dst j sa busy claims byQuad hgate
  have hform := opCvt_of_free (f := f) hgate
  refine ⟨?fromMx, ?fromT5, ?fromAcc, ?toMx, ?merge⟩
  case fromMx =>
    intro hlo hhi w ea eb sb he hs cl hcl
    rw [if_neg (by omega), if_neg (by omega), if_pos hlo] at hform
    exact exec_cvt h hp (hform.trans (cvtFromMx_of_claimed _ he hs hcl)) (cores_cvtBusy i s 1 cl)
  case fromT5 =>
    intro hsrc e0 ba ea eb ta he ht cl hcl
    rw [if_neg (by omega), if_pos hsrc] at hform
    exact exec_cvt h hp (hform.trans (cvtFromT5_of_claimed he ht hcl)) (cores_cvtBusy i s 1 cl)
  case fromAcc =>
    intro hsrc hdst ga op hb cl hcl
    rw [if_pos hsrc, if_neg hdst] at hform
    exact ⟨exec_cvt h hp (hform.trans (cvtFromAcc_of_claimed hb hcl)) (cores_cvtBusy i s 3 cl),
      fun t l => gatherEnd_acc32 t _ _ _ _ l []⟩
  case toMx =>
    intro hsrc hdst fm ea nb he hs cl hcl
    rw [if_neg (by omega), if_neg (by omega), if_neg (by omega), if_pos hdst] at hform
    exact exec_cvt h hp (hform.trans (cvtToMx_of_claimed _ he hs hcl)) (cores_cvtBusy i s 1 cl)
  case merge =>
    intro hsrc hdst ga gb op hra hwa hrb cl hcl
    rw [if_pos hsrc, if_pos hdst] at hform
    exact ⟨exec_cvt h hp (hform.trans (cvtMerge_of_claimed hra hwa hrb hcl)) (cores_cvtBusy i s 3 cl),
      fun t l m => gatherEnd_merge t _ _ l m⟩

end Sys2Proof.Machine
end

section
/-! PROOF. Mailbox commands that reset, retire and clear (R81, R297, R440, R442, R445, R447, R476, R478): the fields of a parameter area read
back, and each command's body is taken at the case that its parameters and the panel's state select. -/

namespace Sys2Proof.Machine

open Sys2Proof

/-! ## Fields of the parameter area (R408) -/

/-- Bytes laid over a list within its bounds leave its length. -/
theorem length_overlay {l src : List Byte} {o : Nat} (h : o + src.length ≤ l.length) : (overlay l o src).length = l.length := by
  simp only [overlay, List.length_append, List.length_take, List.length_drop]
  omega

/-- A number that ends before the bytes laid over a list reads as before. -/
theorem leAt_overlay_before {l : List Byte} (src : List Byte) {o a n : Nat} (h : a + n ≤ o) (ho : o ≤ l.length) :
    leAt (overlay l o src) a n = leAt l a n := by
  have hlen : a + n ≤ (l.take o).length := by rwa [List.length_take_of_le ho]
  have htake : (overlay l o src).take (a + n) = l.take (a + n) := by
    rw [overlay, List.append_assoc, List.take_append_of_le_length hlen, List.take_take, Nat.min_eq_left h]
  simp only [leAt, List.take_drop, htake]

/-- A number laid over a list within its bounds reads back. -/
theorem leAt_overlay_natLe {l : List Byte} {o n : Nat} (v : Nat) (h : o + n ≤ l.length) :
    leAt (overlay l o (natLe n v)) o n = v % 256 ^ n := by
  have hall : (natLe n v).take (l.length - o) = natLe n v := List.take_of_length_le (by rw [length_natLe]; omega)
  have hhead : (l.take o).length = o := List.length_take_of_le (by omega)
  have hdrop : (overlay l o (natLe n v)).drop o = natLe n v ++ l.drop (o + n) := by
    rw [overlay, hall, List.append_assoc, List.drop_left' hhead, length_natLe]
  rw [leAt, hdrop, List.take_left' (length_natLe n v), leNat_natLe]

/-- The last field is laid over those before it. -/
theorem fieldsAt_concat (l : List (Nat × List Byte)) (p : Nat × List Byte) : fieldsAt (l ++ [p]) = overlay (fieldsAt l) p.1 p.2 :=
  List.foldl_concat ..

/-- Fields within the parameter area leave its length. -/
theorem length_fieldsAt {l : List (Nat × List Byte)} (h : ∀ p ∈ l, p.1 + p.2.length ≤ 224) : (fieldsAt l).length = 224 := by
  induction l using List.reverseRecOn with
  | nil => exact List.length_replicate
  | append_singleton l p ih =>
    have hl := ih fun r hr => h r (List.mem_append_left _ hr)
    have hp := h p (List.mem_append_right _ (List.mem_singleton_self p))
    rw [fieldsAt_concat, length_overlay (hp.trans_eq hl.symm), hl]

/-- A field reads back where the fields stand in order, one after another, within the parameter area. -/
theorem leAt_fieldsAt {l : List (Nat × List Byte)} {o n v : Nat} (hmem : (o, natLe n v) ∈ l)
    (hord : l.Pairwise fun p r => p.1 + p.2.length ≤ r.1) (hfit : ∀ p ∈ l, p.1 + p.2.length ≤ 224) :
    leAt (fieldsAt l) o n = v % 256 ^ n := by
  induction l using List.reverseRecOn with
  | nil => cases hmem
  | append_singleton l p ih =>
    have hl : ∀ r ∈ l, r.1 + r.2.length ≤ 224 := fun r hr => hfit r (List.mem_append_left _ hr)
    have hp := hfit p (List.mem_append_right _ (List.mem_singleton_self p))
    have hlen := length_fieldsAt hl
    obtain ⟨hordl, -, hlast⟩ := List.pairwise_append.1 hord
    rw [fieldsAt_concat]
    obtain hmem | hmem := List.mem_append.1 hmem
    · have hbefore := hlast _ hmem p (List.mem_singleton_self p)
      rw [length_natLe] at hbefore
      rw [leAt_overlay_before _ hbefore (by omega), ih hmem hordl hl]
    · obtain rfl := List.mem_singleton.1 hmem
      rw [length_natLe] at hp
      exact leAt_overlay_natLe v (hp.trans_eq hlen.symm)

/-- A parameter that stands in the parameter area reads back. -/
theorem par_params {l : List (Nat × List Byte)} {o n v : Nat} (hmem : (o, natLe n v) ∈ l)
    (hord : l.Pairwise fun p r => p.1 + p.2.length ≤ r.1) (hfit : ∀ p ∈ l, p.1 + p.2.length ≤ 224) (hv : v < 2 ^ (8 * n)) :
    par (params l) o n = v := by
  have hlen := length_fieldsAt hfit
  have hpow : 2 ^ (8 * n) = 256 ^ n := pow_mul 2 8 n
  rw [par, params, fitBytes, hlen, Nat.sub_self, List.replicate_zero, List.append_nil, List.take_of_length_le (Nat.le_of_eq hlen),
    leAt_fieldsAt hmem hord hfit, Nat.mod_eq_of_lt (hv.trans_eq hpow)]

/-! ## Accepted commands that may wait -/

/-- An accepted command does what its body does in the state in which it is taken up; then follow the panel's own duties. -/
theorem exec_of_body {op : Nat} {q : MbReq} {l : List (Nat × List Byte)} {c : Instr} {body : MbReq → List Byte → State → State}
    {s u : State} (hexec : exec c s = done (fnOk q.fn) (request op q l s)) (hbody : runBody op = body) (hpos : 0 < op) (h : op < 2 ^ 16)
    (hfn : fnOk q.fn = true) (ha : accepted op q l s) (hleft : body q (params l) (takenUp op q l s) = u) :
    exec c s = .next (duties u) := by
  rw [hexec, hfn, request_of_accepted hpos h ha, hbody, hleft]
  rfl

/-! ## What take-up leaves as it was -/

/-- What does not look at the functions, at the functions served last, or at health is the same after take-up. -/
theorem apply_takenUp {α : Type} (f : State → α) (op : Nat) (q : MbReq) (l : List (Nat × List Byte)) (s : State)
    (h : ∀ fns served hlt, f { s with fns := fns, served := served, hlt := hlt } = f s) : f (takenUp op q l s) = f s := h _ _ _

section

variable (op : Nat) (q : MbReq) (l : List (Nat × List Byte)) (s : State)

@[simp] theorem dieLive_takenUp (d : Nat) : dieLive (takenUp op q l s) d = dieLive s d :=
  apply_takenUp (dieLive · d) op q l s fun _ _ _ => rfl

@[simp] theorem freeSpare_takenUp (w : Nat) : freeSpare (takenUp op q l s) w = freeSpare s w :=
  apply_takenUp (freeSpare · w) op q l s fun _ _ _ => rfl

@[simp] theorem linkOf_takenUp (d p : Nat) : linkOf (takenUp op q l s) d p = linkOf s d p :=
  apply_takenUp (linkOf · d p) op q l s fun _ _ _ => rfl

@[simp] theorem reportsOnly_takenUp (d p : Nat) : reportsOnly (takenUp op q l s) d p = reportsOnly s d p :=
  apply_takenUp (reportsOnly · d p) op q l s fun _ _ _ => rfl

@[simp] theorem free_takenUp : (takenUp op q l s).free = s.free := apply_takenUp State.free op q l s fun _ _ _ => rfl

@[simp] theorem epochNow_takenUp : epochNow (takenUp op q l s) = epochNow s := apply_takenUp epochNow op q l s fun _ _ _ => rfl

@[simp] theorem stitchNow_takenUp : stitchNow (takenUp op q l s) = stitchNow s := apply_takenUp stitchNow op q l s fun _ _ _ => rfl

end

/-! ## FLAGS_CLEAR (R81, R442) -/

section

variable (q : MbReq) {p : List Byte} {s : State} {mask : Byte} (hmask : par p 0 1 = mask.toNat)

include hmask

/-- The mask of FLAGS_CLEAR is its parameter. -/
theorem ofNat_par_of_byte : BitVec.ofNat 8 (par p 0 1) = mask := by
  rw [hmask, BitVec.ofNat_toNat, BitVec.setWidth_eq]

/-- FLAGS_CLEAR while a pattern runs. -/
theorem flagsClearCmd_running (h : s.pat.running.isSome = true) : flagsClearCmd q p s = hold q (.flagsClear mask) s := by
  rw [flagsClearCmd, if_pos h, ofNat_par_of_byte hmask]

/-- FLAGS_CLEAR with no pattern running. -/
theorem flagsClearCmd_idle (h : s.pat.running = none) :
    flagsClearCmd q p s = respond 0x56 q (flagsRsp s.rnd.panelFlags 0) (clearFlags mask s) := by
  rw [flagsClearCmd, h, Option.isSome_none, if_neg Bool.false_ne_true, ofNat_par_of_byte hmask]

end

/-! ## SITE_RETIRE (R440) -/

section

variable (q : MbReq) {p : List Byte} {s : State} {c w : Nat} (hcourse : par p 0 1 = c) (hwale : par p 1 1 = w) (hc : c ≤ 11) (hw : w ≤ 11)
  (hbound : s.boot.bound = false)

include hcourse hwale hc hw hbound

/-- SITE_RETIRE that names a site, while the panel is not bound off. -/
theorem siteRetireCmd_of_site :
    siteRetireCmd q p s =
      if s.grid.retired.contains (siteDie c w) then respond 0x53 q (okRsp [(0, natLe 1 (skipOf s.grid.skip w))]) s
      else if skipOf s.grid.skip w = c then
        respond 0x53 q (okRsp [(0, natLe 1 (skipOf s.grid.skip w))]) (disableLinks (siteDie c w) (markRetired (siteDie c w) s))
      else if dieLive s (siteDie c w) && freeSpare s w then hold q (.retire (siteDie c w)) (plan (siteDie c w) 8 s)
      else respond 0x53 q (rspRefused 0xB w) s := by
  simp only [siteRetireCmd, hcourse, hwale, hbound, if_neg (Nat.not_lt.2 hc), if_neg (Nat.not_lt.2 hw), Bool.false_eq_true, if_false]

/-- SITE_RETIRE of a retired site. -/
theorem siteRetireCmd_retired (h : s.grid.retired.contains (siteDie c w) = true) :
    siteRetireCmd q p s = respond 0x53 q (okRsp [(0, natLe 1 (skipOf s.grid.skip w))]) s := by
  rw [siteRetireCmd_of_site q hcourse hwale hc hw hbound, if_pos h]

/-- SITE_RETIRE of a spare. -/
theorem siteRetireCmd_spare (h : s.grid.retired.contains (siteDie c w) = false) (hskip : skipOf s.grid.skip w = c) :
    siteRetireCmd q p s =
      respond 0x53 q (okRsp [(0, natLe 1 (skipOf s.grid.skip w))]) (disableLinks (siteDie c w) (markRetired (siteDie c w) s)) := by
  rw [siteRetireCmd_of_site q hcourse hwale hc hw hbound, if_neg (Bool.eq_false_iff.1 h), if_pos hskip]

/-- SITE_RETIRE of a live site whose wale has a spare. -/
theorem siteRetireCmd_live (h : s.grid.retired.contains (siteDie c w) = false) (hskip : skipOf s.grid.skip w ≠ c)
    (hlive : dieLive s (siteDie c w) = true) (hspare : freeSpare s w = true) :
    siteRetireCmd q p s = hold q (.retire (siteDie c w)) (plan (siteDie c w) 8 s) := by
  rw [siteRetireCmd_of_site q hcourse hwale hc hw hbound, if_neg (Bool.eq_false_iff.1 h), if_neg hskip, hlive, hspare, Bool.and_self,
    if_pos rfl]

end

/-! ## RESET_WARM (R445) -/

theorem le_warmDelay (s : State) : 391 ≤ warmDelay s := Nat.le_add_right _ _

/-- RESET_WARM answers the stitch of the reset in the time that the panel showed before take-up. -/
theorem resetWarmCmd_eq (q : MbReq) (p : List Byte) {s t : State} (hepoch : epochNow t = epochNow s) (hstitch : stitchNow t = stitchNow s)
    (hfree : t.free = s.free) :
    resetWarmCmd q p t = respond 0x81 q (okRsp [(0, natLe 8 (epochNow s ++ (stitchNow s + BitVec.ofNat 48 (warmDelay t))).toNat)])
      { t with free := s.free + 1, boot := { t.boot with warmDue := true } } := by
  rw [← hepoch, ← hstitch, ← hfree]
  rfl

/-! ## BIND_OFF (R445, R478) -/

/-- BIND_OFF in service. -/
theorem bindOffCmd_begins (q : MbReq) {p : List Byte} {s : State} {round sess : Nat} (hround : par p 0 1 = round) (hsess : par p 1 1 = sess)
    (hr : round ≤ 1) (hs : sess ≤ 1) (hstate : s.boot.pstate ≠ 7) (hbound : s.boot.bound = false) :
    bindOffCmd q p s = beginBind round sess (hold q .bindOff s) := by
  simp only [bindOffCmd, hround, hsess, hbound, if_neg (Nat.not_lt.2 hr), if_neg (Nat.not_lt.2 hs), if_neg hstate, Bool.false_eq_true,
    if_false]

/-! ## LINK_RETRAIN (R297, R447) -/

/-- The response of LINK_RETRAIN in the state that it leaves: the link's status word. -/
def linkReport (d p : Nat) (u : State) : Rsp × State := (okRsp [(0, natLe 4 (linkWord u d p (linkOf u d p)))], u)

section

variable (q : MbReq) {l : List Byte} {s : State} {d p form : Nat} (hdie : par l 0 2 = d) (hport : par l 2 1 = p) (hform : par l 3 1 = form)
  (hok : portOk d p = true) (hbound : s.boot.bound = true → computeEnd d p = false)

include hdie hport hform hok hbound

/-- LINK_RETRAIN of a link whose state its form accepts, by its form. -/
theorem linkRetrainImm_passes (hle : form ≤ 1)
    (hquick : form = 0 → (linkOf s d p).state = .axust ∨ (linkOf s d p).state = .raw ∨ (linkOf s d p).state = .retraining)
    (hfull : form = 1 → (linkOf s d p).state ≠ .axust ∧ (linkOf s d p).state ≠ .raw ∨ s.pat.running = none) :
    linkRetrainImm q l s =
      if form = 0 then
        linkReport d p (runLadder d p 1 q.env.ladder {} (if (linkOf s d p).state = .retraining then
          modLink d p (fun x => { x with cnt := cntInc x.cnt (if leads d p then 10 else 21) }) s else s))
      else if reportsOnly s d p then
        (okRsp [(0, natLe 4 (linkWord s d p { trained q.env.ladder s d p with state := .disabled }))], s)
      else linkReport d p (fullTrain q.env.ladder d p s) := by
  obtain ⟨⟨hd, -⟩, hpeer⟩ : (d < numDies ∧ p < 6) ∧ (peer d p).isSome = true := by
    simpa only [portOk, dieOk, Bool.and_eq_true, decide_eq_true_eq] using hok
  simp only [linkRetrainImm, hdie, hport, hform]
  refine checked_pass _ _ fun c hc => ?_
  simp only [List.mem_cons, List.not_mem_nil, or_false] at hc
  obtain rfl | rfl | rfl | rfl | rfl | rfl := hc
  · exact decide_eq_false (Nat.not_le.2 hd)
  · simpa using hpeer
  · exact decide_eq_false (Nat.not_lt.2 hle)
  · simpa using hbound
  · simp only [Bool.and_eq_false_iff, beq_eq_false_iff_ne, bne_eq_false_iff_eq]
    tauto
  · simp only [Bool.and_eq_false_iff, Bool.or_eq_false_iff, beq_eq_false_iff_ne, Option.isSome_eq_false_iff, Option.isNone_iff_eq_none]
    tauto

/-- The quick form on a link in service. -/
theorem linkRetrainImm_quick (h0 : form = 0) (hst : (linkOf s d p).state = .axust ∨ (linkOf s d p).state = .raw) :
    linkRetrainImm q l s = linkReport d p (runLadder d p 1 q.env.ladder {} s) := by
  have hnot : (linkOf s d p).state ≠ .retraining := fun h => by simp [h] at hst
  rw [linkRetrainImm_passes q hdie hport hform hok hbound (by omega) (fun _ => hst.imp_right .inl) (by omega), if_pos h0, if_neg hnot]

/-- The quick form on a link whose retraining is in progress joins it. -/
theorem linkRetrainImm_joins (h0 : form = 0) (hst : (linkOf s d p).state = .retraining) :
    linkRetrainImm q l s = linkReport d p (runLadder d p 1 q.env.ladder {}
      (modLink d p (fun x => { x with cnt := cntInc x.cnt (if leads d p then 10 else 21) }) s)) := by
  rw [linkRetrainImm_passes q hdie hport hform hok hbound (by omega) (fun _ => .inr (.inr hst)) (by omega), if_pos h0, if_pos hst]

/-- The full form trains the link. -/
theorem linkRetrainImm_full (h1 : form = 1) (hst : (linkOf s d p).state ≠ .axust ∧ (linkOf s d p).state ≠ .raw ∨ s.pat.running = none)
    (honly : reportsOnly s d p = false) : linkRetrainImm q l s = linkReport d p (fullTrain q.env.ladder d p s) := by
  rw [linkRetrainImm_passes q hdie hport hform hok hbound (by omega) (by omega) (fun _ => hst), if_neg (by omega),
    if_neg (Bool.eq_false_iff.1 honly)]

/-- The full form on a retired die's disabled link leaves the panel as it is. -/
theorem linkRetrainImm_reports (h1 : form = 1) (honly : reportsOnly s d p = true) :
    linkRetrainImm q l s = (okRsp [(0, natLe 4 (linkWord s d p { trained q.env.ladder s d p with state := .disabled }))], s) := by
  have hst : (linkOf s d p).state = .disabled := by
    simp only [reportsOnly, Bool.and_eq_true, beq_iff_eq] at honly
    exact honly.1
  rw [linkRetrainImm_passes q hdie hport hform hok hbound (by omega) (by omega) (fun _ => .inl (by simp [hst])), if_neg (by omega),
    if_pos honly]

end

/-- Settles O28: each command is its body in the state in which it is taken up, at the case that its parameters select. -/
theorem mailboxResets : Obligations.MailboxResets := by
  intro q s hfn
  refine ⟨?flagsClear, ?siteRetire, ?resetFabric, ?resetWarm, ?bindOff, ?linkRetrain⟩
  case flagsClear =>
    intro mask l t ha
    have hmask : par (params l) 0 1 = mask.toNat := par_params (by simp [l]) (by simp [l]) (by simp [l]) mask.isLt
    refine ⟨fun hrun => exec_of_body (body := flagsClearCmd) rfl rfl (by omega) (by omega) hfn ha ?_,
      fun hrun => exec_of_body (body := flagsClearCmd) rfl rfl (by omega) (by omega) hfn ha ?_⟩
    · exact flagsClearCmd_running q (s := t) hmask hrun
    · exact flagsClearCmd_idle q (s := t) hmask hrun
  case siteRetire =>
    intro course wale l t d k ha hc hw hbound
    have hcourse : par (params l) 0 1 = course.toNat := par_params (by simp [l]) (by simp [l]) (by simp [l]) course.isLt
    have hwale : par (params l) 1 1 = wale.toNat := par_params (by simp [l]) (by simp [l]) (by simp [l]) wale.isLt
    refine ⟨fun hret => exec_of_body (body := siteRetireCmd) rfl rfl (by omega) (by omega) hfn ha ?_,
      fun hret hspare => exec_of_body (body := siteRetireCmd) rfl rfl (by omega) (by omega) hfn ha ?_,
      fun hret hskip hlive hfree => exec_of_body (body := siteRetireCmd) rfl rfl (by omega) (by omega) hfn ha ?_⟩
    · exact siteRetireCmd_retired q (s := t) hcourse hwale hc hw hbound hret
    · exact siteRetireCmd_spare q (s := t) hcourse hwale hc hw hbound hret hspare
    · exact siteRetireCmd_live q (s := t) hcourse hwale hc hw hbound hret hskip
        ((dieLive_takenUp ..).trans hlive) ((freeSpare_takenUp ..).trans hfree)
  case resetFabric =>
    intro ha
    exact exec_of_body (body := resetFabricCmd) rfl rfl (by omega) (by omega) hfn ha rfl
  case resetWarm =>
    intro ha
    have hleft := resetWarmCmd_eq q (params []) (epochNow_takenUp 0x81 q [] s) (stitchNow_takenUp 0x81 q [] s) (free_takenUp 0x81 q [] s)
    exact ⟨_, le_warmDelay _, exec_of_body (body := resetWarmCmd) rfl rfl (by omega) (by omega) hfn ha hleft⟩
  case bindOff =>
    intro round sess l ha hr hs hstate hbound
    have hround : par (params l) 0 1 = round.toNat := par_params (by simp [l]) (by simp [l]) (by simp [l]) round.isLt
    have hsess : par (params l) 1 1 = sess.toNat := par_params (by simp [l]) (by simp [l]) (by simp [l]) sess.isLt
    exact exec_of_body (body := bindOffCmd) rfl rfl (by omega) (by omega) hfn ha
      (bindOffCmd_begins q (s := takenUp 0x82 q l s) hround hsess hr hs hstate hbound)
  case linkRetrain =>
    intro die port form l d p st ends t ha hok hbound
    have hdie : par (params l) 0 2 = d := par_params (by simp [l, d]) (by simp [l]) (by simp [l]) die.isLt
    have hport : par (params l) 2 1 = p := par_params (by simp [l, p]) (by simp [l]) (by simp [l]) port.isLt
    have hform : par (params l) 3 1 = form.toNat := par_params (by simp [l]) (by simp [l]) (by simp [l]) form.isLt
    have hlink : linkOf t d p = linkOf s d p := linkOf_takenUp ..
    have honly : reportsOnly t d p = reportsOnly s d p := reportsOnly_takenUp ..
    refine ⟨fun h0 hst => ?_, fun h0 hst => ?_, fun h1 hst hnot => ?_, fun h1 hret => ?_⟩
    · exact exec_of_accepted (f := linkRetrainImm) rfl rfl (by omega) (by omega) hfn ha
        (linkRetrainImm_quick q (s := t) hdie hport hform hok hbound (congrArg BitVec.toNat h0) (by rw [hlink]; exact hst))
    · exact exec_of_accepted (f := linkRetrainImm) rfl rfl (by omega) (by omega) hfn ha
        (linkRetrainImm_joins q (s := t) hdie hport hform hok hbound (congrArg BitVec.toNat h0) (by rw [hlink]; exact hst))
    · exact exec_of_accepted (f := linkRetrainImm) rfl rfl (by omega) (by omega) hfn ha
        (linkRetrainImm_full q (s := t) hdie hport hform hok hbound (congrArg BitVec.toNat h1) (by rw [hlink]; exact hst)
          (honly.trans hnot))
    · exact exec_of_accepted (f := linkRetrainImm) rfl rfl (by omega) (by omega) hfn ha
        (linkRetrainImm_reports q (s := t) hdie hport hform hok hbound (congrArg BitVec.toNat h1) (honly.trans hret))

end Sys2Proof.Machine
end

section
/-! PROOF. What a command answers: a meaning is computed for every command, and it is answered exactly when the command is well formed; that an
ill-formed command is refused is the model's choice (log entry 13). -/

namespace Sys2Proof.Machine

open Sys2Proof

/-- Every command answers through `done`: its meaning when it is well formed, and the refusal otherwise. -/
theorem exec_eq_done (c : Instr) (s : State) : ∃ t, exec c s = done c.wf t := by
  cases c <;> exact ⟨_, rfl⟩

/-- Settles O3: each command's meaning is a state, and `done` answers it or refuses by the command's well-formedness alone. -/
theorem refusalsAndFaults : Obligations.RefusalsAndFaults := by
  intro c s
  obtain ⟨t, hexec⟩ := exec_eq_done c s
  refine ⟨fun hill => ?_, fun hwf => ⟨t, ?_⟩⟩
  · rw [hexec, hill]
    rfl
  · rw [hexec, hwf]
    rfl

end Sys2Proof.Machine
end

section
/-! PROOF. The matrix micro-ops MTL, MMA and MDR that pass their checks and end within the budget or under a tick hold (R99 to R113; log
entries 126 to 128): nothing is cut off at the end of the budget and OVR is not raised, so that the cluster is the one of the statement. -/

namespace Sys2Proof.Machine

open Sys2Proof

/-! ## The end of the budget (R113, R176) -/

/-- An occupancy that ends in cycle `fin` ends within the budget, or a tick hold is in force. -/
def fitsBudget (x : Ctx) (fin : Nat) : Prop := x.hold = true ∨ fin ≤ x.limit

section

variable {x : Ctx} {fin : Nat} (h : fitsBudget x fin)

include h

/-- The test by which MTL marks the columns of its tile as loaded. -/
theorem done_of_fitsBudget : (x.hold || decide (fin ≤ x.limit)) = true := by
  simpa [fitsBudget] using h

/-- No OVR is raised. -/
theorem ovrCheck_of_fitsBudget : ovrCheck x fin = [] := if_pos (done_of_fitsBudget h)

/-- Work in the cycles of the occupancy is done. -/
theorem inBudget_of_lt {t : Nat} (ht : t < fin) : inBudget x t = true := by
  obtain hhold | hfin := h
  · simp [inBudget, hhold]
  · simp [inBudget, lt_of_lt_of_le ht hfin]

end

/-- The groups of a tile's array are read in the cycles of the weight port that the array takes (R100). -/
theorem cycle_lt_of_mem_tileGroups {start total : Nat} {g : Nat × Nat × Nat} (h : g ∈ tileGroups start total) :
    g.1 < start + ceilDiv total 512 := by
  obtain ⟨j, hj, rfl⟩ := List.mem_map.1 h
  exact Nat.add_lt_add_left (List.mem_range.1 hj) start

/-- Every group of an array that is read by the end of such an occupancy is read. -/
theorem filter_inBudget_tileGroups {x : Ctx} {fin start total : Nat} (h : fitsBudget x fin) (hfin : start + ceilDiv total 512 ≤ fin) :
    (tileGroups start total).filter (fun g => inBudget x g.1) = tileGroups start total :=
  List.filter_eq_self.2 fun _ hg => inBudget_of_lt h (lt_of_lt_of_le (cycle_lt_of_mem_tileGroups hg) hfin)

/-! ## Issue -/

/-- The core on which a placed micro-op's operation acts. -/
theorem cluCore_movedOn (i : Issue) (s : State) : cluCore (movedOn i s) (issueCtx i s).sc = movedCore i s := rfl

/-- A placed micro-op that acts on its own cluster, raises no fault and leaves the cores as they are. -/
theorem exec_uopCommand_onCluster {i : Issue} {u : Uop} {s : State} {op : Ctx → Cluster → Cluster × List Pf} {c : Cluster}
    (hact : uopAct u = onCluster op) (h : issues i s = true) (hp : placed i u s) (hop : op (issueCtx i s) (movedOn i s) = (c, []))
    (hc : c.cores = (movedOn i s).cores) : exec (uopCommand i u) s = .next (withIssue i c s) := by
  obtain ⟨hwf, hstored⟩ := hp
  rw [exec_uopCommand, hwf, hact, issueUop_onCluster h hstored hop (hc ▸ movedOn_cores i s)]
  rfl

/-- Settles O13: the checks of each operation pass by the premises, its occupancy fits the budget, and it changes no core.  An MMA on a buffer
with no loaded column is the model's choice (log entry 126). -/
theorem matrixMicroOps : Obligations.MatrixMicroOps := by
  intro i s h x c k m n ends
  refine ⟨?mtl, ?mma, ?mdr⟩
  case mtl =>
    intro f hp b kb nc ea sa eb sb start fin ge gs b' hea hsa hends cl hcl
    refine exec_uopCommand_onCluster (u := .mtl f) rfl h hp ?_ rfl
    have hfits : fitsBudget x fin := hends
    have hge := filter_inBudget_tileGroups (start := start + 4) (total := eb) hfits (Nat.le_add_right _ _)
    have hgs := filter_inBudget_tileGroups (start := start + 4 + ceilDiv eb 512) (total := sb) hfits le_rfl
    have hdone := done_of_fitsBudget hfits
    have hovr := ovrCheck_of_fitsBudget hfits
    simp +zetaDelta only [issueNow] at hea hsa hcl hge hgs hdone hovr
    simp +zetaDelta only [opMtl, cluCore_movedOn, issueNow, hea, hsa, hcl, hge, hgs, hovr, Bool.not_true, Bool.false_eq_true, if_false]
    -- `simp` does not go into the branches of the choice of the buffer, where the test stands.
    rw [if_pos hdone]
  case mma =>
    intro f hp b p tern rows r0 aa sa allow start ts fin rt b' hrows haa hsa hends cl hcl
    refine exec_uopCommand_onCluster (u := .mma f) rfl h hp ?_ rfl
    have hovr := ovrCheck_of_fitsBudget (x := x) hends
    simp +zetaDelta only [issueNow] at hrows haa hsa hcl hovr
    simp +zetaDelta only [opMma, cluCore_movedOn, issueNow, if_neg (Nat.not_lt.2 hrows), haa, hsa, hcl, hovr, Bool.not_true,
      Bool.false_eq_true, if_false]
  case mdr =>
    intro f hp mode cols q rows r0 da allow start ts fin rt live hrows hda hends cl hcl
    refine exec_uopCommand_onCluster (u := .mdr f) rfl h hp ?_ rfl
    have hovr := ovrCheck_of_fitsBudget (x := x) hends
    simp +zetaDelta only [issueNow] at hrows hda hcl hovr
    simp +zetaDelta only [opMdr, cluCore_movedOn, issueNow, if_neg (Nat.not_lt.2 hrows), hda, hcl, hovr, Bool.not_true,
      Bool.false_eq_true, if_false]

end Sys2Proof.Machine
end

section
/-! PROOF. The control micro-ops that have their whole effect (R117, R122 to R128): what each leaves of its cluster when its checks pass. -/

namespace Sys2Proof.Machine

open Sys2Proof

/-! ## Issue -/

/-- A placed micro-op that acts on its own cluster, raises no fault and leaves a core in it. -/
theorem exec_of_onCluster {i : Issue} {u : Uop} {s : State} {op : Ctx → Cluster → Cluster × List Pf} {c : Cluster}
    (hact : uopAct u = onCluster op) (h : issues i s = true) (hp : placed i u s) (hop : op (issueCtx i s) (movedOn i s) = (c, []))
    (hc : c.cores ≠ []) : exec (uopCommand i u) s = .next (withIssue i c s) := by
  obtain ⟨hwf, hstored⟩ := hp
  rw [exec_uopCommand, hwf, hact, issueUop_onCluster h hstored hop hc]
  rfl

/-- A cluster into which a core is written that knows the cycle of its issue. -/
theorem cores_of_last {i : Issue} {s : State} {g : Core} {c : Cluster} {n : Nat} (h : g.last = (movedCore i s).last) :
    (cluSetCore c n g).cores ≠ [] :=
  cores_cluSetCore _ _ _ fun e => Option.some_ne_none _ ((movedCore_last i s).symm.trans (h.symm.trans (congrArg Core.last e)))

/-! ## The effects of LDW, STW and MASK (R125, R127) -/

section

variable {x : Ctx} {f : CtlF} {c : Cluster} {cl : List (Nat × Nat × Nat)}

/-- LDW of a word in the core's readable windows. -/
theorem opLdw_of_claimed (h : bytesOk (cluCore c x.sc) false (ctlWord (cluCore c x.sc) f * 4) 4 = true)
    (hcl : claimAll x.sc ((granulesOf (ctlWord (cluCore c x.sc) f * 4) 4).map fun g => (x.now, g)) c.claims = .inl cl) :
    opLdw x f c = (cluPend { c with claims := cl }
      [{ cycle := x.now + 4, eff := .idx x.sc f.dst.toNat (memWord c.mem (ctlWord (cluCore c x.sc) f * 4)) }], []) := by
  simp only [opLdw, h, hcl, Bool.not_true, Bool.false_eq_true, if_false]

/-- STW to a word in the core's writable windows. -/
theorem opStw_of_claimed (h : bytesOk (cluCore c x.sc) true (ctlWord (cluCore c x.sc) f * 4) 4 = true)
    (hcl : claimAll x.sc ((granulesOf (ctlWord (cluCore c x.sc) f * 4) 4).map fun g => (x.now + 2, g)) c.claims = .inl cl) :
    opStw x f c = (cluPend { c with claims := cl } [{
      cycle := x.now + 3
      eff := .mem (cellsAt (ctlWord (cluCore c x.sc) f * 4) (natLe 4 (coreIdx (cluCore c x.sc) f.srca.toNat).toNat)) }], []) := by
  simp only [opStw, h, hcl, Bool.not_true, Bool.false_eq_true, if_false]

/-- MASK over 256 words in the core's readable windows. -/
theorem opMask_of_claimed :
    let k := cluCore c x.sc
    let a := (f.waddr.toNat + (coreIdx k f.ixa.toNat).toNat) % 2 ^ 32 * 4
    let b := coreIdx k f.srcb.toNat + f.imm
    bytesOk k false a 1024 = true → claimAll x.sc ((granulesOf a 1024).map fun g => (x.now, g)) c.claims = .inl cl →
    opMask x f c = (cluPend { c with claims := cl } [{
      cycle := x.now + 7
      eff := .mask x.sc f.dst.toNat
        (BitVec.ofNat 256 (bitsNat ((List.range 256).map fun j => maskCmp f.subop.toNat (memWord c.mem (a + 4 * j)) b))) }], []) := by
  intro k a b hb hcl
  simp +zetaDelta only at hb hcl
  simp +zetaDelta only [opMask, ctlWord, ixAdd, ctlB, hb, hcl, Bool.not_true, Bool.false_eq_true, if_false]

end

/-- Settles O8: the checks of LDW, STW and MASK pass by the premises, and none of these micro-ops touches a core at its issue. -/
theorem controlMicroOps : Obligations.ControlMicroOps := by
  intro i f s h c k n b a pend
  refine ⟨fun hp => ?nop, fun hp => ?seti, fun hp => ?alu, fun hp hb cl hcl => ?ldw, fun hp hb cl hcl => ?stw, fun hp hb cl hcl => ?mask⟩
  case nop => exact exec_uopCommand_onCluster (u := .ctl .nop f) rfl h hp rfl rfl
  case seti => exact exec_uopCommand_onCluster (u := .ctl .seti f) rfl h hp rfl rfl
  case alu => exact exec_uopCommand_onCluster (u := .ctl .alu f) rfl h hp rfl rfl
  case ldw => exact exec_uopCommand_onCluster (u := .ctl .ldw f) rfl h hp (opLdw_of_claimed hb hcl) rfl
  case stw => exact exec_uopCommand_onCluster (u := .ctl .stw f) rfl h hp (opStw_of_claimed hb hcl) rfl
  case mask =>
    exact exec_uopCommand_onCluster (u := .ctl .mask f) rfl h hp (opMask_of_claimed (x := issueCtx i s) (f := f) (c := movedOn i s) hb hcl) rfl

/-! ## The effects of LOOP (R126) and SYW (R128) -/

section

variable {x : Ctx} {f : CtlF} {c : Cluster}

/-- The passes that a LOOP asks for. -/
def loopCount (k : Core) (f : CtlF) : W32 := if f.srca = 0 then f.imm else coreIdx k f.srca.toNat

/-- LOOP with no pass skips its body. -/
theorem opLoop_zero (h : loopCount (cluCore c x.sc) f = 0) :
    let k := cluCore c x.sc
    let next := advance (k.uop - 1 + f.body.toNat) k.loops
    opLoop x f c = (cluSetCore c x.sc { k with uop := next.1, loops := next.2 }, []) := by
  have hbound : ¬(f.srca ≠ 0 ∧ f.imm.toNat < (loopCount (cluCore c x.sc) f).toNat) := by simp [h]
  simp only [loopCount] at h hbound
  simp only [opLoop, if_neg hbound, if_pos h]

/-- LOOP whose count is within its bound pushes a frame. -/
theorem opLoop_push (hn : loopCount (cluCore c x.sc) f ≠ 0)
    (hle : f.srca = 0 ∨ (loopCount (cluCore c x.sc) f).toNat ≤ f.imm.toNat) :
    let k := cluCore c x.sc
    opLoop x f c = (cluSetCore c x.sc { k with
      loops := ({ first := k.uop, len := f.body.toNat, left := (loopCount k f).toNat - 1 } :: k.loops).take 4 }, []) := by
  have hbound : ¬(f.srca ≠ 0 ∧ f.imm.toNat < (loopCount (cluCore c x.sc) f).toNat) := by
    rintro ⟨hsrc, hlt⟩
    exact hle.elim hsrc fun h => absurd hlt (Nat.not_lt.2 h)
  simp only [loopCount] at hn hbound
  simp only [opLoop, loopCount, if_neg hbound, if_neg hn]

/-- SYW whose counter has come takes its value from the counter. -/
theorem opSyw_taken (h : f.imm.toNat ≤ (coreCt (cluCore c x.sc) f.srca.toNat).toNat) :
    let k := cluCore c x.sc
    opSyw x f c = (cluSetCore c x.sc (coreSetCt k f.srca.toNat (coreCt k f.srca.toNat - f.imm)), []) :=
  if_pos h

/-- SYW whose counter has not come pauses its core, and in a set section the cluster. -/
theorem opSyw_pauses (h : (coreCt (cluCore c x.sc) f.srca.toNat).toNat < f.imm.toNat) :
    let p := cluSetCore c x.sc { cluCore c x.sc with paused := some (f.srca.toNat, f.imm) }
    opSyw x f c = (if x.setSec then cluPause x.ref p else p, []) :=
  if_neg (Nat.not_le.2 h)

end

/-- A stop of the whole cluster changes no core. -/
@[simp] theorem cluPause_cores (ref : Nat) (c : Cluster) : (cluPause ref c).cores = c.cores := rfl

/-- Settles O9: LOOP and SYW write their own core, which holds the cycle of issue, so that the cluster is read back as written.  What a fifth
loop pushes out is the model's choice (log entry 129); that the pause begins at the reference count of the cycle rests on entries 60 and 132. -/
theorem loopAndSync : Obligations.LoopAndSync := by
  intro i f s h c k n next set
  refine ⟨fun hp hn => ?skip, fun hp hn hle => ?push, fun hp hct => ?taken, fun hp hct => ?pauses⟩
  case skip => exact exec_of_onCluster (u := .ctl .loop f) rfl h hp (opLoop_zero hn) (cores_of_last (i := i) (s := s) rfl)
  case push => exact exec_of_onCluster (u := .ctl .loop f) rfl h hp (opLoop_push hn hle) (cores_of_last (i := i) (s := s) rfl)
  case taken => exact exec_of_onCluster (u := .ctl .syw f) rfl h hp (opSyw_taken hct) (cores_of_last (i := i) (s := s) rfl)
  case pauses =>
    intro p
    have hcores : p.cores ≠ [] := cores_of_last (i := i) (s := s) rfl
    refine exec_of_onCluster (u := .ctl .syw f) rfl h hp (opSyw_pauses hct) ?_
    split
    · exact hcores
    · exact hcores

end Sys2Proof.Machine
end

section
/-! PROOF. The vector micro-ops that have their whole effect (R136 to R147): what each leaves of its cluster on a free vector unit when its
checks pass, and what follows the last read of VTOPK. -/

namespace Sys2Proof.Machine

open Sys2Proof

/-! ## Issue -/

/-- A cluster with the cores of the one that issues, on which the vector unit of the issuing core has been occupied. -/
theorem cores_occupied {i : Issue} {s : State} {c : Cluster} (hc : c.cores = (movedOn i s).cores) (n : Nat) :
    (vecOccupy (issueCtx i s) n c).cores ≠ [] := by
  have hcore : cluCore c (issueCtx i s).sc = movedCore i s := congrArg (tabGet ({} : Core) · i.sc) hc
  have hlast : (cluCore c (issueCtx i s).sc).last = (movedCore i s).last := by rw [hcore]
  exact cores_of_last (i := i) (s := s) hlast

/-! ## Registers to registers (R137 to R141, R143) -/

section

variable {x : Ctx} {f : VecF} {c : Cluster} (h : vecGate x c = none)

include h

theorem opVew_of_free :
    let r := vecMap f (vewLane (cluCore c x.sc) f)
    opVew x f c = (vecOut x (if f.func = 3 then 8 else 4) f.dst.toNat r.1 r.2 (vecOccupy x 1 c), []) := by
  simp only [opVew, h]

theorem opVrd_scan (hf : f.func.toNat = 3) :
    let r := vrdScan f.type.toNat none ((List.range (vecN f)).map (vecA (cluCore c x.sc) f))
    opVrd x f c = (vecOut x 12 f.dst.toNat (r.zipIdx.map fun p => (p.2, p.1.1)) (flagsUnion (r.map Prod.snd)) (vecOccupy x 1 c), []) := by
  simp only [opVrd, h, hf]

theorem opVrd_first (hf : f.func.toNat = 4) :
    opVrd x f c = (vecOut x 8 f.dst.toNat [(0, vrdFirst (cluCore c x.sc) f)] 0 (vecOccupy x 1 c), []) := by
  simp only [opVrd, h, hf]

theorem opVrd_argmax (hf : f.func.toNat = 5) :
    let r := vrdArgmax (cluCore c x.sc) f
    opVrd x f c = (vecOut x 8 f.dst.toNat [(0, r.1)] r.2 (vecOccupy x 1 c), []) := by
  simp only [opVrd, h, hf]

/-- SUM, MAX and MIN. -/
theorem opVrd_reduce (hf : f.func.toNat ≤ 2) :
    let r := vrdReduce (cluCore c x.sc) f
    opVrd x f c = (vecOut x 10 f.dst.toNat [(0, r.1)] r.2 (vecOccupy x 1 c), []) := by
  obtain hf | hf | hf : f.func.toNat = 0 ∨ f.func.toNat = 1 ∨ f.func.toNat = 2 := by omega
  · simp only [opVrd, h, hf]
  · simp only [opVrd, h, hf]
  · simp only [opVrd, h, hf]

theorem opVsf_of_free :
    let r := vecMap f fun l => vsfFn f.func.toNat (vecA (cluCore c x.sc) f l)
    opVsf x f c = (vecOut x 14 f.dst.toNat r.1 r.2 (vecOccupy x 1 c), []) := by
  simp only [opVsf, h]

theorem opVsmx_exp (hf : f.func = 0) :
    let k := cluCore c x.sc
    let r := vecMap f fun l => smxExp (vecA k f l) (coreLane k f.srcb.toNat 0) f.imm
    opVsmx x f c = (vecOut x 20 f.dst.toNat r.1 r.2 (vecOccupy x 1 c), []) := by
  simp only [opVsmx, h, hf, if_true]

theorem opVsmx_rescale (hf : f.func ≠ 0) :
    let k := cluCore c x.sc
    let g := smxExp (coreLane k f.srcb.toNat 0) (vecC k f 0) f.imm
    let m := vecMap f fun l => mul32 (vecA k f l) g.1
    opVsmx x f c = (vecOut x 20 f.dst.toNat m.1 (m.2 ||| g.2) (vecOccupy x 1 c), []) := by
  simp only [opVsmx, h, hf, if_false]

theorem opVnrm_scale (hf : f.func ≠ 0) :
    let k := cluCore c x.sc
    let r := vecMap f fun l =>
      ((mul32 (mul32 (vecA k f l) (vecB k f 0)).1 (vecC k f l)).1,
        (mul32 (vecA k f l) (vecB k f 0)).2 ||| (mul32 (mul32 (vecA k f l) (vecB k f 0)).1 (vecC k f l)).2)
    opVnrm x f c = (vecOut x 8 f.dst.toNat r.1 r.2 (vecOccupy x 1 c), []) := by
  simp only [opVnrm, h, hf, if_false]

theorem opVnrm_square (hf : f.func = 0) :
    let k := cluCore c x.sc
    let sq := (List.range 64).map fun l => if l < vecN f then mul32 (vecA k f l) (vecA k f l) else ((0 : W32), flagNone)
    let t := treeReduce add32 (sq.map fun p => some p.1)
    let fl := flagsUnion (sq.map Prod.snd) ||| t.2
    let a := add32 (coreLane k f.dst.toNat 0) t.1
    let out := fun (l : List (Nat × W32)) (fl : Flags) => vecOut x 12 f.dst.toNat l fl (vecOccupy x 1 c)
    opVnrm x f c = (if f.mod then out [(0, a.1)] (fl ||| a.2) else out [(0, t.1)] fl, []) := by
  intro k sq t fl a out
  cases hm : f.mod with
  | false => simp +zetaDelta only [opVnrm, h, hf, hm, if_true, Bool.false_eq_true, if_false]
  | true => simp +zetaDelta only [opVnrm, h, hf, hm, if_true]

theorem opCvt_registers (hsrc : f.func.toNat / 16 ≤ 5) (hdst : f.func.toNat % 16 ≤ 5) :
    let r := vecMap f fun l => cvtLane (f.func.toNat / 16) (f.func.toNat % 16) f.rnd (vecA (cluCore c x.sc) f l)
    opCvt x f c = (vecOut x 6 f.dst.toNat r.1 r.2 (vecOccupy x 1 c), []) := by
  rw [opCvt_of_free h, if_neg (by omega), if_neg (by omega), if_neg (by omega), if_neg (by omega)]
  rfl

end

/-- Settles O10: on a free vector unit each function of a micro-op writes the lanes of its rule; the unit's core holds the cycle of issue, so
that the cluster is read back as written.  That the b of VSMX is lane 0 of its register also with BSRC is the model's reading (log entry 130). -/
theorem vectorRegisters : Obligations.VectorRegisters := by
  intro i f s h x c k out hgate
  have hcores := cores_occupied (c := c) rfl 1
  refine ⟨fun hp => ?vew, fun hp hf => ?scan, fun hp hf => ?first, fun hp hf => ?argmax, fun hp hf => ?reduce, fun hp => ?vsf,
    fun hp hf => ?exp, fun hp hf => ?rescale, fun hp hf => ?scale, fun hp hf => ?square⟩
  case vew => exact exec_of_onCluster (u := .vec .vew f) rfl h hp (opVew_of_free hgate) hcores
  case scan => exact exec_of_onCluster (u := .vec .vrd f) rfl h hp (opVrd_scan hgate (congrArg BitVec.toNat hf)) hcores
  case first => exact exec_of_onCluster (u := .vec .vrd f) rfl h hp (opVrd_first hgate (congrArg BitVec.toNat hf)) hcores
  case argmax => exact exec_of_onCluster (u := .vec .vrd f) rfl h hp (opVrd_argmax hgate (congrArg BitVec.toNat hf)) hcores
  case reduce => exact exec_of_onCluster (u := .vec .vrd f) rfl h hp (opVrd_reduce hgate hf) hcores
  case vsf => exact exec_of_onCluster (u := .vec .vsf f) rfl h hp (opVsf_of_free hgate) hcores
  case exp => exact exec_of_onCluster (u := .vec .vsmx f) rfl h hp (opVsmx_exp hgate hf) hcores
  case rescale => exact exec_of_onCluster (u := .vec .vsmx f) rfl h hp (opVsmx_rescale hgate hf) hcores
  case scale => exact exec_of_onCluster (u := .vec .vnrm f) rfl h hp (opVnrm_scale hgate hf) hcores
  case square =>
    intro sq t fl
    have hop := opVnrm_square hgate hf
    split
    next hm => exact exec_of_onCluster (u := .vec .vnrm f) rfl h hp (hop.trans (congrArg (·, []) (if_pos hm))) hcores
    next hm => exact exec_of_onCluster (u := .vec .vnrm f) rfl h hp (hop.trans (congrArg (·, []) (if_neg hm))) hcores

/-! ## Cluster memory (R136, R142, R145, R147) -/

section

variable {x : Ctx} {f : VecF} {c : Cluster} {cl : List (Nat × Nat × Nat)} (h : vecGate x c = none)

include h

theorem opVld_of_claimed :
    let k := cluCore c x.sc
    let a := vecAddr k f * 64
    let w := laneBytes f.type.toNat
    bytesOk k false a (vecN f * w) = true →
    claimAll x.sc ((granulesOf a (vecN f * w)).map fun g => (x.now, g)) c.claims = .inl cl →
    opVld x f c = (cluPend { c with claims := cl } [{ cycle := x.now + 5, eff := .lanes x.sc f.dst.toNat ((List.range (vecN f)).map
      fun j => (j, BitVec.ofNat 32 (leNat (memRead c.mem (a + j * w) w)))) }], []) := by
  intro k a w hb hcl
  simp +zetaDelta only at hb hcl
  simp +zetaDelta only [opVld, h, hb, hcl, Bool.not_true, Bool.false_eq_true, if_false]

theorem opVst_of_claimed :
    let k := cluCore c x.sc
    let a := vecAddr k f * 64
    let w := laneBytes f.type.toNat
    bytesOk k true a (vecN f * w) = true →
    claimAll x.sc ((granulesOf a (vecN f * w)).map fun g => (x.now + 2, g)) c.claims = .inl cl →
    opVst x f c = (cluPend { c with claims := cl } [{ cycle := x.now + 3, eff := .mem (cellsAt a ((List.range (vecN f)).flatMap
      fun j => natLe w (vecA k f j).toNat)) }], []) := by
  intro k a w hb hcl
  simp +zetaDelta only at hb hcl
  simp +zetaDelta only [opVst, h, hb, hcl, Bool.not_true, Bool.false_eq_true, if_false]

theorem opVrng_of_claimed :
    let a := vecAddr (cluCore c x.sc) f * 64
    bytesOk (cluCore c x.sc) false a 1024 = true →
    claimAll x.sc ((granulesOf a 1024).map fun g => (x.now, g)) c.claims = .inl cl →
    opVrng x f c = (vecOut x 16 f.dst.toNat (vecMap f fun l =>
      let g := sgen (memWord c.mem (a + 16 * l)) (memWord c.mem (a + 16 * l + 4)) (memWord c.mem (a + 16 * l + 8))
        (memWord c.mem (a + 16 * l + 12)) f.imm
      if f.func = 0 then rn ⟨(g.toNat / 256 : Nat), -24⟩ else (g, 0)).1 0 (vecOccupy x 1 { c with claims := cl }), []) := by
  intro a hb hcl
  simp +zetaDelta only at hb hcl
  simp +zetaDelta only [opVrng, h, hb, hcl, Bool.not_true, Bool.false_eq_true, if_false]

theorem opVflg_clearMatrix (hf : f.func = 0) : opVflg x f c = (vecOccupy x 1 { c with mflags := 0 }, []) := by
  simp only [opVflg, h, hf, if_true]

theorem opVflg_clearVector (hf : f.func = 1) : opVflg x f c = (vecOccupy x 1 { c with vflags := 0 }, []) := by
  have hne : f.func ≠ 0 := by rw [hf]; decide
  simp only [opVflg, h, if_neg hne, if_pos hf]

theorem opVflg_store (hf : f.func = 2) (hb : bytesOk (cluCore c x.sc) true (vecAddr (cluCore c x.sc) f * 64) 4 = true) :
    let e := settle (x.now + 1) c
    opVflg x f c = (cluPend (vecOccupy x 1 c) [{
      cycle := x.now + 2
      eff := .mem (cellsAt (vecAddr (cluCore c x.sc) f * 64) (natLe 4 (flagPair e.mflags e.vflags).toNat)) }], []) := by
  have hne0 : f.func ≠ 0 := by rw [hf]; decide
  have hne1 : f.func ≠ 1 := by rw [hf]; decide
  simp only [opVflg, h, if_neg hne0, if_neg hne1, hb, Bool.not_true, Bool.false_eq_true, if_false, flagsAtEnd]

theorem opVtopk_of_claimed :
    let k := cluCore c x.sc
    let a := vecAddr k f * 64
    let m := (coreIdx k (f.srcb.toNat % 16) + f.imm).toNat
    let e := if f.func = 0 then 4 else 8
    let cyc := ceilDiv m 64
    let op := GatherOp.topk x.sc f.dst.toNat (vecN f) (f.func != 0) (coreIdx k (f.srca.toNat % 16))
    m ≤ 65536 → bytesOk k false a (m * e) = true →
    claimAll x.sc ((List.range cyc).flatMap fun j =>
      (granulesOf (a + j * 64 * e) (min (64 * e) ((m - j * 64) * e))).map fun g => (x.now + j, g)) c.claims = .inl cl →
    opVtopk x f c = (cluGather x.now op ((List.range cyc).map fun j => ((a + j * (64 * e), min (64 * e) (m * e - j * (64 * e))), (0, 0)))
      (vecOccupy x (cyc + vecN f) { c with claims := cl }), []) := by
  intro k a m e cyc op hm hb hcl
  have hcyc : ceilDiv (m * e) (64 * e) = cyc := by
    unfold cyc e ceilDiv
    split
    · omega
    · omega
  simp +zetaDelta only at hm hb hcl hcyc
  simp +zetaDelta only [opVtopk, h, hb, hcl, if_neg (Nat.not_lt.2 hm), Bool.not_true, Bool.false_eq_true, if_false, piecesOf, hcyc,
    List.map_map]
  rfl

end

/-- The best candidates of VTOPK are ranked and written after its last read. -/
theorem gatherEnd_topk (t core dst n : Nat) (func : BitVec 8) (base : W32) (l : List Byte) :
    let e := if func = 0 then 4 else 8
    let cand := (List.range (l.length / e)).map fun j =>
      ((rd32 (wordAt l (j * e))).1, if func = 0 then base + BitVec.ofNat 32 j else wordAt l (j * e + 4))
    let best := (topk n cand).zipIdx
    gatherEnd t (.topk core dst n (func != 0) base) l [] = [
      { cycle := t + n + 7, eff := .flags 0 (flagsUnion ((List.range (l.length / e)).map fun j => (rd32 (wordAt l (j * e))).2)) },
      { cycle := t + n + 7, eff := .lanes core dst (best.map fun p => (p.2, p.1.1)) },
      { cycle := t + n + 7, eff := .lanes core (dst + 1) (best.map fun p => (p.2, p.1.2)) }] := by
  simp [gatherEnd, topkCands, Function.comp_def]

/-- Settles O11: on a free vector unit whose checks pass each micro-op leaves what its rule says; the pieces that VTOPK reads are 64
candidates each. -/
theorem vectorMemory : Obligations.VectorMemory := by
  intro i f s h x c k n a w hgate
  have hc : c.cores ≠ [] := movedOn_cores i s
  refine ⟨fun hp hb cl hcl => ?vld, fun hp hb cl hcl => ?vst, fun hp hb cl hcl => ?vrng, fun hp hf => ?clearMatrix,
    fun hp hf => ?clearVector, fun hp hf hb => ?store, fun hp hsrc hdst => ?cvt, fun hp => ?vtopk⟩
  case vld => exact exec_of_onCluster (u := .vec .vld f) rfl h hp (opVld_of_claimed hgate hb hcl) hc
  case vst => exact exec_of_onCluster (u := .vec .vst f) rfl h hp (opVst_of_claimed hgate hb hcl) hc
  case vrng =>
    exact exec_of_onCluster (u := .vec .vrng f) rfl h hp (opVrng_of_claimed hgate hb hcl)
      (cores_occupied (c := { c with claims := cl }) rfl 1)
  case clearMatrix =>
    exact exec_of_onCluster (u := .vec .vflg f) rfl h hp (opVflg_clearMatrix hgate hf)
      (cores_occupied (c := { c with mflags := 0 }) rfl 1)
  case clearVector =>
    exact exec_of_onCluster (u := .vec .vflg f) rfl h hp (opVflg_clearVector hgate hf)
      (cores_occupied (c := { c with vflags := 0 }) rfl 1)
  case store => exact exec_of_onCluster (u := .vec .vflg f) rfl h hp (opVflg_store hgate hf hb) (cores_occupied (c := c) rfl 1)
  case cvt => exact exec_cvt h hp (opCvt_registers hgate hsrc hdst) (cores_occupied (c := c) rfl 1)
  case vtopk =>
    intro m e cyc base op hm hb cl hcl
    refine ⟨?_, fun t l => gatherEnd_topk t _ _ _ _ _ l⟩
    refine exec_of_onCluster (u := .vec .vtopk f) rfl h hp (opVtopk_of_claimed hgate hm hb hcl) ?_
    rw [cluGather_cores]
    exact cores_occupied (c := { c with claims := cl }) rfl _

end Sys2Proof.Machine
end

section
/-! PROOF. Transfers that are posted (R149, R150, R153) and set flits that are handed over and taken (R128, R152, R248, R249): what each
micro-op leaves of its cluster, of its die's interface and of the landing entries. -/

namespace Sys2Proof.Machine

open Sys2Proof

/-! ## Actions on the panel -/

section

variable {i : Issue} {s : State}

/-- The state in which a micro-op acts: its core has moved on. -/
def movedState (i : Issue) (s : State) : State := withIssue i (movedOn i s) s

/-- A placed micro-op leaves what its action leaves of the panel, with a record of each fault that it raises. -/
theorem exec_of_act {u : Uop} {t : State} {l : List Pf} (h : issues i s = true) (hp : placed i u s)
    (hact : uopAct u (issueCtx i s) (movedState i s) = (t, l)) :
    exec (uopCommand i u) s = .next (l.foldl (fun t p =>
      addPatFault (issueCtx i s).die (uopFault s (issueCtx i s) (cluCore (issueClu i s) i.sc).uop p) t) t) := by
  obtain ⟨hwf, hstored⟩ := hp
  have hmoved : modClu (issueCtx i s).die i.clu
      (fun _ => cluSetCore (issueClu i s) i.sc (coreIssued (cluCore (issueClu i s) i.sc) (issueCtx i s).now)) s = movedState i s := rfl
  rw [exec_uopCommand, hwf]
  simp only [issueUop, h, hstored, Bool.and_self, if_true, hmoved, hact]
  rfl

/-- The issuing cluster in the state in which a micro-op acts. -/
theorem cluOf_movedState : cluOf (movedState i s) (issueCtx i s).die (issueCtx i s).clu = movedOn i s :=
  cluOf_modClu _ _ _ _ (clu_ne_default (movedOn_cores i s))

/-- The issuing core in the state in which a micro-op acts. -/
theorem ctxCore_movedState : ctxCore (issueCtx i s) (movedState i s) = movedCore i s :=
  congrArg (cluCore · i.sc) cluOf_movedState

/-- A change of the issuing cluster in that state which leaves a core in it. -/
theorem modClu_movedState {g : Cluster → Cluster} (hc : (g (movedOn i s)).cores ≠ []) :
    modClu (issueCtx i s).die (issueCtx i s).clu g (movedState i s) = withIssue i (g (movedOn i s)) s := by
  have hread : modClu (issueCtx i s).die (issueCtx i s).clu g (movedState i s) =
      modClu (issueCtx i s).die (issueCtx i s).clu (fun _ => g (cluOf (movedState i s) (issueCtx i s).die (issueCtx i s).clu))
        (movedState i s) := rfl
  rw [hread, cluOf_movedState]
  exact modClu_modClu _ _ _ _ _ (clu_ne_default (movedOn_cores i s)) (clu_ne_default hc)

end

/-! ## Posting (R150, R153) -/

section

variable {i : Issue} {s : State}

/-- The state with a transfer outstanding at the core that has moved on, under the die's next message number and with the stitch of posting. -/
def postedBy (i : Issue) (t : Xfer) (s : State) : State :=
  withIssue i (cluSetCore (movedOn i s) i.sc { movedCore i s with
      xfers := (movedCore i s).xfers ++ [{ t with msg := (niOf s (issueCtx i s).die).nextMsg, posted := (dieOf s (issueCtx i s).die).count }] })
    (modNI (issueCtx i s).die (fun y => { y with nextMsg := y.nextMsg + 1 }) s)

/-- Posting a transfer in the state in which a micro-op acts. -/
theorem postXfer_movedState (t : Xfer) : postXfer (issueCtx i s) t (movedState i s) = postedBy i t s :=
  modClu_movedState (i := i) (s := modNI (issueCtx i s).die (fun y => { y with nextMsg := y.nextMsg + 1 }) s)
    (cores_of_last (i := i) (s := s) rfl)

section

variable {f : DmF}

theorem actDm_write (hw : inWindow (movedCore i s).pwin true (dmPaddr (movedCore i s) f) (dmFlits f) = true)
    (hu : unitExists (dmPaddr (movedCore i s) f + dmFlits f - 1) = true)
    (hg : flitsOk (movedCore i s) false (dmCaddr (movedCore i s) f) (dmFlits f) = true) :
    actDm true f (issueCtx i s) (movedState i s) = (postedBy i {
      kind := .dmw, paddr := dmPaddr (movedCore i s) f, caddr := dmCaddr (movedCore i s) f, flits := dmFlits f
      ctr := f.ctr.toNat } s, []) := by
  simp only [actDm, ctxCore_movedState, hw, hu, hg, Bool.not_true, Bool.and_self, Bool.false_eq_true, if_false, if_true, Bool.and_false,
    postXfer_movedState]

theorem actDm_read (hw : inWindow (movedCore i s).pwin false (dmPaddr (movedCore i s) f) (dmFlits f) = true)
    (hu : unitExists (dmPaddr (movedCore i s) f + dmFlits f - 1) = true)
    (hg : flitsOk (movedCore i s) true (dmCaddr (movedCore i s) f) (dmFlits f) = true) :
    actDm false f (issueCtx i s) (movedState i s) = (postedBy i {
      kind := .dmr, paddr := dmPaddr (movedCore i s) f, caddr := dmCaddr (movedCore i s) f, flits := dmFlits f
      ctr := f.ctr.toNat, carry := f.carry } s, []) := by
  simp only [actDm, ctxCore_movedState, hw, hu, hg, Bool.not_true, Bool.not_false, Bool.and_self, Bool.false_eq_true, if_false,
    Bool.and_true, postXfer_movedState]

end

variable {f : FmF}

theorem actFsn_posts (hg : flitsOk (movedCore i s) false (fmCaddr (movedCore i s) f) (fmFlits f) = true)
    (he : namesEndpoint s f.drank f.dclass = true) :
    actFsn f (issueCtx i s) (movedState i s) = (postedBy i {
      kind := .fsn, caddr := fmCaddr (movedCore i s) f, flits := fmFlits f, ctr := f.ctr.toNat, tag := f.tag
      drank := f.drank, dclass := f.dclass } s, []) := by
  have he' : namesEndpoint (movedState i s) f.drank f.dclass = true := he
  simp only [actFsn, ctxCore_movedState, hg, he', Bool.not_true, Bool.false_eq_true, if_false, postXfer_movedState]

/-- The buffer that an FRV posts. -/
def frvBuffer (k : Core) (f : FmF) : Xfer :=
  { kind := .frv, caddr := fmCaddr k f, flits := fmFlits f, ctr := f.ctr.toNat, tag := f.tag }

/-- FRV posts its buffer and writes the flits that the interface held for its tag (R153). -/
theorem actFrv_posts (hg : flitsOk (movedCore i s) true (fmCaddr (movedCore i s) f) (fmFlits f) = true) :
    let held := heldFor (niOf s (issueCtx i s).die) f.tag
    actFrv f (issueCtx i s) (movedState i s) = (held.foldl
      (fun t g => match findFrv t (issueCtx i s).die g.hdr true with
        | some a => frvDeliver t (issueCtx i s).die g true a
        | none => t)
      (modNI (issueCtx i s).die (fun y => { y with held := y.held.filter fun g => !held.contains g })
        (postedBy i (frvBuffer (movedCore i s) f) s)), []) := by
  simp only [actFrv, ctxCore_movedState, hg, Bool.not_true, Bool.false_eq_true, if_false, postXfer_movedState]
  rfl

end

/-- Settles O14: the checks of each micro-op pass by the premises, and the transfer is posted on the core that has moved on.  That an address
is taken modulo 2^34 is the model's reading (log entry 42). -/
theorem postedTransfers : Obligations.PostedTransfers := by
  intro i s h x k n posted
  refine ⟨fun f hw hu hg hp => ?dmw, fun f hw hu hg hp => ?dmr, fun f hg he hp => ?fsn, fun f hg hp => ?frv⟩
  case dmw => exact exec_of_act (u := .dm true f) h hp (actDm_write hw hu hg)
  case dmr => exact exec_of_act (u := .dm false f) h hp (actDm_read hw hu hg)
  case fsn => exact exec_of_act (u := .fm .fsn f) h hp (actFsn_posts hg he)
  case frv => exact exec_of_act (u := .fm .frv f) h hp (actFrv_posts hg)

/-! ## Set flits (R152, R248, R249) -/

/-- The counter that a set transfer adds to in the cycle after its last flit (R128). -/
theorem ctAfter_eq (x : Ctx) (ctr : BitVec 3) (n : Nat) :
    ctAfter x ctr.toNat n = if ctr = 0 then [] else [{ cycle := x.now + n, eff := .ct x.sc ctr.toNat }] := by
  have hzero : ctr.toNat = 0 ↔ ctr = 0 := BitVec.toNat_inj (y := 0)
  simp only [ctAfter, hzero]

theorem opSsn_of_claimed {x : Ctx} {f : FmF} {c : Cluster} {cl : List (Nat × Nat × Nat)} :
    let ga := fmCaddr (cluCore c x.sc) f
    let l := f.lenm1.toNat + 1
    flitsOk (cluCore c x.sc) false ga l = true → claimAll x.sc (flitAccesses x.now ga l) c.claims = .inl cl →
    opSsn x f c = (cluPend { c with claims := cl } (((List.range l).map fun j =>
      { cycle := x.now + j, reads := true
        eff := .ssnRead (f.slot.toNat + j) ((ga + 4 * j) * 64) (x.ref + j * 2000 / x.sp) }) ++
      if f.ctr = 0 then [] else [{ cycle := x.now + l, eff := .ct x.sc f.ctr.toNat }]), []) := by
  intro ga l hg hcl
  simp +zetaDelta only at hg hcl
  simp +zetaDelta only [opSsn, fmFlits, hg, hcl, ctAfter_eq, Bool.not_true, Bool.false_eq_true, if_false]

/-- SRV reads the flits of its stitch and leaves the others for theirs (log entry 40). -/
theorem actSrv_of_claimed {i : Issue} {s : State} {f : FmF} {cl : List (Nat × Nat × Nat)} :
    let x := issueCtx i s
    let c := movedOn i s
    let ga := fmCaddr (movedCore i s) f
    let l := f.lenm1.toNat + 1
    let jobs : List SrvJob := (List.range l).map fun j =>
      { cycle := x.now + j, ga := ga + 4 * j, entry := f.slot.toNat + j, sc := i.sc, uop := x.uop }
    flitsOk (movedCore i s) true ga l = true → claimAll x.sc (flitAccesses x.now ga l) c.claims = .inl cl →
    actSrv f x (movedState i s) = srvFlits x (jobs.filter fun j => decide (j.cycle < x.limit)) (withIssue i (cluPend { c with
      claims := cl, srvs := c.srvs ++ jobs.filter fun j => decide (x.limit ≤ j.cycle) }
        (if f.ctr = 0 then [] else [{ cycle := x.now + l, eff := .ct x.sc f.ctr.toNat }])) s) := by
  intro x c ga l jobs hg hcl
  have hcore : cluCore (movedOn i s) (issueCtx i s).sc = movedCore i s := rfl
  simp +zetaDelta only at hg hcl
  simp +zetaDelta only [actSrv, fmFlits, cluOf_movedState, hcore, hg, hcl, ctAfter_eq, Bool.not_true, Bool.false_eq_true, if_false]
  exact congrArg _ (modClu_movedState (movedOn_cores i s))

section

variable (x : Ctx) (j : SrvJob) (s : State)

/-- The landing position that an SRV reads (R249). -/
def landPos : Nat := bitsOf (landEntry (runImg s) x.rank j.entry) 63 52

variable {x j s}

/-- A full landing entry is written to cluster memory one cycle after it is read, and is empty from then on. -/
theorem srvFlit_full (h : tabGet [] (niOf s x.die).landing (landPos x j s) ≠ []) :
    srvFlit x j s = (modNI x.die (fun m => { m with landing := tabPut [] m.landing (landPos x j s) [] })
      (modClu x.die x.clu (fun c => cluPend c [{
        cycle := j.cycle + 1
        eff := .mem (cellsAt (j.ga * 64) (tabGet [] (niOf s x.die).landing (landPos x j s))) }]) s), []) := by
  unfold srvFlit
  dsimp only
  split
  next hempty => exact absurd hempty h
  next => rfl

/-- An empty landing entry raises LGR. -/
theorem srvFlit_empty (h : tabGet [] (niOf s x.die).landing (landPos x j s) = []) : srvFlit x j s = (s, [lgrOf s x j.entry]) := by
  unfold landPos at h
  simp only [srvFlit, h]

end

/-- Settles O15: an SSN acts on its own cluster, an SRV goes on with the flits of its stitch, and a flit of an SRV is the case that its landing
entry selects.  The counter's cycle and the stitch of a later flit rest on log entries 40 and 132. -/
theorem setTransfers : Obligations.SetTransfers := by
  refine ⟨fun i f s h cl hcl => ⟨fun hp hg => ?ssn, fun hp hg => ?srv⟩, fun c t e a ref => rfl,
    fun x j s => ⟨fun hl => ?full, fun hl => ?empty⟩⟩
  case ssn => exact exec_of_onCluster (u := .fm .ssn f) rfl h hp (opSsn_of_claimed hg hcl) (movedOn_cores i s)
  case srv => exact exec_of_act (u := .fm .srv f) h hp (actSrv_of_claimed hg hcl)
  case full => exact srvFlit_full hl
  case empty => exact ⟨lgrOf s x j.entry, srvFlit_empty hl, rfl, rfl⟩

end Sys2Proof.Machine
end

section
/-! PROOF. The end of an SYW pause (R122, R128, R195): the cluster is written twice, first with its core and then going on.  In a table of
clusters in canonical form the second write stands, as the statement has it; in another it can leave an entry behind the one that it removes. -/

namespace Sys2Proof.Machine

open Sys2Proof

/-! ## Two writes of a cluster -/

section

variable {α : Type} [DecidableEq α] (d : α) (t : Tab α)

/-- A key below every key of a table is not in it. -/
theorem tabDel_below {lo k : Nat} (h : tabWfFrom d (some lo) t = true) (hk : k ≤ lo) : tabDel t k = t := by
  induction t generalizing lo with
  | nil => rfl
  | cons p t ih =>
    obtain ⟨k', v'⟩ := p
    simp only [tabWfFrom, Bool.and_eq_true, decide_eq_true_eq] at h
    obtain ⟨⟨hlo, -⟩, ht⟩ := h
    rw [tabDel, if_neg (by omega), ih ht (by omega)]

/-- In a canonical table, deleting the key just inserted deletes what stood there. -/
theorem tabDel_tabIns {k : Nat} (a : α) {b : Option Nat} (h : tabWfFrom d b t = true) : tabDel (tabIns t k a) k = tabDel t k := by
  induction t generalizing b with
  | nil => simp [tabIns, tabDel]
  | cons p t ih =>
    obtain ⟨k', v'⟩ := p
    simp only [tabWfFrom, Bool.and_eq_true] at h
    obtain ⟨-, ht⟩ := h
    unfold tabIns
    split
    next hlt => rw [tabDel, if_pos rfl, tabDel, if_neg (by omega), tabDel_below d t ht (by omega)]
    next =>
      split
      next hk => rw [tabDel, if_pos rfl, tabDel, if_pos hk]
      next hk => rw [tabDel, if_neg hk, tabDel, if_neg hk, ih ht]

/-- In a canonical table the later of two writes stands, whatever it writes. -/
theorem tabPut_tabPut_of_canonical (h : tabWf d t = true) {k : Nat} {a : α} (ha : a ≠ d) (b : α) :
    tabPut d (tabPut d t k a) k b = tabPut d t k b := by
  by_cases hb : b = d
  · rw [tabPut, if_pos hb, tabPut, if_neg ha, tabDel_tabIns d t a h, tabPut, if_pos hb]
  · exact tabPut_tabPut d t k ha hb

end

/-- In a canonical table of clusters, a change of a cluster that was just written is a change of what was written. -/
theorem modClu_modClu_of_canonical {s : State} (hs : tabWf {} s.clus = true) (d k : Nat) {c : Cluster} (hc : c ≠ {})
    (g : Cluster → Cluster) : modClu d k g (modClu d k (fun _ => c) s) = modClu d k (fun _ => g c) s := by
  have hread : modClu d k g (modClu d k (fun _ => c) s) =
      modClu d k (fun _ => g (cluOf (modClu d k (fun _ => c) s) d k)) (modClu d k (fun _ => c) s) := rfl
  rw [hread, cluOf_modClu d k c s hc]
  unfold modClu tabMod
  rw [tabPut_tabPut_of_canonical {} s.clus hs hc]

/-! ## SYW_SATISFIED -/

section

variable {i : Issue} {s : State} {r : Nat} {n : W32}

/-- The core of an SYW whose pause ends. -/
def wokenCore (i : Issue) (c : Cluster) (r : Nat) (n : W32) : Core :=
  { coreSetCt (cluCore c i.sc) r (coreCt (cluCore c i.sc) r - n) with
    paused := none, next := none, last := if c.pausedSet then (cluCore c i.sc).last else some (c.base + i.cyc) }

/-- The cluster with this core is not in its reset state: it stands still, or the core knows a last cycle. -/
theorem cluSetCore_wokenCore_ne (i : Issue) (c : Cluster) (r : Nat) (n : W32) : cluSetCore c i.sc (wokenCore i c r n) ≠ {} := by
  cases hset : c.pausedSet with
  | true =>
    have hstill : (cluSetCore c i.sc (wokenCore i c r n)).pausedSet = true := hset
    exact fun e => Bool.noConfusion (hstill.symm.trans (congrArg Cluster.pausedSet e))
  | false =>
    refine clu_ne_default (cores_cluSetCore _ _ _ fun e => ?_)
    have hlast := congrArg Core.last e
    simp [wokenCore, hset] at hlast

/-- SYW_SATISFIED where the table of clusters is canonical: the clause of the statement. -/
theorem sywDone_of_canonical (hs : tabWf {} s.clus = true) :
    let d := physOf s.grid.skip i.rank
    let c := cluOf s d i.clu
    (cluCore c i.sc).paused = some (r, n) → n.toNat ≤ (coreCt (cluCore c i.sc) r).toNat →
    let c' := cluSetCore c i.sc (wokenCore i c r n)
    sywDone i s = modClu d i.clu (fun _ => if s.lode.frozen || s.lode.freezeAt.isSome then c' else cluResume s d (cycleRef s d i.cyc) c') s := by
  intro d c hpaused hle c'
  have hwoken : sywDone i s = freeClu d i.clu (cycleRef s d i.cyc) (modClu d i.clu (fun _ => c') s) := by
    simp only [sywDone]
    rw [hpaused]
    exact if_neg (Nat.not_lt.2 hle)
  have hne : c' ≠ {} := cluSetCore_wokenCore_ne i c r n
  rw [hwoken, freeClu, modClu_modClu_of_canonical hs d i.clu hne]
  cases hheld : s.lode.frozen || s.lode.freezeAt.isSome with
  | true => exact if_pos hheld
  | false => exact if_neg (Bool.eq_false_iff.1 hheld)

end

/-! ## A table out of order -/

/-- The place of core 0 of cluster 0 of rank 0 in cycle 0. -/
def firstPlace : Issue := { rank := 0, clu := 0, sc := 0, cyc := 0 }

/-- A cluster that stands still for a core which waits for a count of 0, and is else in its reset state. -/
def waitsForNothing : Cluster := { pausedSet := true, cores := [(0, { paused := some (0, 0) })] }

/-- A panel whose table of clusters lists key 1 before key 0, at which `waitsForNothing` stands. -/
def outOfOrder : State := { State.reset with clus := [(1, { base := 1 }), (0, waitsForNothing)] }

/-- The cluster with its core woken is put before the entry of key 1, and dropped from there as it goes on; `waitsForNothing` is left. -/
theorem clus_sywDone_outOfOrder : (sywDone firstPlace outOfOrder).clus = outOfOrder.clus := by
  decide +kernel

/-- Refutes O16: the clause on SYW_SATISFIED is asked of every state, and in `outOfOrder` the paused cluster still stands in the table when the
event has come about, where the statement has none.  A table whose keys do not rise is not in canonical form (`tabWf`), which the statement does
not ask for; where the table is canonical, `sywDone_of_canonical` gives the state that the clause names. -/
theorem not_knotsAndPauses : ¬ Obligations.KnotsAndPauses := by
  rintro ⟨-, hsyw, -⟩
  have hexec := hsyw firstPlace outOfOrder 0 0 (by decide) (by decide +kernel) (by decide +kernel)
  have hclus := congrArg State.clus (Host.Outcome.next.inj hexec)
  have hleft : (sywDone firstPlace outOfOrder).clus = [(1, { base := 1 })] := hclus.trans (by decide +kernel)
  rw [clus_sywDone_outOfOrder] at hleft
  exact absurd hleft (by decide)

end Sys2Proof.Machine
end

section
/-! PROOF. Freezes and their end (R122, R172 to R174, R195): what each event leaves of the dies' timebases and of the lodestar. -/

namespace Sys2Proof.Machine

open Sys2Proof

/-- A change of the dies of a list changes nothing else. -/
theorem exists_modDies_eq (l : List Nat) (f : Die → Die) (s : State) : ∃ ds, modDies l f s = { s with dies := ds } := by
  induction l generalizing s with
  | nil => exact ⟨s.dies, rfl⟩
  | cons d l ih => exact ih (modDie d f s)

/-- A change of the dies of a list and of the lodestar. -/
theorem modDies_lode (l : List Nat) (f : Die → Die) (g : Lode → Lode) (s : State) :
    { modDies l f s with lode := g (modDies l f s).lode } = { s with dies := (modDies l f s).dies, lode := g s.lode } := by
  obtain ⟨ds, h⟩ := exists_modDies_eq l f s
  rw [h]

/-- A die's timebase at the freeze point (R172). -/
def dieStopped (p : BitVec 48) (x : Die) : Die :=
  { x with phase := x.phase + slotsTo x p, ref := x.ref + BitVec.ofNat 64 (slotsTo x p) }

/-- A die's timebase at the resume point (R173): its phase has stood still. -/
def dieResumed (p : BitVec 48) (x : Die) : Die := { x with ref := x.ref + BitVec.ofNat 64 (slotsTo x p) }

section

variable {s : State}

theorem freq_eq (d : Nat) : freq d s = { s with lode := { s.lode with
    holders := setIns d s.lode.holders, resumeAt := none
    freezeAt := if s.lode.frozen = false ∧ s.lode.freezeAt = none then some (pointAfter s) else s.lode.freezeAt } } := by
  unfold freq
  dsimp only
  cases hfrozen : s.lode.frozen with
  | true => simp
  | false => cases hpoint : s.lode.freezeAt with
    | none => simp
    | some p => simp

theorem freeze_running (p : BitVec 48) (h : s.lode.frozen = false) :
    freeze p s = { s with lode := { s.lode with freezeAt := some p } } := by
  simp only [freeze, h, Bool.false_eq_true, if_false]

/-- A freeze in force names no further point. -/
theorem freeze_frozen (p : BitVec 48) (h : s.lode.frozen = true) : freeze p s = s := by
  rw [freeze, if_pos h]

theorem freezePoint_reached {p : BitVec 48} (hp : s.lode.freezeAt = some p) (h : s.lode.frozen = false) :
    freezePoint s = { s with
      dies := (modDies (liveDies s) (dieStopped p) s).dies
      lode := { s.lode with frozen := true, stretchedNow := true } } := by
  unfold freezePoint
  split
  next q hq =>
    obtain rfl : p = q := Option.some.inj (hp.symm.trans hq)
    rw [if_neg (Bool.eq_false_iff.1 h)]
    exact modDies_lode (liveDies s) (dieStopped p) (fun l => { l with frozen := true, stretchedNow := true }) s
  next hnone => exact absurd (hp.symm.trans hnone) (Option.some_ne_none p)

theorem freezePoint_idle (h : s.lode.freezeAt = none ∨ s.lode.frozen = true) : freezePoint s = s := by
  unfold freezePoint
  split
  next p hp =>
    obtain hnone | hfrozen := h
    · exact absurd hp (by simp [hnone])
    · exact if_pos hfrozen
  next => rfl

/-- A release that leaves holders, or that meets no freeze. -/
theorem release_holds (d : Nat) (h : setDel d s.lode.holders ≠ [] ∨ s.lode.frozen = false ∧ s.lode.freezeAt = none) :
    release d s = { s with lode := { s.lode with holders := setDel d s.lode.holders } } := by
  have hdone : ((setDel d s.lode.holders).isEmpty && (s.lode.frozen || s.lode.freezeAt.isSome)) = false := by
    obtain hleft | ⟨hfrozen, hpoint⟩ := h
    · simp [hleft]
    · simp [hfrozen, hpoint]
  simp only [release, hdone, Bool.false_eq_true, if_false]

/-- The last release of a freeze names the resume point. -/
theorem release_last (d : Nat) (hlast : setDel d s.lode.holders = []) (h : s.lode.frozen = true ∨ s.lode.freezeAt.isSome = true) :
    release d s = { s with lode := { s.lode with holders := [], resumeAt := some (pointAfter s) } } := by
  have hdone : (s.lode.frozen || s.lode.freezeAt.isSome) = true := by simpa using h
  simp only [release, hlast, hdone, List.isEmpty_nil, Bool.and_self, if_true]

theorem resumePoint_frozen {p : BitVec 48} (hp : s.lode.resumeAt = some p) (h : s.lode.frozen = true) :
    let n := slotsTo (dieOf s (anchorDie s)) p
    resumePoint s = { s with
      dies := (modDies (liveDies s) (dieResumed p) s).dies
      lode := { s.lode with frozen := false, freezeAt := none, resumeAt := none, stall := s.lode.stall + n
                            added := s.lode.added + BitVec.ofNat 64 n } } := by
  intro n
  simp only [resumePoint, hp, h, if_true]
  exact modDies_lode (liveDies s) (dieResumed p) (fun l => { l with
    frozen := false, freezeAt := none, resumeAt := none, stall := l.stall + n, added := l.added + BitVec.ofNat 64 n }) s

theorem resumePoint_running {p : BitVec 48} (hp : s.lode.resumeAt = some p) (h : s.lode.frozen = false) :
    resumePoint s = { s with lode := { s.lode with freezeAt := none, resumeAt := none } } := by
  simp only [resumePoint, hp, h, Bool.false_eq_true, if_false]

/-- A stopped cluster that nothing holds goes on, and counts the cycles of its pause (R195). -/
theorem cluResume_freed (d ref : Nat) {c : Cluster} (hset : c.pausedSet = true) (hfreed : cluFreed s c = true) :
    cluResume s d ref c = { c with pausedSet := false, pauseCyc := c.pauseCyc + pauseCycles s d c.pausedAt ref } := by
  simp only [cluResume, hset, hfreed, Bool.and_self, if_true]

end

/-- The answer of a well-formed command. -/
theorem done_of_wf {b : Bool} {s t : State} (hb : b = true) (h : s = t) : done b s = .next t := by
  rw [hb, h]
  rfl

/-- Settles O39: each event is the case of its operation that the lodestar's state selects.  That the pause is counted from the cluster's own
stop, and that a freeze point which no freeze awaits does nothing, rest on log entries 60 and 149. -/
theorem freezes : Obligations.Freezes := by
  intro s l point
  refine ⟨fun d hd => ?freq, fun p h => ?freeze, fun p h => ?again, fun p hp h => ?point, fun h => ?noPoint, fun d hd h => ?release,
    fun d hd hlast h => ?last, fun p => ?resume, fun p hp h => ?thaw, fun p hp h => ?noThaw, fun d ref c hset hfreed => ?cluster⟩
  case freq => exact done_of_wf hd (freq_eq d)
  case freeze => exact done_of_wf rfl (freeze_running p h)
  case again => exact done_of_wf rfl (freeze_frozen p h)
  case point => exact done_of_wf rfl (freezePoint_reached hp h)
  case noPoint => exact done_of_wf rfl (freezePoint_idle h)
  case release => exact done_of_wf hd (release_holds d h)
  case last => exact done_of_wf hd (release_last d hlast h)
  case resume => exact done_of_wf rfl rfl
  case thaw => exact done_of_wf rfl (congrArg thawAll (resumePoint_frozen hp h))
  case noThaw => exact done_of_wf rfl (congrArg thawAll (resumePoint_running hp h))
  case cluster => exact cluResume_freed d ref hset hfreed

end Sys2Proof.Machine
end

section
/-! PROOF. Arrivals, fired knots, section starts and knot timeouts (R120, R186, R187, R193, R196, R200): what each event leaves when its
conditions are met, and that a knot whose conditions are not met does not fire. -/

namespace Sys2Proof.Machine

open Sys2Proof

/-! ## Arrivals (R186, R200) -/

section

variable {s : State}

/-- An arrival that the die sends in a later stitch than that of arriving, by whether it is in time. -/
theorem arriveAt_eq {d : Nat} {k : BitVec 12} (hrun : s.pat.running.isSome = true) (hsect : s.pat.inSect = true)
    (hk : k.toNat = s.pat.sect) (harr : (dieOf s d).arrived = some k) (hlater : (dieOf s d).count ≠ (dieOf s d).arrivedIn) :
    arriveAt d k s = if inLimit s then { s with lode := { s.lode with
      arrivals := setIns d s.lode.arrivals
      arrivedAt := if d ∈ s.lode.arrivals then s.lode.arrivedAt else stitchNow s } } else s := by
  simp only [arriveAt, hrun, hsect, hk, harr, bne_iff_ne.2 hlater, beq_self_eq_true, Bool.true_and, List.contains_iff_mem]

/-! ## Knots (R186, R187, R196) -/

/-- The state in which a knot has fired: the arrivals at it are done with. -/
def knotFired (s : State) : State :=
  { s with lode := { s.lode with arrivals := [] }, dies := tabMap {} (fun x => { x with arrived := none }) s.dies }

section

variable {f : BitVec 48} {k : BitVec 12} {env : BoundaryEnv}

/-- The knot of the section in progress fires in its stitch, by whether it ends the round. -/
theorem fireKnot_eq (hrun : s.pat.running.isSome = true) (hsect : s.pat.inSect = true) (hact : s.rnd.active = true)
    (hk : k.toNat = s.pat.sect) (hall : allArrived s = true) (hf : f = fireStitch s) (hnow : f = stitchNow s) :
    fireKnot f k env s = if k.toNat + 1 = imgNsect (runImg s) then endRound f env (knotFired s) else innerKnot f s := by
  have hfire : (f == fireStitch s) = true := beq_iff_eq.2 hf
  have hstitch : (f == stitchNow s) = true := beq_iff_eq.2 hnow
  have hsame : (k.toNat == s.pat.sect) = true := beq_iff_eq.2 hk
  simp only [fireKnot, hrun, hsect, hact, hsame, hall, hfire, hstitch, Bool.and_self, if_true, lastKnot, beq_iff_eq, knotFired]

/-- A knot does not fire in another stitch than its own, nor before every live die has arrived. -/
theorem fireKnot_idle (h : f ≠ fireStitch s ∨ f ≠ stitchNow s ∨ allArrived s = false) : fireKnot f k env s = s := by
  refine if_neg ?_
  simp only [Bool.and_eq_true, beq_iff_eq]
  rintro ⟨⟨⟨-, hall⟩, hf⟩, hnow⟩
  obtain h | h | h := h
  · exact h hf
  · exact h hnow
  · exact Bool.false_ne_true (h.symm.trans hall)

end

/-! ## Section starts (R120, R187) -/

/-- The panel in a section whose first stitch has come: its stream cores go on. -/
def sectionEntered (s : State) : State :=
  (siteDies s).foldl (fun t d => (List.range 4).foldl (fun t k =>
    modClu d k (cluEnter (budget t) t.pat.first (dieOf t d).count) t) t) { s with pat := { s.pat with inSect := true } }

/-- What every step of a fold keeps, the fold keeps. -/
theorem apply_foldl {α β : Type} (p : State → α) {g : State → β → State} (h : ∀ t b, p (g t b) = p t) (l : List β) (s : State) :
    p (l.foldl g s) = p s := by
  induction l generalizing s with
  | nil => rfl
  | cons b l ih => exact (ih (g s b)).trans (h s b)

/-- What changes of clusters keep, kept where every cluster of every site is changed. -/
theorem apply_sectionEntered {α : Type} (p : State → α) (h : ∀ d k g t, p (modClu d k g t) = p t) (s : State) :
    p (sectionEntered s) = p { s with pat := { s.pat with inSect := true } } :=
  apply_foldl p (fun t d => apply_foldl p (fun u k => h d k _ u) _ t) _ _

theorem startSection_eq (hrun : s.pat.running.isSome = true) (hact : s.rnd.active = true) (hsect : s.pat.inSect = false)
    (hnow : stitchNow s = s.pat.first) :
    startSection s = leanNow 0 (if modeDue s.pat.first (sectionEntered s) then swapAtTarget (sectionEntered s) else sectionEntered s) := by
  simp only [startSection, hrun, hact, hsect, beq_iff_eq.2 hnow, Bool.not_false, Bool.and_self, if_true]
  rfl

/-- No change of mode is due where no swap is pending. -/
theorem modeDue_of_no_swap {t : BitVec 48} (h : s.swp = none) : modeDue t s = false := by
  simp only [modeDue, h]

theorem leanNow_of_not_due (how : W32) (h : s.pwr.leanDue = false) : leanNow how s = s := by
  rw [leanNow, h, if_neg Bool.false_ne_true]

/-! ## Timeouts (R200) -/

/-- The live sites whose arrival has not come. -/
def lateSites (s : State) : List Nat := (siteDies s).filter fun d => dieLive s d && !s.lode.arrivals.contains d

theorem knotTimeout_eq (hrun : s.pat.running.isSome = true) (hsect : s.pat.inSect = true) (hact : s.rnd.active = true)
    (hlate : lateSites s ≠ []) (hlimit : (stitchNow s - s.pat.first).toNat = knotLimit (runImg s) s.pat.sect) :
    knotTimeout s = abortPatternFault ((lateSites s).foldl (fun t d => addPatFault d (ktoRec t d) t) s) := by
  have hsome : (lateSites s).isEmpty = false := List.isEmpty_eq_false_iff.2 hlate
  unfold lateSites at hsome ⊢
  simp only [knotTimeout, hrun, hsect, hact, hsome, hlimit, beq_self_eq_true, Bool.not_false, Bool.and_self, if_true]

/-- A fire commits no swap but a change of mode. -/
theorem modeCommit_of_no_mode (n : BitVec 48) (h : ∀ w m, s.swp = some w → w.kind ≠ .mode m) : modeCommit n s = s := by
  unfold modeCommit
  split
  next w hw =>
    split
    next m hm => exact absurd hm (h w m hw)
    next => rfl
  next => rfl

end

/-- Settles O42: each event is the case of its operation that its premises select.  The stitch of a set section's knot rests on log entry 137,
and that a knot does nothing outside its stitch is the model's choice (log entry 149). -/
theorem knotEvents : Obligations.KnotEvents := by
  refine ⟨fun s hrun => ⟨fun d k hd hsect hk harr hlater => ?arrive, fun f k env hsect hact hk hall hf hnow => ?fire,
    fun f k env h => ?noFire, fun hact hsect hnow => ?start, fun hsect hact hlate hlimit => ?timeout⟩,
    fun s n h => modeCommit_of_no_mode n h, fun b f c x => rfl⟩
  case arrive =>
    have heq := arriveAt_eq hrun hsect hk harr hlater
    refine ⟨fun hin => done_of_wf hd ?_, fun hout => done_of_wf hd ?_⟩
    · exact heq.trans (if_pos (decide_eq_true hin))
    · exact heq.trans (if_neg (by simpa [inLimit] using hout))
  case fire =>
    have heq := fireKnot_eq (env := env) hrun hsect hact hk hall hf hnow
    refine ⟨fun hinner => done_of_wf rfl (congrArg duties ?_), fun hlast => done_of_wf rfl (congrArg duties ?_)⟩
    · exact heq.trans (if_neg hinner)
    · exact heq.trans (if_pos hlast)
  case noFire => exact done_of_wf rfl (congrArg duties (fireKnot_idle h))
  case start =>
    have heq := startSection_eq hrun hact hsect hnow
    refine ⟨done_of_wf rfl heq, fun hlean hswp => done_of_wf rfl ?_⟩
    have hmode : modeDue s.pat.first (sectionEntered s) = false :=
      modeDue_of_no_swap ((apply_sectionEntered State.swp (fun _ _ _ _ => rfl) s).trans hswp)
    have hpwr : (sectionEntered s).pwr = s.pwr := apply_sectionEntered State.pwr (fun _ _ _ _ => rfl) s
    rw [heq, hmode, if_neg Bool.false_ne_true]
    exact leanNow_of_not_due 0 (by rw [hpwr]; exact hlean)
  case timeout => exact done_of_wf rfl (congrArg duties (knotTimeout_eq hrun hsect hact hlate hlimit))

end Sys2Proof.Machine
end

section
/-! PROOF. Lost timing links and sync path switches (R157, R267, R268, R315, R487): what a die does whose timing link is lost, by whether
the link comes back, another can be taken, or none is left. -/

namespace Sys2Proof.Machine

open Sys2Proof

section

variable {s : State} {d : Nat} (rep : RepairEnv)

/-- A die that runs on its own oscillator (R157). -/
def holdsOver (d : Nat) (s : State) : State := modDie d (fun x => { x with holdover := true }) s

theorem timingLost_retraining : timingLost d true rep s = holdsOver d s := rfl

/-- A die whose link is lost takes the alternative that it has. -/
theorem timingLost_of_alt {p : Nat} (h : altTiming s d = some p) :
    timingLost d false rep s = modDie d (fun x => { x with holdover := false, tport := some p }) s := by
  simp only [timingLost, timingLinkLost, h, Bool.false_eq_true, if_false, if_true]

/-- A die with no timing link left holds over and is treated as a silent one, by what kind of die it is. -/
theorem timingLost_of_none (h : altTiming s d = none) :
    timingLost d false rep s =
      if d < 144 then dieSilent (d / 12) (d % 12) rep (holdsOver d s)
      else if d < 216 then duties (stackOut (dieCourse d) (dieCol d) .baseDie rep (holdsOver d s))
      else modGrid (fun g => { g with silent := setIns d g.silent }) (holdsOver d s) := by
  simp only [timingLost, timingLinkLost, h, Bool.false_eq_true, if_false, holdsOver]

end

/-- Settles O40: the three outcomes of a lost link are the three cases of its operation, and a switch of trunks is its operation. -/
theorem timingPaths : Obligations.TimingPaths := by
  intro d rep s hd alone
  refine ⟨?retrains, fun p halt => ?takes, fun hnone => ⟨fun hsite => ?site, fun hlow hstack => ?stack, fun hring => ?ring⟩, ?switch⟩
  case retrains => exact done_of_wf hd (timingLost_retraining rep)
  case takes => exact done_of_wf hd (timingLost_of_alt rep halt)
  case site => exact done_of_wf hd ((timingLost_of_none rep hnone).trans (if_pos hsite))
  case stack =>
    refine done_of_wf hd ((timingLost_of_none rep hnone).trans ?_)
    rw [if_neg (Nat.not_lt.2 hlow), if_pos hstack]
    rfl
  case ring =>
    refine done_of_wf hd ((timingLost_of_none rep hnone).trans ?_)
    rw [if_neg (by omega), if_neg (Nat.not_lt.2 hring)]
    rfl
  case switch => exact done_of_wf hd rfl

end Sys2Proof.Machine
end

section
/-! PROOF. Events, responses and vectors reach hosts only (R413, R418, R429): they change the functions and what the panel has emitted, and
leave the rest of the state as it was. -/

namespace Sys2Proof.Machine

open Sys2Proof

/-- Nothing differs but the functions and what has been emitted. -/
def OnlyHosts (s t : State) : Prop := ∃ fns out, t = { s with fns := fns, out := out }

theorem OnlyHosts.refl (s : State) : OnlyHosts s s := ⟨s.fns, s.out, rfl⟩

theorem OnlyHosts.trans {s t u : State} (h : OnlyHosts s t) (h' : OnlyHosts t u) : OnlyHosts s u := by
  obtain ⟨_, _, rfl⟩ := h
  obtain ⟨fns, out, rfl⟩ := h'
  exact ⟨fns, out, rfl⟩

/-- What looks neither at the functions nor at the emissions is kept. -/
theorem OnlyHosts.apply {α : Type} {s t : State} (h : OnlyHosts s t) (p : State → α)
    (hp : ∀ fns out, p { s with fns := fns, out := out } = p s) : p t = p s := by
  obtain ⟨fns, out, rfl⟩ := h
  exact hp fns out

theorem onlyHosts_modFn (f : Nat) (g : Func → Func) (s : State) : OnlyHosts s (modFn f g s) := ⟨_, _, rfl⟩

theorem onlyHosts_emit (e : Emission) (s : State) : OnlyHosts s (emit e s) := ⟨_, _, rfl⟩

/-- A fold of what reaches hosts only. -/
theorem onlyHosts_foldl {α : Type} {g : State → α → State} (hg : ∀ t a, OnlyHosts t (g t a)) (l : List α) (s : State) :
    OnlyHosts s (l.foldl g s) := by
  induction l generalizing s with
  | nil => exact .refl s
  | cons a l ih => exact (hg s a).trans (ih (g s a))

theorem onlyHosts_sendVec (f v : Nat) (s : State) : OnlyHosts s (sendVec f v s) := by
  unfold sendVec
  dsimp only
  split
  · exact .refl s
  · split
    · exact onlyHosts_modFn ..
    · split
      · exact onlyHosts_modFn ..
      · exact onlyHosts_emit ..

theorem onlyHosts_eventQuiet (f ty : Nat) (late : Bool) (data : W32) (s : State) : OnlyHosts s (eventQuiet f ty late data s) := by
  unfold eventQuiet
  dsimp only
  split
  · exact .refl s
  · split
    · exact onlyHosts_modFn ..
    · exact (onlyHosts_modFn ..).trans (onlyHosts_modFn ..)

theorem onlyHosts_event (f ty : Nat) (late : Bool) (data : W32) (s : State) : OnlyHosts s (event f ty late data s) := by
  have hquiet := onlyHosts_eventQuiet f ty late data s
  unfold event
  dsimp only
  split
  · exact hquiet
  · split
    · exact (hquiet.trans (onlyHosts_modFn ..)).trans (onlyHosts_sendVec ..)
    · exact hquiet.trans (onlyHosts_sendVec ..)

theorem onlyHosts_eventPf (ty : Nat) (data : W32) (s : State) : OnlyHosts s (eventPf ty data s) :=
  (onlyHosts_event ..).trans (onlyHosts_event ..)

theorem onlyHosts_bulkOut (q : MbReq) (r : Rsp) (s : State) : OnlyHosts s (bulkOut q r s) := by
  unfold bulkOut
  split
  · exact .refl s
  · split
    · exact onlyHosts_emit ..
    · exact .refl s

theorem onlyHosts_respond (op : Nat) (q : MbReq) (r : Rsp) (s : State) : OnlyHosts s (respond op q r s) := by
  unfold respond
  dsimp only
  split
  · exact onlyHosts_modFn ..
  · have hbulk := onlyHosts_bulkOut q r s
    split
    · exact hbulk.trans ((onlyHosts_modFn ..).trans (onlyHosts_modFn ..))
    · exact (hbulk.trans ((onlyHosts_modFn ..).trans (onlyHosts_modFn ..))).trans (onlyHosts_sendVec ..)

theorem onlyHosts_finishLongs (p : LongOp → Bool) (r : LongOp → State → Rsp) (s : State) : OnlyHosts s (finishLongs p r s) := by
  refine onlyHosts_foldl (fun t f => ?_) _ s
  split
  · exact onlyHosts_respond ..
  · exact .refl t

end Sys2Proof.Machine
end

section
/-! PROOF. The events of a pending swap (R190, R192, R193, R436) and timers that fire (R189): what each event leaves when it acts, and that
it does nothing at another stitch or once the swap has gone on. -/

namespace Sys2Proof.Machine

open Sys2Proof

/-! ## What a refused swap leaves -/

theorem modDies_pat (l : List Nat) (f : Die → Die) (s : State) : (modDies l f s).pat = s.pat := by
  obtain ⟨ds, h⟩ := exists_modDies_eq l f s
  rw [h]

/-- A refused swap leaves the pattern as it was. -/
theorem refuseSwap_pat (l : List (Nat × Nat)) (s : State) : (refuseSwap l s).pat = s.pat := by
  have hunstage : ∀ w, (unstageMode w s).pat = s.pat := by
    intro w
    unfold unstageMode
    split
    · exact modDies_pat ..
    · rfl
  unfold refuseSwap
  split
  · rfl
  next w _ =>
    rw [(onlyHosts_finishLongs ..).apply State.pat fun _ _ => rfl]
    dsimp only
    rw [modDies_pat, hunstage]

section

variable {s : State}

/-- While a pattern runs, the change of a window waits for a round boundary. -/
theorem windowNow_running (h : s.pat.running.isSome = true) : windowNow s = s := by
  rw [windowNow, if_neg (by simpa using Option.isSome_iff_ne_none.1 h)]

theorem windowNow_idle (h : s.pat.running = none) : windowNow s = windowSwap s := by
  rw [windowNow, if_pos (by simp [h])]

/-- Where every die has armed, none is found unarmed. -/
theorem unarmed_eq_nil (hall : allArmed s = true) : ((liveDies s).filter fun d => (dieOf s d).arm != .armed) = [] := by
  simpa [allArmed, List.filter_eq_nil_iff] using hall

/-- The live dies that have not received the swap frame. -/
abbrev missedSwap (s : State) : List Nat := (liveDies s).filter fun d => (dieOf s d).swapGot.isNone

end

section

variable {s : State} {w : Swap} (hw : s.swp = some w)

include hw

/-! ## Answers to arming (R190, R193) -/

section

variable {d : Nat} (hlive : dieLive s d = true) (hidle : (dieOf s d).arm = .idle) (hsent : w.sent = false) (hover : armOver s w = false)

include hlive hidle hsent hover

/-- An answer in time, by what it says. -/
theorem armAnswer_eq (ready : Bool) :
    armAnswer d ready s = if ready then
        { modDie d (fun x => { x with arm := .armed }) s with swp := some { w with armed := setIns d w.armed } }
      else refuseSwap [(d, 2)] s := by
  simp only [armAnswer, hw, hlive, hidle, hsent, hover, Bool.not_true, bne_self_eq_false, Bool.or_self, Bool.false_eq_true, if_false]

end

/-- A swap that changes no window waits for no round boundary. -/
theorem windowSwap_of_other (hkind : ∀ t, w.kind ≠ .window t) : windowSwap s = s := by
  unfold windowSwap
  rw [hw]
  dsimp only
  split
  next t ht => exact absurd ht (hkind t)
  next => rfl

/-- A die that stays silent past the time for answers has the swap refused. -/
theorem armTimeout_eq (hsent : w.sent = false) (hall : allArmed s = false) (hover : armOver s w = true) :
    armTimeout s = refuseSwap (((liveDies s).filter fun d => (dieOf s d).arm != .armed).map fun d => (d, 1)) s := by
  simp only [armTimeout, hw, hsent, hall, hover, Bool.not_true, Bool.or_self, Bool.false_eq_true, if_false]

/-! ## Nacks, withholding and the swap frame (R190, R193) -/

/-- A nack counts while the swap can be withheld: before stitch T - 2, or for a MODE_SET before its commit. -/
theorem nack_counts {d : Nat} (hlive : dieLive s d = true)
    (hopen : w.sent = true ∧ 2 < toTarget s (w.target.getD 0) ∨ w.sent = false ∧ ∃ m, w.kind = .mode m) :
    nack d s = { s with lode := { s.lode with nacks := setIns d s.lode.nacks } } := by
  simp only [nack, hw, hlive, Bool.true_and]
  obtain ⟨hsent, hfar⟩ | ⟨hsent, m, hmode⟩ := hopen
  · simp only [hsent, hfar, if_true, decide_true]
  · simp only [hsent, hmode, Bool.false_eq_true, if_false, if_true]

theorem swapFrame_sent {t : BitVec 48} (ht : w.target = some t) (hsent : w.sent = false) (hall : allArmed s = true)
    (h8 : toTarget s t = 8) :
    swapFrame t s = { s with
      dies := (modDies (liveDies s) (fun x => { x with swapGot := some t }) s).dies, swp := some { w with sent := true } } := by
  obtain ⟨ds, hds⟩ := exists_modDies_eq (liveDies s) (fun x => { x with swapGot := some t }) s
  simp only [swapFrame, sendSwap, hw, ht, hsent, hall, h8, unarmed_eq_nil hall, beq_self_eq_true, Bool.not_false, Bool.and_self, if_true,
    List.foldl_nil, hds]

/-- No swap frame goes out for another target, a second time, before every die has armed, or in another stitch than T - 8. -/
theorem swapFrame_idle {t : BitVec 48} (h : w.target ≠ some t ∨ w.sent = true ∨ allArmed s = false ∨ toTarget s t ≠ 8) :
    swapFrame t s = s := by
  simp only [swapFrame, hw]
  refine if_neg ?_
  simp only [Bool.and_eq_true, beq_iff_eq, Bool.not_eq_true']
  rintro ⟨⟨⟨ht, hsent⟩, hall⟩, h8⟩
  simp [ht, hsent, hall, h8] at h

theorem withhold_eq {t : BitVec 48} (hsent : w.sent = true) (ht : w.target = some t) (hnack : s.lode.nacks ≠ [])
    (h2 : toTarget s t = 2) :
    withhold t s = { s with
      dies := (modDies (liveDies s) (fun x => { x with withheld := true }) s).dies, swp := some { w with withheld := true } } := by
  obtain ⟨ds, hds⟩ := exists_modDies_eq (liveDies s) (fun x => { x with withheld := true }) s
  have hsome : s.lode.nacks.isEmpty = false := List.isEmpty_eq_false_iff.2 hnack
  simp only [withhold, hw, hsent, ht, hsome, h2, beq_self_eq_true, Bool.not_false, Bool.and_self, if_true, hds]

/-! ## The target stitch (R190, R192) -/

theorem swapAtTarget_idle (h : w.sent = false ∨ w.target ≠ some (stitchNow s)) : swapAtTarget s = s := by
  simp only [swapAtTarget, hw]
  exact if_pos (by simpa using h)

section

variable (hsent : w.sent = true) (ht : w.target = some (stitchNow s))

include hsent ht

/-- A nack or a withhold refuses the swap. -/
theorem swapAtTarget_refuses (h : w.withheld = true ∨ s.lode.nacks ≠ []) :
    swapAtTarget s = refuseSwap (s.lode.nacks.map fun d => (d, 3)) s := by
  have hrefuse : (w.withheld || !s.lode.nacks.isEmpty) = true := by simpa using h
  simp only [swapAtTarget, hw, hsent, ht, hrefuse, Bool.not_true, bne_self_eq_false, Bool.or_self, Bool.false_eq_true, if_false, if_true]

/-- Without nack or withhold the dies swap, all of them or those that the frame has reached. -/
theorem swapAtTarget_swaps (hheld : w.withheld = false) (hnack : s.lode.nacks = []) :
    swapAtTarget s = if (missedSwap s).isEmpty then doSwap s else partSwap (stitchNow s) (missedSwap s) s := by
  simp only [swapAtTarget, hw, hsent, ht, hheld, hnack, Bool.not_true, bne_self_eq_false, Bool.or_self, Bool.false_eq_true, if_false,
    List.isEmpty_nil, Option.getD_some]

end

end

/-! ## Timers (R189) -/

/-- A timer that is set fires in its target stitch and no other. -/
theorem timerFire_eq {s : State} {f t : Nat} {target : BitVec 48} (h : tabGet none (fnOf s f).timers t = some target) :
    timerFire f t false s = if target = stitchNow s then
      event f 1 false (BitVec.ofNat 32 t) (modFn f (fun x => { x with timers := tabPut none x.timers t none }) s) else s := by
  simp only [timerFire, h, Bool.false_or, beq_iff_eq]

/-- Settles O41: each event is the case of its operation that its premises select.  That a swap, its frame, a withhold or a timer does nothing
at another stitch is the model's choice (log entry 149). -/
theorem swapEvents : Obligations.SwapEvents := by
  refine ⟨fun s w d hw hd => ⟨fun hlive hidle hsent hover => ?answer, fun hlive hopen => ?nack⟩,
    fun s w hw => ⟨fun hsent hall hover => ?timeout, fun t ht hsent hall h8 => ?frame, fun t h => ?noFrame,
      fun t hsent ht hnack h2 => ?withhold, fun h => ?noSwap, fun hsent ht => ?target⟩,
    fun t x => rfl, fun s f t target hf htimer h => ?timer⟩
  case answer =>
    have heq := armAnswer_eq hw hlive hidle hsent hover
    refine ⟨fun h => done_of_wf hd ?_, fun hrun => done_of_wf hd ?_, fun hrun => done_of_wf hd ?_⟩
    · rw [heq true, if_pos rfl]
      cases hrun : s.pat.running with
      | some b => exact windowNow_running (by simp [hrun])
      | none =>
        rw [windowNow_idle (by simp [hrun])]
        exact windowSwap_of_other rfl (h.resolve_left (by simp [hrun]))
    · rw [heq true, if_pos rfl]
      exact windowNow_idle hrun
    · rw [heq false, if_neg Bool.false_ne_true]
      exact windowNow_running (by rwa [refuseSwap_pat])
  case nack => exact done_of_wf hd (nack_counts hw hlive hopen)
  case timeout => exact done_of_wf rfl (armTimeout_eq hw hsent hall hover)
  case frame => exact done_of_wf rfl (swapFrame_sent hw ht hsent hall h8)
  case noFrame => exact done_of_wf rfl (swapFrame_idle hw h)
  case withhold => exact done_of_wf rfl (withhold_eq hw hsent ht hnack h2)
  case noSwap => exact done_of_wf rfl (swapAtTarget_idle hw h)
  case target =>
    intro missed got old swapped some_ back
    refine ⟨fun h => done_of_wf rfl (swapAtTarget_refuses hw hsent ht h), fun hheld hnack hall => done_of_wf rfl ?_,
      fun hheld hnack hsome => done_of_wf rfl ?_⟩
    · rw [swapAtTarget_swaps hw hsent ht hheld hnack, if_pos (List.isEmpty_iff.2 hall)]
      simp only [doSwap, hw, ht, Option.getD_some]
      rfl
    · rw [swapAtTarget_swaps hw hsent ht hheld hnack, if_neg (mt List.isEmpty_iff.1 hsome)]
      simp only [partSwap, hw, Option.map_some, Option.getD_some]
      rfl
  case timer =>
    have hwf : (Instr.timerFire f t).wf = true := Bool.and_eq_true_iff.2 ⟨hf, decide_eq_true htimer⟩
    exact ⟨fun hnow => done_of_wf hwf ((timerFire_eq h).trans (if_pos hnow)),
      fun hother => done_of_wf hwf ((timerFire_eq h).trans (if_neg hother))⟩

end Sys2Proof.Machine
end

section
/-! PROOF. FAULT, ABORT and TBS frames (R163, R177, R225, R266, R363) and the end of a wait for pages (R352): which abort each brings
about. -/

namespace Sys2Proof.Machine

open Sys2Proof

section

variable {s : State}

/-- The state in which a poisoned session of a list that is in use has failed, and its owner has been told (R363). -/
def poisonedFailed (bad : List Nat) (s : State) : State :=
  let live := bad.filter fun i => (sessOf s i).state != .free
  raiseOwners (live.map fun i => (sessOf s i).tenant) (live.foldl (fun t i => failSession i t) s)

/-- ABORT aborts as a pattern fault, stops the pattern, or aborts as a hardware cause, by its cause (R266). -/
theorem abortFrame_eq (c : BitVec 12) (bad : List Nat) :
    abortFrame c bad s =
      if c = 1 then abortPatternFault (poisonedFailed bad s)
      else if c = 4 then stopPattern (poisonedFailed bad s) else abortRound c.toNat (poisonedFailed bad s) := by
  have h1 : c = 1 ↔ c.toNat = 1 := (BitVec.toNat_inj (y := 1)).symm
  have h4 : c = 4 ↔ c.toNat = 4 := (BitVec.toNat_inj (y := 4)).symm
  rw [if_congr h1 rfl rfl, if_congr h4 rfl rfl]
  unfold abortFrame
  dsimp only
  split
  next hc => rw [if_pos hc]; rfl
  next hc => rw [if_neg (by omega), if_pos hc]; rfl
  next hne1 hne4 => rw [if_neg hne1, if_neg hne4]; rfl

/-! ## The stall limit (R177) -/

theorem stalled_iff : stalled s = true ↔ s.lode.frozen = true ∨ 2000000 ≤ s.lode.stall := by
  rw [stalled, Bool.or_eq_true, decide_eq_true_iff]
  rfl

/-- The state in which TBS is counted and recorded at the lodestar, and the tick hold has ended. -/
def tbsRecorded (s : State) : State :=
  cancelHold (addFault (anchorDie s) { code := 0x14, stop := s.pat.tbsReplay }
    (modDie (anchorDie s) (fun x => { x with tbCounts := cntInc x.tbCounts 0x14 }) s))

/-- TBS in a stitch that has reached the stall limit stops a replay and aborts a first attempt. -/
theorem tbsFault_stalled (h : stalled s = true) :
    tbsFault s = if s.pat.tbsReplay then stopOnFault (tbsRecorded s) else
      { abortRound 2 (tbsRecorded s) with pat := { (abortRound 2 (tbsRecorded s)).pat with tbsReplay := true } } := by
  simp only [tbsFault, h, Bool.not_true, Bool.false_eq_true, if_false, tbsRecorded]

theorem tbsFault_idle (h : stalled s = false) : tbsFault s = s := by
  simp only [tbsFault, h, Bool.not_false, if_true]

/-! ## Waits for pages (R352) -/

theorem pageTimeout_eq {t : Nat} {tag : W64} {r : Req}
    (h : (s.rnd.reqs.find? fun x => x.tenant == t && x.d.usertag == tag && x.waitPages) = some r) :
    pageTimeout t tag s = flushCq (finishReq r stNoSpace 0 s) := by
  simp only [pageTimeout, h]

end

/-- Settles O43: each frame is the case of its operation that its code, its cause or the stall of the stitch selects.  That TBS acts during a
freeze rests on log entry 134. -/
theorem abortEvents : Obligations.AbortEvents := by
  intro s
  refine ⟨fun d c hwf => done_of_wf hwf rfl, fun c l hwf => done_of_wf hwf (congrArg duties (abortFrame_eq c l)), ?tbs,
    fun t tag r ht hr => done_of_wf (decide_eq_true ht) (pageTimeout_eq hr)⟩
  case tbs =>
    refine ⟨fun hlong hreplay => done_of_wf rfl (congrArg duties ?_), fun hlong hfirst => done_of_wf rfl (congrArg duties ?_),
      fun hshort => done_of_wf rfl (congrArg duties ?_)⟩
    · exact (tbsFault_stalled (stalled_iff.2 hlong)).trans (if_pos hreplay)
    · exact (tbsFault_stalled (stalled_iff.2 hlong)).trans (if_neg (Bool.eq_false_iff.1 hfirst))
    · exact tbsFault_idle (Bool.eq_false_iff.2 (mt stalled_iff.1 hshort))

end Sys2Proof.Machine
end

section
/-! PROOF. HEALTH_READ and POWER_READ (R195, R437, R438): what an accepted command answers. -/

namespace Sys2Proof.Machine

open Sys2Proof

/-- A scope of HEALTH_READ that exists (R438): the panel, a die, a link end or a course. -/
def scopeExists (scope port index : Nat) : Prop :=
  scope = 0 ∨ scope = 1 ∧ index < numDies ∨ scope = 2 ∧ index < numDies ∧ port ≤ 5 ∧ (peer index port).isSome = true ∨
    scope = 3 ∧ index < 12

/-- HEALTH_READ of a scope that exists answers its records. -/
theorem healthReadImm_of_exists (q : MbReq) {p : List Byte} {scope port index : Nat} (t : State) (hscope : par p 0 1 = scope)
    (hport : par p 1 1 = port) (hindex : par p 2 2 = index) (h : scopeExists scope port index) :
    let r := scopeRecords t scope port index
    healthReadImm q p t = ({ okRsp [(0, natLe 4 r.2.length), (4, natLe 1 (b2n t.hlt.stale)),
        (8, natLe 4 ((refNow t - t.hlt.scoredAt).toNat / 2000000))] with bulk := some r.2.flatten },
      modDies r.1 (fun x => { x with phaseMax := 0 }) t) := by
  simp only [healthReadImm, hscope, hport, hindex]
  refine checked_pass _ _ fun c hc => ?_
  simp only [List.mem_cons, List.not_mem_nil, or_false] at hc
  obtain rfl | ⟨rfl, hi⟩ | ⟨rfl, hi, hp, hpeer⟩ | ⟨rfl, hi⟩ := h
  · obtain rfl | rfl | rfl | rfl | rfl := hc <;> rfl
  · obtain rfl | rfl | rfl | rfl | rfl := hc <;> simp [hi]
  · obtain rfl | rfl | rfl | rfl | rfl := hc <;> simp [hi, hp, hpeer]
  · obtain rfl | rfl | rfl | rfl | rfl := hc <;> simp [hi]

/-- POWER_READ answers from the state before take-up, and counts one reading of the sensors. -/
theorem powerReadImm_takenUp (q : MbReq) (s : State) :
    let rd := fun i => natLe 2 (Config.reading s.free i)
    powerReadImm q (params []) (takenUp 0x41 q [] s) = ({ okRsp [
        (0, natLe 4 s.pwr.draws.panel), (4, natLe 4 s.pwr.hostCap), (8, natLe 4 (effectiveCap s)), (0xC, natLe 1 (modeCode s.lode.mode)),
        (0xD, natLe 1 (b2n s.pwr.warn)), (0x10, (List.range 12).flatMap fun c => rd (576 + c)),
        (0x28, (List.range 12).flatMap fun c => rd (588 + c))] with
        bulk := some ((List.range 576).flatMap fun i => natLe 2 (railOf s (i / 4) (i % 4)) ++ rd i) },
      { takenUp 0x41 q [] s with free := s.free + 1 }) := by
  have hon : ∀ d, siteOn (takenUp 0x41 q [] s) d = siteOn s d := fun d => apply_takenUp (siteOn · d) _ q [] s fun _ _ _ => rfl
  have hpoint : ∀ d, setPoint (takenUp 0x41 q [] s) d = setPoint s d := fun d =>
    apply_takenUp (setPoint · d) _ q [] s fun _ _ _ => by simp only [setPoint, dieOf]
  have hclu : ∀ d k, cluOf (takenUp 0x41 q [] s) d k = cluOf s d k := fun d k =>
    apply_takenUp (cluOf · d k) _ q [] s fun _ _ _ => rfl
  have hrail : ∀ d k, railOf (takenUp 0x41 q [] s) d k = railOf s d k := fun d k => by
    simp only [railOf, hon, hpoint, hclu]
  have hcap : effectiveCap (takenUp 0x41 q [] s) = effectiveCap s := apply_takenUp effectiveCap _ q [] s fun _ _ _ => rfl
  have hpwr : (takenUp 0x41 q [] s).pwr = s.pwr := apply_takenUp State.pwr _ q [] s fun _ _ _ => rfl
  have hlode : (takenUp 0x41 q [] s).lode = s.lode := apply_takenUp State.lode _ q [] s fun _ _ _ => rfl
  simp only [powerReadImm, free_takenUp, hrail, hcap, hpwr, hlode]

/-- Settles O20: each command is its immediate meaning in the state in which it is taken up.  That the sensor readings are fresh free values
rests on log entry 19. -/
theorem mailboxSensors : Obligations.MailboxSensors := by
  intro q s hfn
  refine ⟨?health, fun ha => ?power⟩
  case health =>
    intro scope port index l t r ha hexists
    have hscope : par (params l) 0 1 = scope.toNat := par_params (by simp [l]) (by simp [l]) (by simp [l]) scope.isLt
    have hport : par (params l) 1 1 = port.toNat := par_params (by simp [l]) (by simp [l]) (by simp [l]) port.isLt
    have hindex : par (params l) 2 2 = index.toNat := par_params (by simp [l]) (by simp [l]) (by simp [l]) index.isLt
    have hscopes : scopeExists scope.toNat port.toNat index.toNat := by
      obtain rfl | ⟨rfl, hi⟩ | ⟨rfl, hi, hp, hpeer⟩ | ⟨rfl, hi⟩ := hexists
      · exact .inl rfl
      · exact .inr (.inl ⟨rfl, hi⟩)
      · exact .inr (.inr (.inl ⟨rfl, hi, hp, hpeer⟩))
      · exact .inr (.inr (.inr ⟨rfl, hi⟩))
    have himm := healthReadImm_of_exists q t hscope hport hindex hscopes
    have href : refNow t = refNow s := apply_takenUp refNow _ q l s fun _ _ _ => rfl
    have hscored : t.hlt.scoredAt = s.hlt.scoredAt := rfl
    rw [href, hscored] at himm
    exact exec_of_accepted (f := healthReadImm) rfl rfl (by omega) (by omega) hfn ha himm
  case power => exact exec_of_accepted (f := powerReadImm) rfl rfl (by omega) (by omega) hfn ha (powerReadImm_takenUp q s)

end Sys2Proof.Machine
end

section
/-! PROOF. Mailbox commands that set limits and policies (R189, R393, R437, R439, R446, R447): what an accepted command applies and answers,
by its parameters. -/

namespace Sys2Proof.Machine

open Sys2Proof

section

variable (q : MbReq) {p : List Byte} (s : State)

/-- POWER_CAP_SET (R437). -/
theorem powerCapImm_eq {cap : Nat} (hcap : par p 0 4 = cap) :
    let c := min 11500 (max 2500 cap)
    let u := setHostCap c s
    powerCapImm q p s = (applied (c == cap) [(0, natLe 4 c), (4, natLe 4 (effectiveCap u)), (8, natLe 4 u.thm.cap)], u) := by
  simp only [powerCapImm, hcap, clampTo]

/-- COOLANT_REPORT (R437). -/
theorem coolantImm_eq {tmem tcmp : W16} (hmem : par p 0 2 = tmem.toNat) (hcmp : par p 2 2 = tcmp.toNat) :
    let a := max 500 (min 5500 tmem.toInt)
    let b := max 500 (min 5500 tcmp.toInt)
    let u := reportCap (setCaps (modThm (fun y => { y with tmem := a, tcmp := b }) s))
    coolantImm q p s = (applied (a == tmem.toInt && b == tcmp.toInt) [(0, intLe 2 a), (2, intLe 2 b), (4, natLe 4 (milliK (resM u))),
      (8, natLe 4 (milliK (resC u))), (0xC, natLe 4 u.thm.cap)], u) := by
  simp only [coolantImm, hmem, hcmp, coolantReport, clampInlet, BitVec.ofNat_toNat, BitVec.setWidth_eq]

/-- REPAIR_POLICY_SET with a code in range (R439). -/
theorem repairPolicyImm_eq {impaired scoremin repeats : Nat} (himp : par p 0 1 = impaired) (hmin : par p 1 1 = scoremin)
    (hrep : par p 2 1 = repeats) (hcode : impaired ≤ 1) :
    let r := min 255 (max 1 repeats)
    repairPolicyImm q p s = (applied (r == repeats) [(0, natLe 1 impaired), (1, natLe 1 scoremin), (2, natLe 1 r)],
      { s with hlt := { s.hlt with impaired := impaired, scoreMin := scoremin, repeats := r } }) := by
  simp only [repairPolicyImm, himp, hmin, hrep, clampTo]
  exact checked_pass _ _ (by simpa using hcode)

/-- SHAPER_SET of a tenant and a shaper that exist (R391, R393). -/
theorem shaperSetImm_eq {tenant shaper rate depth : Nat} (hten : par p 0 1 = tenant) (hsh : par p 1 1 = shaper) (hrate : par p 4 4 = rate)
    (hdepth : par p 8 4 = depth) (htenant : tenant ≤ 63) (hshaper : shaper ≤ 1) :
    let r := clampRate rate
    let d := clampDepth depth
    let u := applyShaper tenant shaper r d s
    shaperSetImm q p s = (applied (r == rate && d == depth) [(4, natLe 4 r), (8, natLe 4 d),
      (0x10, intLe 8 (if shaper = 0 then (tenOf u tenant).prompt.bal else (tenOf u tenant).gener.bal))], u) := by
  simp only [shaperSetImm, hten, hsh, hrate, hdepth]
  exact checked_pass _ _ (by simpa using ⟨htenant, hshaper⟩)

section

variable {s} {timer : Nat} {at_ : BitVec 48} (htim : par p 0 1 = timer) (htar : BitVec.ofNat 48 (par p 8 8) = at_) (htimer : timer ≤ 7)

include htim htar htimer

/-- TIMER_ARM that disarms a timer (R189, R446). -/
theorem timerArmImm_disarms (hact : par p 1 1 = 1) :
    timerArmImm q p s = (okRsp [(0, natLe 1 (b2n false)), (8, timeBytes s)], setTimer q.fn timer none s) := by
  simp only [timerArmImm, htim, hact, htar]
  exact checked_pass _ _ (by simpa using htimer)

/-- TIMER_ARM with a target ahead. -/
theorem timerArmImm_arms (hact : par p 1 1 = 0) (hahead : (stitchAhead at_ (stitchNow s)).isNone = false) :
    timerArmImm q p s = (okRsp [(0, natLe 1 (b2n false)), (8, timeBytes s)], setTimer q.fn timer (some at_) s) := by
  simp only [timerArmImm, htim, hact, htar, hahead]
  exact checked_pass _ _ (by simpa using htimer)

/-- TIMER_ARM with a target that has passed fires at once. -/
theorem timerArmImm_fires (hact : par p 1 1 = 0) (hpast : (stitchAhead at_ (stitchNow s)).isNone = true) :
    timerArmImm q p s = (okRsp [(0, natLe 1 (b2n true)), (8, timeBytes s)],
      event q.fn 1 true (BitVec.ofNat 32 timer) (setTimer q.fn timer none s)) := by
  simp only [timerArmImm, htim, hact, htar, hpast]
  exact checked_pass _ _ (by simpa using htimer)

end

/-- The panel with another scrub period. -/
def scrubsEvery (period : Nat) (s : State) : State := { s with pmem := { s.pmem with period := period } }

/-- The panel with a stack that is being rebuilt (R323). -/
def rebuilds (c m : Nat) (s : State) : State :=
  let v := saveStackMap (modStack c m (fun y => { y with state := .rebuilding }) s)
  { v with pmem := { v.pmem with rebuild := some (c, m), rebuildRow := 0 } }

section

variable {s} {period rebuild c m : Nat} (hper : par p 0 2 = period) (hreb : par p 2 1 = rebuild) (hc : par p 3 1 = c) (hm : par p 4 1 = m)

include hper hreb hc hm

/-- MEMORY_SCRUB_SET that asks for no rebuild. -/
theorem scrubSetImm_period (hnone : rebuild = 0) :
    scrubSetImm q p s = (applied (min 720 period == period)
      [(0, natLe 2 (min 720 period)), (2, natLe 1 rebuild), (3, natLe 1 c), (4, natLe 1 m)], scrubsEvery (min 720 period) s) := by
  subst hnone
  simp only [scrubSetImm, hper, hreb, hc, hm]
  refine checked_pass _ _ fun x hx => ?_
  simp only [List.mem_cons, List.not_mem_nil, or_false] at hx
  obtain rfl | rfl | rfl | rfl | rfl := hx <;> rfl

/-- MEMORY_SCRUB_SET that asks for the rebuild of a stack that is out and trains, with no pattern running and no other rebuild. -/
theorem scrubSetImm_rebuild (hone : rebuild = 1) (hcourse : c ≤ 11) (hcol : m ≤ 5) (hout : (stackOf s c m).state = .out)
    (hfailed : s.pmem.failed.contains m = false) (hfree : s.pmem.rebuild = none) (hrun : s.pat.running = none)
    (htrains : q.env.trains = true) :
    scrubSetImm q p s = (applied (min 720 period == period)
      [(0, natLe 2 (min 720 period)), (2, natLe 1 rebuild), (3, natLe 1 c), (4, natLe 1 m)],
      rebuilds c m (scrubsEvery (min 720 period) s)) := by
  subst hone
  simp only [scrubSetImm, hper, hreb, hc, hm]
  refine checked_pass _ _ fun x hx => ?_
  simp only [List.mem_cons, List.not_mem_nil, or_false] at hx
  obtain rfl | rfl | rfl | rfl | rfl := hx
  · rfl
  · simpa using hcourse
  · simpa using hcol
  · simp only [hout, hfailed, hrun, htrains]
    rfl
  · simp only [hfree]
    rfl

end

end

theorem byte_eq_zero_iff (b : Byte) : b.toNat = 0 ↔ b = 0 := BitVec.toNat_inj (y := 0)

/-- Settles O21: each command is its immediate meaning in the state in which it is taken up, at the case that its parameters select. -/
theorem mailboxSettings : Obligations.MailboxSettings := by
  intro q s hfn
  refine ⟨?cap, ?coolant, ?policy, ?shaper, ?timer, ?scrub⟩
  case cap =>
    intro cap l c u ha
    have hcap : par (params l) 0 4 = cap.toNat := par_params (by simp [l]) (by simp [l]) (by simp [l]) cap.isLt
    exact exec_of_accepted (f := powerCapImm) rfl rfl (by omega) (by omega) hfn ha (powerCapImm_eq q _ hcap)
  case coolant =>
    intro tmem tcmp l a b u ha
    have hmem : par (params l) 0 2 = tmem.toNat := par_params (by simp [l]) (by simp [l]) (by simp [l]) tmem.isLt
    have hcmp : par (params l) 2 2 = tcmp.toNat := par_params (by simp [l]) (by simp [l]) (by simp [l]) tcmp.isLt
    exact exec_of_accepted (f := coolantImm) rfl rfl (by omega) (by omega) hfn ha (coolantImm_eq q _ hmem hcmp)
  case policy =>
    intro impaired scoremin repeats l r t ha hcode
    have himp : par (params l) 0 1 = impaired.toNat := par_params (by simp [l]) (by simp [l]) (by simp [l]) impaired.isLt
    have hmin : par (params l) 1 1 = scoremin.toNat := par_params (by simp [l]) (by simp [l]) (by simp [l]) scoremin.isLt
    have hrep : par (params l) 2 1 = repeats.toNat := par_params (by simp [l]) (by simp [l]) (by simp [l]) repeats.isLt
    exact exec_of_accepted (f := repairPolicyImm) rfl rfl (by omega) (by omega) hfn ha (repairPolicyImm_eq q t himp hmin hrep hcode)
  case shaper =>
    intro tenant shaper rate depth l r d u x ha htenant hshaper
    have hten : par (params l) 0 1 = tenant.toNat := par_params (by simp [l]) (by simp [l]) (by simp [l]) tenant.isLt
    have hsh : par (params l) 1 1 = shaper.toNat := par_params (by simp [l]) (by simp [l]) (by simp [l]) shaper.isLt
    have hrate : par (params l) 4 4 = rate.toNat := par_params (by simp [l]) (by simp [l]) (by simp [l]) rate.isLt
    have hdepth : par (params l) 8 4 = depth.toNat := par_params (by simp [l]) (by simp [l]) (by simp [l]) depth.isLt
    have himm := shaperSetImm_eq q (takenUp 0x62 q l s) hten hsh hrate hdepth htenant hshaper
    simp only [byte_eq_zero_iff] at himm
    exact exec_of_accepted (f := shaperSetImm) rfl rfl (by omega) (by omega) hfn ha himm
  case timer =>
    intro timer action target l t at_ put rsp ha htimer
    have htim : par (params l) 0 1 = timer.toNat := par_params (by simp [l]) (by simp [l]) (by simp [l]) timer.isLt
    have hact : par (params l) 1 1 = action.toNat := par_params (by simp [l]) (by simp [l]) (by simp [l]) action.isLt
    have htar : BitVec.ofNat 48 (par (params l) 8 8) = at_ :=
      congrArg (BitVec.ofNat 48) (par_params (by simp [l]) (by simp [l]) (by simp [l]) target.isLt)
    have htime : timeBytes t = timeBytes s := apply_takenUp timeBytes _ q l s fun _ _ _ => rfl
    have hnow : stitchNow t = stitchNow s := stitchNow_takenUp ..
    refine ⟨fun hoff => ?_, fun hon hahead => ?_, fun hon hpast => ?_⟩
    · have himm := timerArmImm_disarms q (s := t) htim htar htimer (hact.trans (congrArg BitVec.toNat hoff))
      rw [htime] at himm
      exact exec_of_accepted (f := timerArmImm) rfl rfl (by omega) (by omega) hfn ha himm
    · have himm := timerArmImm_arms q (s := t) htim htar htimer (hact.trans (congrArg BitVec.toNat hon)) (by simpa [hnow] using hahead)
      rw [htime] at himm
      exact exec_of_accepted (f := timerArmImm) rfl rfl (by omega) (by omega) hfn ha himm
    · have himm := timerArmImm_fires q (s := t) htim htar htimer (hact.trans (congrArg BitVec.toNat hon)) (by rwa [hnow])
      rw [htime] at himm
      exact exec_of_accepted (f := timerArmImm) rfl rfl (by omega) (by omega) hfn ha himm
  case scrub =>
    intro period rebuild course col l p t u rsp ha
    have hper : par (params l) 0 2 = period.toNat := par_params (by simp [l]) (by simp [l]) (by simp [l]) period.isLt
    have hreb : par (params l) 2 1 = rebuild.toNat := par_params (by simp [l]) (by simp [l]) (by simp [l]) rebuild.isLt
    have hcourse : par (params l) 3 1 = course.toNat := par_params (by simp [l]) (by simp [l]) (by simp [l]) course.isLt
    have hcol : par (params l) 4 1 = col.toNat := par_params (by simp [l]) (by simp [l]) (by simp [l]) col.isLt
    refine ⟨fun hnone => ?_, fun hone hc hm hout hfailed hfree hrun htrains => ?_⟩
    · have himm := scrubSetImm_period q (s := t) hper hreb hcourse hcol ((byte_eq_zero_iff _).2 hnone)
      exact exec_of_accepted (f := scrubSetImm) rfl rfl (by omega) (by omega) hfn ha himm
    · have hstack : stackOf t course.toNat col.toNat = stackOf s course.toNat col.toNat :=
        apply_takenUp (stackOf · course.toNat col.toNat) _ q l s fun _ _ _ => rfl
      have hmem : t.pmem = s.pmem := apply_takenUp State.pmem _ q l s fun _ _ _ => rfl
      have hpat : t.pat = s.pat := apply_takenUp State.pat _ q l s fun _ _ _ => rfl
      have himm := scrubSetImm_rebuild q (s := t) hper hreb hcourse hcol (congrArg BitVec.toNat hone) hc hm (by rw [hstack, hout])
        (by rw [hmem, hfailed]) (by rw [hmem, hfree]) (by rw [hpat, hrun]) htrains
      exact exec_of_accepted (f := scrubSetImm) rfl rfl (by omega) (by omega) hfn ha himm

end Sys2Proof.Machine
end

section
/-! PROOF. Failures of sites, courses, rails and clocks, and brownouts (R181, R487, R498, R515, R519, R522 to R524, R532, R533, R586): what the
panel does about each, by its state. -/

namespace Sys2Proof.Machine

open Sys2Proof

section

variable {s : State} {c : Nat} (env : RepairEnv)

/-! ## Failures in a panel that is cast on (R487, R498) -/

section

variable (hrun : repairsRun s = true)

include hrun

/-- A site that may fail is retired by repair. -/
theorem siteFails_eq {w : Nat} (clu cause : Nat) (hmay : mayFail s (siteDie c w) = true) :
    siteFails c w clu cause env s = duties (retireSites [{ die := siteDie c w, cause := cause, clu := clu }] env s) := by
  simp only [siteFails, hrun, hmay, Bool.and_self, if_true]

/-- A site that falls silent is retired by repair, and stays silent. -/
theorem dieSilent_eq {w : Nat} (hmay : mayFail s (siteDie c w) = true) :
    dieSilent c w env s = modGrid (fun g => { g with silent := setIns (siteDie c w) g.silent })
      (duties (retireSites [{ die := siteDie c w, cause := 3, clu := 0 }] env s)) := by
  simp only [dieSilent, hrun, hmay, Bool.and_self, if_true, siteFails_eq env hrun 0 3 hmay]

theorem courseGone_eq (cause : CourseCause) : courseGone c cause env s = duties (courseLoss c cause (cause == .vin) env s) := by
  simp only [courseGone, hrun, if_true]

end

/-! ## PWR_GOOD_Cn (R515) -/

/-- The panel with PWR_GOOD of a course deasserted; a cast-on waits for it. -/
def goodGone (c : Nat) (s : State) : State := { s with boot := { s.boot with
  good := s.boot.good.filter (· != c)
  waiting := if s.boot.phase = 1 ∧ s.boot.cast.isSome then setIns c s.boot.waiting else s.boot.waiting } }

section

variable {ns : Nat} (ok : Bool) (hgood : s.boot.good.contains c = true)

include hgood

theorem powerBad_glitch (hshort : ns < 2000) (hheld : s.boot.heldRst = false) : powerBad c ns ok env s = countCourse c 3 s := by
  simp only [powerBad, hgood, hshort, hheld, Bool.not_true, Bool.false_eq_true, if_false, if_true]

/-- A deassertion of 2 µs or more, by the panel's state and the course's memory rails. -/
theorem powerBad_long (hlong : 2000 ≤ ns) (hrun : repairsRun s = true) :
    powerBad c ns ok env s =
      if courseLost s c then goodGone c s
      else if s.pat.running.isSome || s.boot.binding.isSome then
        duties (courseLoss c (if ok then .vin else .pwrGood) ok env (goodGone c s))
      else if ok then (if s.boot.vinGone.contains c then goodGone c s else vinRemoved c (goodGone c s))
      else duties (courseLoss c .pwrGood false env (goodGone c s)) := by
  simp only [powerBad, hgood, hrun, if_neg (Nat.not_lt.2 hlong), Bool.not_true, Bool.false_or, Bool.false_eq_true, if_false]
  rfl

end

/-! ## The course monitors and the memory rails (R523, R524) -/

section

variable (hrun : repairsRun s = true) (hlost : courseLost s c = false) (hbound : s.boot.bound = false)
  (hvin : s.boot.vinGone.contains c = false)

include hrun hlost hbound hvin

/-- An over-current warning is counted unless it is the second within 1 ms. -/
theorem courseMonitor_over420 :
    courseMonitor c .over420 env s = if ocSoon s c then s else
      countCourse c 1 { s with pwr := { s.pwr with ocAt := tabPut none s.pwr.ocAt c (some (refNow s)) } } := by
  simp only [courseMonitor, hrun, hlost, hbound, hvin, Bool.not_true, Bool.or_self, Bool.false_eq_true, if_false, modPwr]

theorem courseMonitor_over440 :
    courseMonitor c .over440 env s = if tabGet 1350 s.pwr.courseSp c ≤ 1000 then s else countCourse c 2 (courseStep c (· - 50) s) := by
  simp only [courseMonitor, hrun, hlost, hbound, hvin, Bool.not_true, Bool.or_self, Bool.false_eq_true, if_false]

theorem courseMonitor_below430 :
    courseMonitor c .below430 env s = if 1350 ≤ tabGet 1350 s.pwr.courseSp c then s else countCourse c 2 (courseStep c (· + 25) s) := by
  simp only [courseMonitor, hrun, hlost, hbound, hvin, Bool.not_true, Bool.or_self, Bool.false_eq_true, if_false]

theorem courseMonitor_under165 : courseMonitor c .under165 env s = countCourse c 4 s := by
  simp only [courseMonitor, hrun, hlost, hbound, hvin, Bool.not_true, Bool.or_self, Bool.false_eq_true, if_false]

theorem courseMonitor_under150 : courseMonitor c .under150 env s = duties (courseLoss c .vin true env s) := by
  simp only [courseMonitor, hrun, hlost, hbound, hvin, Bool.not_true, Bool.or_self, Bool.false_eq_true, if_false]

end

/-- A fault of the base rail loses the course, one of another memory rail its stacks. -/
theorem memoryRail_eq (rail : MemRail) (hrun : repairsRun s = true) (hlost : courseLost s c = false) :
    memoryRail c rail env s = if rail = .vbase then duties (courseLoss c .vbase false env s) else duties (stacksOut c env s) := by
  simp only [memoryRail, hrun, hlost, Bool.not_true, Bool.or_self, Bool.false_eq_true, if_false]

/-! ## Supplies and reference clocks (R516, R586) -/

theorem endFreeze_boot (s : State) : (endFreeze s).boot = s.boot := by
  unfold endFreeze
  split
  · obtain ⟨ds, h⟩ := exists_modDies_eq (liveDies s) (fun x => { x with ref := x.ref + Config.cancelledFreeze s.free }) s
    dsimp only
    rw [h]
  · rfl

/-- A panel that stops is dead, and runs no pattern and no round. -/
theorem panelDead_stops (s : State) :
    (panelDead s).boot.dead = true ∧ (panelDead s).pat.running = none ∧ (panelDead s).rnd.active = false := by
  refine ⟨?_, rfl, rfl⟩
  simp only [panelDead, cancelHold, endFreeze_boot, modBoot_boot]

theorem anchorUp_of_repairsRun (h : repairsRun s = true) : anchorUp s = true := by
  simp only [repairsRun, Bool.and_eq_true] at h
  exact h.1.2

/-- The loss of a reference clock, by its die. -/
theorem refclkGone_eq (d : Nat) (hup : anchorUp s = true) :
    refclkGone d s =
      if d = 217 then portReset 0 .linkDown s
      else if d = 221 then portReset 1 .linkDown s
      else if d = 224 then anchorTakeover s
      else if d = 225 then (if s.grid.anchorS then panelDead s else standbyFails s)
      else (parkOfDie d).elim s (portDown · s) := by
  simp only [refclkGone, hup, Bool.not_true, Bool.false_eq_true, if_false]
  cases parkOfDie d <;> rfl

end

/-- A die with a park port is neither a host port's die nor an anchor. -/
theorem parkOfDie_ports {d p : Nat} (h : parkOfDie d = some p) : d ≠ 217 ∧ d ≠ 221 ∧ d ≠ 224 ∧ d ≠ 225 ∧ d < numDies := by
  have hmem : d ∈ [216, 218, 219, 220, 222, 223] := List.isSome_idxOf?.1 (Option.isSome_of_eq_some h)
  simp only [List.mem_cons, List.not_mem_nil, or_false] at hmem
  unfold numDies
  omega

/-! ## Brownouts (R181, R519, R532, R533) -/

section

variable {s : State} (hup : herusUp s = true)

include hup

/-- A warning of a panel in service whose mode is another than lean makes a lean entry due; with no pattern running it is named for 512
stitches on. -/
theorem warnOn_service (hwarn : s.pwr.warn = false) (hstate : s.boot.pstate = 1) (htrip : s.boot.trip = false)
    (hmode : s.lode.mode ≠ .lean) :
    warnOn s = modPwr (fun p => { p with
        leanDue := true, forced := if s.pat.running.isSome then p.forced else some (stitchNow s + 512) })
      (eventPf 2 0 { s with pwr := { s.pwr with warn := true, warnDone := false } }) := by
  simp only [warnOn, hwarn, hup, hstate, htrip, hmode]
  cases s.pat.running <;> rfl

/-- The end of a warning of a panel that is cast on. -/
theorem warnOff_service (hwarn : s.pwr.warn = true) (hstate : s.boot.pstate ≠ 0) :
    warnOff s = eventPf 3 0 { s with pwr := { s.pwr with warn := false } } := by
  simp only [warnOff, hwarn, hup, hstate, Bool.not_true, Bool.false_eq_true, if_false, modPwr]

/-- A lean entry that no knot has met is named for a stitch start. -/
theorem forcedLean_eq (hdue : s.pwr.leanDue = true) (hnone : s.pwr.forced = none) :
    forcedLean s = { s with pwr := { s.pwr with forced := some (stitchAfter 4 s) } } := by
  simp only [forcedLean, hup, hdue, hnone, Option.isNone_none, Bool.and_self, if_true, modPwr]

end

/-- The stitch start at least 4 stitches on is 4 or 5 stitches on. -/
theorem stitchAfter_four (s : State) : ∃ n, 4 ≤ n ∧ n ≤ 5 ∧ stitchAfter 4 s = stitchNow s + BitVec.ofNat 48 n := by
  unfold stitchAfter
  split
  · exact ⟨4, by omega, by omega, rfl⟩
  · exact ⟨5, by omega, by omega, rfl⟩

/-- Settles O55: each failure and each brownout event is the case of its operation that its premises select.  The stitches of a forced lean
point rest on log entry 104. -/
theorem powerFailures : Obligations.PowerFailures := by
  refine ⟨fun s hrun => ⟨fun c w k env hsite hmay => ?cluster, fun c w env hsite hmay => ?silent, fun c cause env hc => ?course,
    fun c ns ok env hc hgood hshort hheld => ?glitch, fun c ns ok env hc hgood hlong => ?good,
    fun c env hc hlost hbound hvin => ?monitor, fun c env hc hlost => ?rail, ?supply, ?clock⟩,
    fun s hup => ⟨fun hwarn => ?warned, fun hwarn hstate htrip hmode => ?warn, fun hwarn hstate => ?warnEnds, fun hwarn => ?noWarn,
      fun hdue hnone => ?forced⟩⟩
  case cluster =>
    exact ⟨done_of_wf hsite (siteFails_eq env hrun k 1 hmay), fun kind => done_of_wf hsite (siteFails_eq env hrun k 2 hmay)⟩
  case silent => exact done_of_wf hsite (dieSilent_eq env hrun hmay)
  case course => exact done_of_wf (decide_eq_true hc) (courseGone_eq env hrun cause)
  case glitch => exact done_of_wf (decide_eq_true hc) (powerBad_glitch env ok hgood hshort hheld)
  case good =>
    have heq := powerBad_long env ok hgood hlong hrun
    have hwf : decide (c < 12) = true := decide_eq_true hc
    refine ⟨fun hlost => done_of_wf hwf ?_, fun hlost hbusy => done_of_wf hwf ?_, fun hlost hidle hbind =>
      ⟨fun hok hvin => done_of_wf hwf ?_, fun hok hvin => done_of_wf hwf ?_, fun hbad => done_of_wf hwf ?_⟩⟩
    · exact heq.trans (if_pos hlost)
    · exact heq.trans ((if_neg (Bool.eq_false_iff.1 hlost)).trans (if_pos (by simpa using hbusy)))
    all_goals rw [if_neg (Bool.eq_false_iff.1 hlost), if_neg (by simp [hidle, hbind])] at heq
    · rwa [if_pos hok, if_pos hvin] at heq
    · rwa [if_pos hok, if_neg (Bool.eq_false_iff.1 hvin)] at heq
    · rwa [if_neg (Bool.eq_false_iff.1 hbad)] at heq
  case monitor =>
    intro sp moved
    have hwf : decide (c < 12) = true := decide_eq_true hc
    have h420 := courseMonitor_over420 env hrun hlost hbound hvin
    have h440 := courseMonitor_over440 env hrun hlost hbound hvin
    have h430 := courseMonitor_below430 env hrun hlost hbound hvin
    exact ⟨fun hfirst => done_of_wf hwf (h420.trans (if_neg (Bool.eq_false_iff.1 hfirst))),
      fun hsoon => done_of_wf hwf (h420.trans (if_pos hsoon)),
      fun habove => done_of_wf hwf (h440.trans (if_neg (Nat.not_le.2 habove))),
      fun hfloor => done_of_wf hwf (h440.trans (if_pos hfloor)),
      fun hbelow => done_of_wf hwf (h430.trans (if_neg (Nat.not_le.2 hbelow))),
      done_of_wf hwf (courseMonitor_under165 env hrun hlost hbound hvin),
      done_of_wf hwf (courseMonitor_under150 env hrun hlost hbound hvin)⟩
  case rail =>
    have hwf : decide (c < 12) = true := decide_eq_true hc
    exact ⟨done_of_wf hwf ((memoryRail_eq env .vbase hrun hlost).trans (if_pos rfl)),
      fun rail hrail => done_of_wf hwf ((memoryRail_eq env rail hrun hlost).trans (if_neg hrail))⟩
  case supply =>
    obtain ⟨hdead, hpat, hrnd⟩ := panelDead_stops s
    exact ⟨supplyLoss s, rfl, rfl, hdead, hpat, hrnd⟩
  case clock =>
    have heq := fun d => refclkGone_eq (s := s) d (anchorUp_of_repairsRun hrun)
    refine ⟨done_of_wf rfl (congrArg duties (heq 217)), done_of_wf rfl (congrArg duties (heq 221)), fun d hd => ?_,
      done_of_wf rfl (congrArg duties (heq 224)), done_of_wf rfl (congrArg duties (heq 225)), fun d p hp => ?_⟩
    · have hnone : parkOfDie d = none := List.idxOf?_eq_none_iff.2 (by simp; omega)
      refine done_of_wf (decide_eq_true (lt_trans hd (by decide))) (congrArg duties ((heq d).trans ?_))
      rw [if_neg (by omega), if_neg (by omega), if_neg (by omega), if_neg (by omega), hnone]
      rfl
    · obtain ⟨h217, h221, h224, h225, hlt⟩ := parkOfDie_ports hp
      refine done_of_wf (decide_eq_true hlt) (congrArg duties ((heq d).trans ?_))
      rw [if_neg h217, if_neg h221, if_neg h224, if_neg h225, hp]
      rfl
  case warned => exact done_of_wf rfl (if_pos hwarn)
  case warn => exact done_of_wf rfl (warnOn_service hup hwarn hstate htrip hmode)
  case warnEnds => exact done_of_wf rfl (warnOff_service hup hwarn hstate)
  case noWarn => exact done_of_wf rfl (by rw [warnOff, hwarn]; rfl)
  case forced =>
    obtain ⟨n, hlow, hhigh, hn⟩ := stitchAfter_four s
    exact ⟨n, hlow, hhigh, done_of_wf rfl (hn ▸ forcedLean_eq hup hdue hnone)⟩

end Sys2Proof.Machine
end

section
/-! PROOF. Trims, the cap and throttling (R165, R329, R436, R518, R526, R527, R531, R539): what each control step does to a cluster, to the
cap set point and to the set points of hot dies. -/

namespace Sys2Proof.Machine

open Sys2Proof

/-! ## Folds over independent parts -/

/-- What every step of a fold at a member of its list keeps, the fold keeps. -/
theorem apply_foldl_mem {α β : Type} (p : State → α) {g : State → β → State} {l : List β} (h : ∀ t, ∀ b ∈ l, p (g t b) = p t)
    (s : State) : p (l.foldl g s) = p s :=
  List.foldlRecOn (motive := fun t => p t = p s) l g rfl fun t ht b hb => (h t b hb).trans ht

/-- A part that one step of a fold changes and the others leave is changed once. -/
theorem apply_foldl_once {α β : Type} (p : State → α) {g : State → β → State} {P : State → Prop} {f : α → α} {b : β} {l : List β}
    (hP : ∀ t x, P t → P (g t x)) (hb : ∀ t, P t → p (g t b) = f (p t)) (hne : ∀ t x, x ≠ b → x ∈ l → p (g t x) = p t)
    (hl : l.Nodup) (hmem : b ∈ l) {s : State} (hs : P s) : p (l.foldl g s) = f (p s) := by
  induction l generalizing s with
  | nil => cases hmem
  | cons x l ih =>
    obtain ⟨hx, hnodup⟩ := List.nodup_cons.1 hl
    rw [List.foldl_cons]
    obtain rfl | hlater := List.mem_cons.1 hmem
    · rw [apply_foldl_mem p fun t y hy => hne t y (fun h => hx (h ▸ hy)) (List.mem_cons_of_mem _ hy)]
      exact hb s hs
    · rw [ih (fun t y hy hin => hne t y hy (List.mem_cons_of_mem _ hin)) hnodup hlater (hP s x hs),
        hne s x (fun h => hx (h ▸ hlater)) List.mem_cons_self]

/-- A cluster that was changed, in a canonical table. -/
theorem cluOf_modClu_of_canonical (d k : Nat) (f : Cluster → Cluster) {s : State} (h : tabWf {} s.clus = true) :
    cluOf (modClu d k f s) d k = f (cluOf s d k) := tabGet_tabMod_self _ _ _ f h

/-! ## Margin trims (R165, R518) -/

/-- A step that has counted warnings raises the trim by 5 mV, up to the ceiling. -/
theorem trimStep_warned {n : Nat} (mv : Nat) (c : Cluster) (h : 0 < n) : trimStep mv n c = { c with
    warnIv := c.warnIv + BitVec.ofNat 32 n, quiet := 0
    trim := if mv + c.trim + 5 ≤ min 900 c.vceil then c.trim + 5 else c.trim } := if_pos h

theorem trimStep_quiet (mv : Nat) (c : Cluster) (h : c.quiet < 255) : trimStep mv 0 c = { c with quiet := c.quiet + 1 } := by
  rw [trimStep, if_neg (lt_irrefl 0), if_neg (by omega)]

/-- The 256th quiet step lowers the trim by 5 mV. -/
theorem trimStep_lowers (mv : Nat) (c : Cluster) (h : 255 ≤ c.quiet) : trimStep mv 0 c = { c with quiet := 0, trim := c.trim - 5 } := by
  rw [trimStep, if_neg (lt_irrefl 0), if_pos (by omega)]

/-- A trim changes neither what a cluster holds nor its ceiling. -/
theorem trimStep_frame (mv n : Nat) (c : Cluster) :
    (trimStep mv n c).cores = c.cores ∧ (trimStep mv n c).mem = c.mem ∧ (trimStep mv n c).mx = c.mx ∧
      (trimStep mv n c).vceil = c.vceil := by
  unfold trimStep
  split
  · exact ⟨rfl, rfl, rfl, rfl⟩
  · split <;> exact ⟨rfl, rfl, rfl, rfl⟩

/-- The trims of a die's clusters. -/
def trimDie (mv : Nat → Nat) (warns : List (Nat × Nat)) (d : Nat) (s : State) : State :=
  (List.range 4).foldl (fun t k => modClu d k (trimStep (mv (d * 4 + k)) (tabGet 0 warns (d * 4 + k))) t) s

/-- The trims of every compute site that is on. -/
def trimSites (mv : Nat → Nat → Nat) (warns : List (Nat × Nat)) (on : Nat → Bool) (s : State) : State :=
  (List.range 144).foldl (fun t d => if on d then trimDie (mv d) warns d t else t) s

section

variable (warns : List (Nat × Nat))

theorem wf_clus_trimDie (mv : Nat → Nat) (d : Nat) {s : State} (h : tabWf {} s.clus = true) :
    tabWf {} (trimDie mv warns d s).clus = true :=
  List.foldlRecOn (motive := fun t : State => tabWf {} t.clus = true) _ _ h fun _ ht _ _ => tabWf_tabMod _ _ _ _ ht

/-- Each cluster of the die takes one step. -/
theorem cluOf_trimDie (mv : Nat → Nat) (d : Nat) {k : Nat} (hk : k < 4) {s : State} (h : tabWf {} s.clus = true) :
    cluOf (trimDie mv warns d s) d k = trimStep (mv (d * 4 + k)) (tabGet 0 warns (d * 4 + k)) (cluOf s d k) :=
  apply_foldl_once (cluOf · d k) (P := fun t : State => tabWf {} t.clus = true) (fun _ _ ht => tabWf_tabMod _ _ _ _ ht)
    (fun t ht => cluOf_modClu_of_canonical d k _ ht) (fun t x hx _ => cluOf_modClu_ne _ _ _ _ _ t (by omega)) List.nodup_range
    (List.mem_range.2 hk) h

theorem cluOf_trimDie_ne (mv : Nat → Nat) {d e k : Nat} (hk : k < 4) (hne : e ≠ d) (s : State) :
    cluOf (trimDie mv warns e s) d k = cluOf s d k :=
  apply_foldl_mem (cluOf · d k) (fun t x hx => cluOf_modClu_ne _ _ _ _ _ t (by have := List.mem_range.1 hx; omega)) s

/-- Each cluster of a compute site takes one step if the site is on. -/
theorem cluOf_trimSites (mv : Nat → Nat → Nat) (on : Nat → Bool) {d k : Nat} (hd : d < 144) (hk : k < 4) {s : State}
    (h : tabWf {} s.clus = true) :
    cluOf (trimSites mv warns on s) d k =
      if on d then trimStep (mv d (d * 4 + k)) (tabGet 0 warns (d * 4 + k)) (cluOf s d k) else cluOf s d k := by
  refine apply_foldl_once (cluOf · d k) (P := fun t : State => tabWf {} t.clus = true)
    (f := fun c => if on d then trimStep (mv d (d * 4 + k)) (tabGet 0 warns (d * 4 + k)) c else c) (fun t e ht => ?_) (fun t ht => ?_)
    (fun t e he _ => ?_) List.nodup_range (List.mem_range.2 hd) h
  · split
    · exact wf_clus_trimDie warns _ e ht
    · exact ht
  · split
    · exact cluOf_trimDie warns _ d hk ht
    · rfl
  · split
    · exact cluOf_trimDie_ne warns _ hk he t
    · rfl

/-- Trims change clusters only. -/
theorem exists_trimDie_eq (mv : Nat → Nat) (d : Nat) (s : State) : ∃ l, trimDie mv warns d s = { s with clus := l } :=
  List.foldlRecOn (motive := fun t : State => ∃ l, t = { s with clus := l }) _ _ ⟨s.clus, rfl⟩ fun _ ht _ _ => by
    obtain ⟨l, rfl⟩ := ht
    exact ⟨_, rfl⟩

theorem exists_trimSites_eq (mv : Nat → Nat → Nat) (on : Nat → Bool) (s : State) :
    ∃ l, trimSites mv warns on s = { s with clus := l } := by
  refine List.foldlRecOn (motive := fun t : State => ∃ l, t = { s with clus := l }) _ _ ⟨s.clus, rfl⟩ fun t ht d _ => ?_
  obtain ⟨l, rfl⟩ := ht
  split
  · exact exists_trimDie_eq warns (mv d) d { s with clus := l }
  · exact ⟨l, rfl⟩

end

/-! ## Refresh counts (R329) -/

/-- A stack at the single refresh rate counts nothing. -/
theorem stackOf_refreshTick (s : State) {c m : Nat} (hm : m < 6) (h : (stackOf s c m).refresh = 0) :
    stackOf (refreshTick s) c m = stackOf s c m := by
  refine List.foldlRecOn (motive := fun t => stackOf t c m = stackOf s c m) _ _ rfl fun t ht i _ => ?_
  split
  · exact ht
  · next hi =>
    refine (tabGet_tabMod_ne _ _ _ fun hkey => hi ?_).trans ht
    have hc : i / 6 = c := by omega
    have hm' : i % 6 = m := by omega
    rw [hc, hm', ht, h]

theorem refreshTick_clus (s : State) : (refreshTick s).clus = s.clus := by
  refine apply_foldl State.clus (fun t i => ?_) _ s
  split <;> rfl

theorem copySets_clus (s : State) : (copySets s).clus = s.clus := by
  unfold copySets
  split <;> rfl

/-! ## The cap set point (R526, R527) -/

section

variable {ref : W64} {lim d : Draws} {p : Power}

/-- A limit of the panel or of the compute zone that is passed lowers the set point by 50 MHz. -/
theorem capStep_heavy (h : lim.panel < d.panel ∨ lim.compute < d.compute) : (capStep ref lim d p).capSp = max 1000 (p.capSp - 50) := by
  have hheavy : (decide (lim.panel < d.panel) || decide (lim.compute < d.compute)) = true := by simpa using h
  simp only [capStep, hheavy, if_true]

/-- The set point has risen within the last millisecond. -/
def roseSoon (ref : W64) (p : Power) : Bool :=
  match p.capRose with
  | some t => decide ((ref - t).toNat < 2000000)
  | none => false

/-- The set point rises (R527): headroom on every limit, full duty, and 1 ms since the last rise. -/
def capRises (ref : W64) (lim d : Draws) (p : Power) : Bool :=
  !decide (lim.memory < d.memory) && (roomy lim.panel d.panel && roomy lim.compute d.compute && roomy lim.memory d.memory) &&
    p.duty == 32 && decide (p.capSp < 1350) && !roseSoon ref p

/-- The power settings with pacing asked for where a limit of the memory zone is passed. -/
def paced (lim d : Draws) (p : Power) : Power := if lim.memory < d.memory then { p with paceNeeded := true } else p

theorem paced_capSp : (paced lim d p).capSp = p.capSp := by
  unfold paced
  split <;> rfl

theorem roseSoon_of_rise {r : W64} (h : p.capRose = some r) : roseSoon ref p = decide ((ref - r).toNat < 2000000) := by
  simp only [roseSoon, h]

/-- A set point that rises has headroom on every limit, full duty, and no rise in the last millisecond. -/
theorem headroom_of_capRises (h : capRises ref lim d p = true) :
    p.duty = 32 ∧ p.capSp < 1350 ∧ d.memory ≤ lim.memory ∧ 100 * d.panel ≤ 97 * lim.panel ∧ 100 * d.compute ≤ 97 * lim.compute ∧
      100 * d.memory ≤ 97 * lim.memory ∧ ∀ r, p.capRose = some r → 2000000 ≤ (ref - r).toNat := by
  simp only [capRises, Bool.and_eq_true, Bool.not_eq_true', decide_eq_false_iff_not, decide_eq_true_eq, beq_iff_eq, roomy] at h
  obtain ⟨⟨⟨⟨hmem, ⟨⟨-, hpanel⟩, -, hcompute⟩, -, hmemory⟩, hduty⟩, hbelow⟩, hsoon⟩ := h
  refine ⟨hduty, hbelow, Nat.not_lt.1 hmem, hpanel, hcompute, hmemory, fun r hr => ?_⟩
  simpa [roseSoon_of_rise hr] using hsoon

/-- Within the limits of the panel and the compute zone the set point stays, or rises by 25 MHz where it may. -/
theorem capStep_light (hp : d.panel ≤ lim.panel) (hc : d.compute ≤ lim.compute) :
    capStep ref lim d p = if capRises ref lim d p then { paced lim d p with capSp := min 1350 (p.capSp + 25), capRose := some ref }
      else paced lim d p := by
  have hheavy : (decide (lim.panel < d.panel) || decide (lim.compute < d.compute)) = false := by simp [hp, hc]
  simp only [capStep, hheavy, Bool.false_and, Bool.or_false, Bool.false_eq_true, if_false, decide_eq_true_eq]
  rfl

/-- A limit of the memory zone that is passed asks for pacing, whatever becomes of the set point. -/
theorem capStep_pace (h : lim.memory < d.memory) : (capStep ref lim d p).paceNeeded = true := by
  simp only [capStep, h, decide_true, Bool.true_or, Bool.not_true, Bool.false_and, Bool.false_eq_true, if_true, if_false]
  split <;> rfl

end

/-! ## The control steps (R526, R531, R539) -/

section

variable {s : State} (hup : herusUp s = true)

include hup

/-- CAP_CONTROL of a panel that is cast on. -/
theorem capControl_eq (d : Draws) (htrip : s.boot.trip = false) (hstate : s.boot.pstate ≠ 0) :
    let u := courseDraw { s with pwr := { s.pwr with draws := d, idle := if s.rnd.active then s.pwr.idle else d } }
    capControl d s = reportCap { u with pwr := capStep (refNow s) (limitsOf s) d u.pwr } := by
  simp only [capControl, hup, htrip, if_neg hstate, Bool.not_true, Bool.or_self, Bool.false_eq_true, if_false, modPwr]

/-- The trims of a millisecond follow the copies of sets and the counts of the stacks. -/
theorem marginTrim_eq (w : List (Nat × Nat)) (htrip : s.boot.trip = false) :
    let u := refreshTick (copySets s)
    marginTrim w s = trimSites (fun d i => Config.railMv i (setPoint u d)) w (siteOn u) u := by
  simp only [marginTrim, hup, htrip, Bool.not_true, Bool.or_self, Bool.false_eq_true, if_false]
  rfl

theorem throttleStep_idle (temps : List (Nat × Nat)) (raise : Bool) (h : s.boot.trip = true ∨ s.boot.pstate = 0) :
    throttleStep temps raise s = noteTemps temps s := by
  simp only [throttleStep, hup, Bool.not_true, Bool.false_eq_true, if_false]
  exact if_pos (by simpa using h)

theorem throttleStep_service (temps : List (Nat × Nat)) (raise : Bool) (htrip : s.boot.trip = false) (hstate : s.boot.pstate ≠ 0) :
    throttleStep temps raise s = throttleEvents (throttleSet raise (noteTemps temps s)) := by
  simp only [throttleStep, hup, Bool.not_true, Bool.false_eq_true, if_false]
  exact if_neg (by simpa [htrip] using hstate)

end

/-- The hottest compute die's set point falls by 50 MHz. -/
theorem throttleSet_hot {s : State} {d : Nat} (h : hotDie s = some d) :
    throttleSet false s = { s with pwr := { s.pwr with throttle := tabMod 1350 s.pwr.throttle d fun x => max 1000 (x - 50) } } := by
  simp only [throttleSet, h, Bool.false_eq_true, if_false, modPwr]

theorem throttleSet_cool {s : State} (h : hotDie s = none) : throttleSet false s = s := by
  simp only [throttleSet, h, Bool.false_eq_true, if_false, modPwr]

/-- Settles O56: the steps are cases of their operations; each cluster of a site that is on is trimmed once in the fold over the sites.  That
copies of sets are made before the trims rests on log entry 138. -/
theorem capAndThrottle : Obligations.CapAndThrottle := by
  refine ⟨fun mv n c => ?trim, fun ref lim d p => ?cap,
    fun d s hup htrip hstate => done_of_wf rfl (capControl_eq hup d htrip hstate), fun w s hup htrip => ?trims,
    fun s c m hcm h => ?single, fun x h => ?double, fun x h => ?halved,
    fun temps raise s hup => ⟨fun h => done_of_wf rfl (throttleStep_idle hup temps raise h),
      fun htrip hstate => done_of_wf rfl (throttleStep_service hup temps raise htrip hstate)⟩,
    fun s => ⟨fun d h => throttleSet_hot h, throttleSet_cool⟩⟩
  case trim =>
    intro t
    refine ⟨fun hn => ?_, fun hn => ?_, trimStep_frame mv n c⟩
    · have heq : t = _ := trimStep_warned mv c hn
      rw [heq]
      exact ⟨rfl, rfl, rfl⟩
    · subst hn
      obtain hq | hq := Nat.lt_or_ge c.quiet 255
      · have heq : t = _ := trimStep_quiet mv c hq
        rw [heq]
        exact ⟨rfl, fun _ => ⟨rfl, rfl⟩, fun h => absurd hq (Nat.not_lt.2 h)⟩
      · have heq : t = _ := trimStep_lowers mv c hq
        rw [heq]
        exact ⟨rfl, fun h => absurd h (Nat.not_lt.2 hq), fun _ => ⟨rfl, rfl⟩⟩
  case cap =>
    intro t
    refine ⟨capStep_heavy, fun hp hc => ?_, capStep_pace⟩
    have heq : t = _ := capStep_light hp hc
    rw [heq]
    split
    next hrise =>
      obtain ⟨hduty, hbelow, hmem, hpanel, hcompute, hmemory, hsince⟩ := headroom_of_capRises hrise
      exact .inr ⟨rfl, hduty, hbelow, hmem, hpanel, hcompute, hmemory, rfl, hsince⟩
    next => exact .inl paced_capSp
  case trims =>
    refine ⟨marginTrim w s, rfl, ?_⟩
    intro u
    have hclus : u.clus = s.clus := (refreshTick_clus _).trans (copySets_clus s)
    have heq : marginTrim w s = trimSites (fun d i => Config.railMv i (setPoint u d)) w (siteOn u) u := marginTrim_eq hup w htrip
    rw [heq]
    refine ⟨?_, fun d k hd hk hwf => ?_⟩
    · obtain ⟨l, hl⟩ := exists_trimSites_eq w (fun d i => Config.railMv i (setPoint u d)) (siteOn u) u
      rw [hl, ← hclus]
    · have hclu : cluOf s d k = cluOf u d k := by rw [cluOf, cluOf, hclus]
      rw [hclu]
      exact cluOf_trimSites w _ (siteOn u) hd hk (by rwa [hclus])
  case single =>
    obtain ⟨-, hm⟩ : c < 12 ∧ m < 6 := by simpa only [stackOk, Bool.and_eq_true, decide_eq_true_eq] using hcm
    exact stackOf_refreshTick s hm h
  case double => simp only [refreshMs, h, Nat.one_ne_zero, Nat.reduceEqDiff, if_false]
  case halved => simp only [refreshMs, h, OfNat.ofNat_ne_zero, if_false, if_true]

end Sys2Proof.Machine
end

section
/-! PROOF. Stitch starts with no pattern running (R152, R158): where the table of clusters is in canonical form only the clusters' copies
of the count follow; where it is not, an entry that another one hides can come to light with flits that its SRVs wait for. -/

namespace Sys2Proof.Machine

open Sys2Proof

/-! ## Canonical tables -/

/-- A cluster's copy of the count at a stitch start with no pattern running. -/
def countEdge (c : Cluster) : Cluster := { c with count := c.count + 1, droop := false }

/-- The table of clusters is canonical and no cluster of the die waits for flits of SRVs. -/
def NoSrvs (d : Nat) (s : State) : Prop := tabWf {} s.clus = true ∧ ∀ k, k < 4 → (cluOf s d k).srvs = []

/-- No cluster comes to wait where the copies of the count follow. -/
theorem NoSrvs.countEdge {d : Nat} {s : State} (h : NoSrvs d s) (k : Nat) : NoSrvs d (modClu d k countEdge s) := by
  obtain ⟨hwf, hsrvs⟩ := h
  refine ⟨tabWf_tabMod _ _ _ _ hwf, fun j hj => ?_⟩
  by_cases hjk : j = k
  · subst hjk
    rw [cluOf_modClu_of_canonical d j _ hwf]
    exact hsrvs j hj
  · rw [cluOf_modClu_ne _ _ _ _ _ _ (by omega)]
    exact hsrvs j hj

/-- A cluster that waits for no flits does nothing for its SRVs at a stitch start. -/
theorem srvEdge_of_srvs_nil {d k : Nat} {s : State} (h : (cluOf s d k).srvs = []) : srvEdge d k s = s := by
  simp only [srvEdge, h, List.filter_nil, List.isEmpty_nil, if_true]

theorem srvEdges_of_noSrvs {d : Nat} {s : State} (h : NoSrvs d s) : (List.range 4).foldl (fun u k => srvEdge d k u) s = s :=
  List.foldlRecOn (motive := fun u => u = s) _ _ rfl fun _ hu k hk => by
    rw [hu]
    exact srvEdge_of_srvs_nil (h.2 k (List.mem_range.1 hk))

/-- The die's part in a stitch start: its own timebase and its set flits. -/
def dieEnded (d : Nat) (s : State) : State := modNI d niEdge (modDie d (dieEdge s.lode.mode) s)

/-- STITCH_START with no pattern running, in a canonical table of clusters: the state that the statement of O38 names. -/
theorem stitchStart_of_canonical {d : Nat} {s : State} (hwf : tabWf {} s.clus = true) (hfrozen : s.lode.frozen = false)
    (hrun : s.pat.running = none) (hsrvs : ∀ k, k < 4 → (cluOf s d k).srvs = []) :
    let counted := if d < 144 then (List.range 4).foldl (fun u k => modClu d k countEdge u) (dieEnded d s) else dieEnded d s
    stitchStart d s = if d = anchorDie s then { counted with lode := lodeEdge (dieOf counted d).ref counted.lode } else counted := by
  intro counted
  have hidle : (dieEnded d s).pat.running.isNone = true := by
    simp only [dieEnded, modNI_pat, modDie_pat, hrun, Option.isNone_none]
  have hedge : clustersEdge d (dieEnded d s) = counted := by
    unfold clustersEdge
    by_cases hd : d < 144
    · rw [if_neg (Nat.not_le.2 hd), if_pos hidle]
      exact (if_pos hd).symm
    · rw [if_pos (Nat.not_lt.1 hd)]
      exact (if_neg hd).symm
  have hnone : d < 144 → NoSrvs d counted := fun hd => by
    have hcounted : counted = (List.range 4).foldl (fun u k => modClu d k countEdge u) (dieEnded d s) := if_pos hd
    rw [hcounted]
    exact List.foldlRecOn _ _ (show NoSrvs d (dieEnded d s) from ⟨hwf, hsrvs⟩) fun _ hu k _ => hu.countEdge k
  have hwhole : (if d < 144 then (List.range 4).foldl (fun u k => srvEdge d k u) counted else counted) = counted := by
    split
    next hd => exact srvEdges_of_noSrvs (hnone hd)
    next => rfl
  rw [dieEnded] at hedge
  simp only [stitchStart, hfrozen, Bool.false_eq_true, if_false, hedge, hwhole]

/-! ## A hidden entry -/

/-- A cluster whose count wraps at the stitch start, and is else in its reset state. -/
def countWraps : Cluster := { count := BitVec.allOnes 48 }

/-- A cluster that waits for a flit of an SRV. -/
def waitsForFlit : Cluster := { srvs := [{ cycle := 0, ga := 0, entry := 0, sc := 0, uop := 0 }] }

/-- A panel whose table of clusters has two entries of key 0, of which the first hides the second. -/
def hiddenEntry : State := { State.reset with clus := [(0, countWraps), (0, waitsForFlit)] }

theorem srvs_hiddenEntry (k : Nat) (h : k < 4) : (cluOf hiddenEntry 0 k).srvs = [] := by
  have hall : ∀ j < 4, (cluOf hiddenEntry 0 j).srvs = [] := by decide +kernel
  exact hall k h

/-- The stitch start drops the first entry, as its count becomes 0, and then ends the wait of the second. -/
theorem srvs_stitchStart_hiddenEntry : (cluOf (stitchStart 0 hiddenEntry) 0 0).srvs = [] := by
  decide +kernel

/-- Refutes O38: the clause on a stitch start with no pattern running is asked of every state, and in `hiddenEntry` the wait of the hidden
entry ends with the stitch, where the statement has it stand.  A table with two entries of one key is not in canonical form (`tabWf`), which
the statement does not ask for; where the table is canonical, `stitchStart_of_canonical` gives the state that the clause names. -/
theorem not_stitchEvents : ¬ Obligations.StitchEvents := by
  rintro ⟨hstart, -⟩
  obtain ⟨-, -, hidle, -⟩ := hstart hiddenEntry 0 (by decide)
  have heq := hidle rfl rfl fun k _ hk => srvs_hiddenEntry k hk
  have hsrvs := congrArg (fun u => (cluOf u 0 0).srvs) heq
  dsimp only at hsrvs
  rw [srvs_stitchStart_hiddenEntry] at hsrvs
  exact absurd hsrvs (by decide +kernel)

end Sys2Proof.Machine
end

section
/-! PROOF. SET_SWAP_AT (R190, R436): where the table of dies is in canonical form the copy of the sets before the command leaves the count,
and a target 512 stitches on arms the swap; where it is not, the copy can bring a hidden entry to light, with another count. -/

namespace Sys2Proof.Machine

open Sys2Proof

/-! ## Canonical tables -/

/-- A change of every entry that keeps the default, in a canonical table. -/
theorem tabGet_tabMap {α : Type} [DecidableEq α] {d : α} {f : α → α} (hf : f d = d) (t : Tab α) (k : Nat) {b : Option Nat}
    (h : tabWfFrom d b t = true) : tabGet d (tabMap d f t) k = f (tabGet d t k) := by
  induction t generalizing b with
  | nil => exact hf.symm
  | cons e t ih =>
    obtain ⟨j, v⟩ := e
    simp only [tabWfFrom, Bool.and_eq_true] at h
    obtain ⟨-, hrest⟩ := h
    have hlater := ih hrest
    by_cases hv : f v = d
    · have hdrop : tabMap d f ((j, v) :: t) = tabMap d f t := List.filterMap_cons_none (if_pos hv)
      rw [hdrop, hlater, tabGet]
      split
      next hj => rw [tabGet_below d t hrest hj.ge, hf, hv]
      next => rfl
    · have hkeep : tabMap d f ((j, v) :: t) = (j, f v) :: tabMap d f t := List.filterMap_cons_some (if_neg hv)
      rw [hkeep, tabGet, tabGet]
      split
      next => rfl
      next => exact hlater

/-- A die once its active set has been copied over its shadow set (R436). -/
def copied (x : Die) : Die := if x.stale then { x with shadow := x.active, stale := false } else x

/-- The copy of the sets leaves the count of every die. -/
theorem stitchNow_copySets {s : State} (h : tabWf {} s.dies = true) : stitchNow (copySets s) = stitchNow s := by
  have hcount : ∀ x, (copied x).count = x.count := fun x => by
    unfold copied
    split <;> rfl
  unfold copySets
  split
  · exact (congrArg Die.count (tabGet_tabMap (f := copied) rfl _ _ h)).trans (hcount _)
  · rfl

/-- Where no die's shadow set is incomplete, the swap is armed and the command waits. -/
theorem armSwap_of_ready (q : MbReq) (op : LongOp) (w : Swap) {s : State}
    (hready : ((liveDies s).all fun d => (dieOf s d).arm != .notReady) = true) :
    armSwap q op w s = hold q op { s with swp := some { w with since := refNow s }, lode := { s.lode with nacks := [] } } := by
  have hbad : ((liveDies s).filter fun d => (dieOf s d).arm == .notReady) = [] := by
    simpa [List.filter_eq_nil_iff] using hready
  have hnone : (((liveDies s).filter fun d => (dieOf s d).arm == .notReady).isEmpty) = true := by rw [hbad, List.isEmpty_nil]
  exact if_pos hnone

/-- SET_SWAP_AT with a target at least 512 stitches on, in a canonical table of dies: the state that the statement of O25 names. -/
theorem setSwapCmd_of_canonical {q : MbReq} {p : List Byte} {s : State} {target : BitVec 48} {n : Nat} (hwf : tabWf {} s.dies = true)
    (htarget : BitVec.ofNat 48 (par p 0 8) = target) (hahead : stitchAhead target (stitchNow s) = some n) (hfar : 512 ≤ n)
    (hbars : gradeBars (copySets s) (dieOf (copySets s) (anchorDie (copySets s))).shadow.mode = false)
    (hlic : (dieOf (copySets s) (anchorDie (copySets s))).shadow.mode = .brisk → (licFeatures (copySets s).boot.lic).getLsbD 1 = true)
    (hready : ((liveDies (copySets s)).all fun d => (dieOf (copySets s) d).arm != .notReady) = true) :
    let t := copySets s
    let u := hold q (.swap target (timeWord t)) t
    setSwapCmd q p s = { u with
      swp := some { kind := .sets, fn := q.fn, target := some target, since := refNow t }, lode := { u.lode with nacks := [] } } := by
  have hnow : stitchAhead target (stitchNow (copySets s)) = some n := by rw [stitchNow_copySets hwf, hahead]
  have hbrisk : ((dieOf (copySets s) (anchorDie (copySets s))).shadow.mode == .brisk &&
      !(licFeatures (copySets s).boot.lic).getLsbD 1) = false := by
    rw [Bool.and_eq_false_iff, beq_eq_false_iff_ne, Bool.not_eq_false']
    exact or_iff_not_imp_left.2 fun h => hlic (not_not.1 h)
  simp only [setSwapCmd, htarget, hnow, hfar, hbars, hbrisk, decide_true, Bool.not_true, Bool.false_eq_true, if_false]
  exact armSwap_of_ready q _ _ hready

/-! ## A hidden entry -/

/-- A panel in service whose table of dies has two entries for the northern anchor's die, of which the first, whose sets are still to be
copied, hides the second. -/
def hiddenDie : State :=
  { State.reset with
    boot := { State.reset.boot with pstate := 1, phase := 8, lic := some {} }
    pins := { State.reset.pins with hostPerst := [] }
    dies := [(224, { stale := true }), (224, { count := 1000 })] }

/-- PF0 asks for a swap. -/
def asksSwap : MbReq := { fn := 0, tag := 0 }

/-- A swap is pending after an answer. -/
def swapPending : Ans → Bool
  | .next t => t.swp.isSome
  | _ => false

theorem accepted_hiddenDie : accepted 0x31 asksSwap [(0, natLe 8 1000)] hiddenDie :=
  ⟨⟨by decide +kernel, by decide +kernel, by decide +kernel⟩, by decide +kernel, by decide +kernel⟩

/-- The stitch 1,000 lies ahead of the first entry's count and not of the second's, so that the command is answered late. -/
theorem swapPending_hiddenDie : swapPending (exec (.setSwapAt asksSwap 1000) hiddenDie) = false := by
  decide +kernel

/-- Refutes O25: the clause on SET_SWAP_AT is asked of every state, and in `hiddenDie` the target is ahead of the count before the copy of the
sets, which the statement looks at, and not of the count after it, so that no swap is armed.  A table with two entries of one key is not in
canonical form (`tabWf`), which the statement does not ask for; where the table is canonical, `setSwapCmd_of_canonical` gives the state that
the clause names. -/
theorem not_mailboxSets : ¬ Obligations.MailboxSets := by
  intro h
  obtain ⟨-, hswap, -⟩ := h asksSwap hiddenDie rfl
  have hahead : ∃ n, stitchAhead 1000 (stitchNow hiddenDie) = some n ∧ 512 ≤ n := ⟨1000, by decide +kernel, by decide⟩
  have hexec := hswap 1000 accepted_hiddenDie hahead (by decide +kernel) (by decide +kernel) (by decide +kernel)
  have hpending := congrArg swapPending hexec
  rw [swapPending_hiddenDie] at hpending
  exact absurd hpending (by decide +kernel)

end Sys2Proof.Machine
end

section
/-! PROOF. Mailbox commands of patterns and weight intake (R219, R220, R223, R396 to R399, R433): what an accepted command answers, or
leaves waiting. -/

namespace Sys2Proof.Machine

open Sys2Proof

/-! ## Staging and committing (R219, R220) -/

/-- The panel with an image staged. -/
def stages (b : List Byte) (s : State) : State := modPat (fun p => { p with staged := some b }) s

/-- The panel with an image committed, and none staged. -/
def commits (b : List Byte) (s : State) : State := modPat (fun p => { p with staged := none, committed := some b }) s

/-- PATTERN_STAGE of an image that fails no check. -/
theorem patternStageImm_passes {q : MbReq} {b : List Byte} {s : State} (p : List Byte) (hbulk : bulkIn q (2 ^ 30) = .inr b)
    (hcheck : stageCheck s.boot.lic b = none) : patternStageImm q p s = (stageRsp b none, stages b s) := by
  simp only [patternStageImm, hbulk, hcheck, Option.isNone_none, if_true, stages]

/-- PATTERN_COMMIT of a staged image that can be relocated. -/
theorem patternCommitImm_relocates {b b' : List Byte} {s : State} (q : MbReq) (p : List Byte) (hstaged : s.pat.staged = some b)
    (hreloc : commitImage s b = .inl b') :
    patternCommitImm q p s = (okRsp [(0, natLe 4 0xFFFFFFFF), (8, natLe 8 (imgAlloc b))], commits b' s) := by
  simp only [patternCommitImm, hstaged, hreloc, commits]

/-! ## Stopping (R223) -/

section

variable {p : List Byte} {s : State} (q : MbReq)

/-- PATTERN_STOP with a pattern running waits: its form and the round decide what happens meanwhile. -/
theorem patternStopCmd_running (hcode : par p 0 1 ≤ 1) (hrun : s.pat.running.isSome = true) :
    patternStopCmd q p s =
      if par p 0 1 = 1 then stopPattern (hold q .stop s)
      else if s.rnd.active then modPat (fun x => { x with stopAtEnd := true }) (hold q .stop s)
      else stopAtBoundary (hold q .stop s) := by
  rw [patternStopCmd, if_neg (Nat.not_lt.2 hcode), Option.isNone_eq_false_iff.2 hrun, if_neg Bool.false_ne_true]
  rfl

/-- The abort form stops the pattern at once. -/
theorem patternStopCmd_aborts (hform : par p 0 1 = 1) (hrun : s.pat.running.isSome = true) :
    patternStopCmd q p s = stopPattern (hold q .stop s) := by
  rw [patternStopCmd_running q hform.le hrun, if_pos hform]

/-- The boundary form stops the pattern at the end of the round in progress, or at once between rounds. -/
theorem patternStopCmd_boundary (hform : par p 0 1 = 0) (hrun : s.pat.running.isSome = true) :
    patternStopCmd q p s =
      if s.rnd.active then modPat (fun x => { x with stopAtEnd := true }) (hold q .stop s) else stopAtBoundary (hold q .stop s) := by
  rw [patternStopCmd_running q (by omega) hrun, if_neg (by omega)]

end

/-! ## Weight intake (R396 to R399) -/

/-- The panel with intake open on a target, from an offset in it. -/
def intakes (base len woff : Nat) (s : State) : State :=
  { s with intake := { s.intake with open_ := true, base := base, len := len, woff := woff } }

/-- WEIGHTS_INTAKE_OPEN of a target within panel memory and the allocation, with intake closed or open on the same target. -/
theorem intakeOpenImm_fits {p : List Byte} {s : State} {base len woff a : Nat} (q : MbReq) (hbase : par p 0 8 = base)
    (hlen : par p 8 8 = len) (hwoff : par p 0x10 8 = woff) (hpos : len ≠ 0) (hstart : base < 6 * stripeUnits)
    (hend : base + len ≤ 6 * stripeUnits) (hsame : s.intake.open_ = false ∨ s.intake.base = base ∧ s.intake.len = len)
    (halloc : allocBound s = some a) (hfits : targetFits a base len = true) :
    let w := min woff (len - 1)
    intakeOpenImm q p s = (applied (w == woff) [(0, natLe 8 base), (8, natLe 8 len), (0x10, natLe 8 w)], intakes base len w s) := by
  simp only [intakeOpenImm, hbase, hlen, hwoff]
  refine checked_pass _ _ fun c hc => ?_
  simp only [List.mem_cons, List.not_mem_nil, or_false] at hc
  obtain rfl | rfl | rfl | rfl | rfl := hc
  · exact decide_eq_false (Nat.not_le.2 hstart)
  · simpa [hpos] using hend
  · simp [halloc]
  · obtain hshut | ⟨hb, hl⟩ := hsame
    · simp [hshut]
    · simp [hb, hl]
  · simp [halloc, hfits]

/-- WEIGHTS_INTAKE_CLOSE of an intake that is open. -/
theorem intakeCloseImm_open {s : State} (q : MbReq) (p : List Byte) (hopen : s.intake.open_ = true) :
    intakeCloseImm q p s = (okRsp [(0, natLe 8 s.intake.sectors.toNat), (8, natLe 8 s.intake.discPart.toNat),
      (0x10, natLe 8 s.intake.discMap.toNat)], { s with intake := {} }) := by
  simp only [intakeCloseImm, hopen, Bool.not_true, Bool.false_eq_true, if_false]

/-- Settles O23: each command is its body in the state in which it is taken up, at the case that its operands and the
panel select. -/
theorem mailboxPatterns : Obligations.MailboxPatterns := by
  intro q s hfn
  refine ⟨?stage, ?commit, ?stop, ?open_, ?close⟩
  case stage =>
    intro b ha hbulk hcheck t
    have himm := patternStageImm_passes (s := t) (params []) hbulk hcheck
    exact exec_of_accepted (f := patternStageImm) rfl rfl (by omega) (by omega) hfn ha himm
  case commit =>
    intro b b' ha hstaged hreloc t
    have himage : commitImage t b = commitImage s b := apply_takenUp (commitImage · b) _ q [] s fun _ _ _ => rfl
    have himm := patternCommitImm_relocates (s := t) q (params []) hstaged (himage.trans hreloc)
    exact exec_of_accepted (f := patternCommitImm) rfl rfl (by omega) (by omega) hfn ha himm
  case stop =>
    intro form l t u ha hrun
    have hform : par (params l) 0 1 = form.toNat := par_params (by simp [l]) (by simp [l]) (by simp [l]) form.isLt
    refine ⟨fun h1 => exec_of_body (body := patternStopCmd) rfl rfl (by omega) (by omega) hfn ha ?_,
      fun h0 hactive => exec_of_body (body := patternStopCmd) rfl rfl (by omega) (by omega) hfn ha ?_,
      fun h0 hidle => exec_of_body (body := patternStopCmd) rfl rfl (by omega) (by omega) hfn ha ?_⟩
    · exact patternStopCmd_aborts (s := t) q (hform.trans (congrArg BitVec.toNat h1)) hrun
    · exact (patternStopCmd_boundary (s := t) q (hform.trans (congrArg BitVec.toNat h0)) hrun).trans (if_pos hactive)
    · exact (patternStopCmd_boundary (s := t) q (hform.trans (congrArg BitVec.toNat h0)) hrun).trans (if_neg (Bool.eq_false_iff.1 hidle))
  case open_ =>
    rintro base len woff l t w ha hpos hstart hend hsame ⟨a, halloc, hfits⟩
    have hbase : par (params l) 0 8 = base.toNat := par_params (by simp [l]) (by simp [l]) (by simp [l]) base.isLt
    have hlen : par (params l) 8 8 = len.toNat := par_params (by simp [l]) (by simp [l]) (by simp [l]) len.isLt
    have hwoff : par (params l) 0x10 8 = woff.toNat := par_params (by simp [l]) (by simp [l]) (by simp [l]) woff.isLt
    have hbound : allocBound t = allocBound s := apply_takenUp allocBound _ q l s fun _ _ _ => rfl
    have hsome : len.toNat ≠ 0 := fun h => hpos (BitVec.eq_of_toNat_eq h)
    have himm := intakeOpenImm_fits (s := t) q hbase hlen hwoff hsome hstart hend hsame (hbound.trans halloc) hfits
    exact exec_of_accepted (f := intakeOpenImm) rfl rfl (by omega) (by omega) hfn ha himm
  case close =>
    intro ha hopen
    have himm := intakeCloseImm_open (s := takenUp 0x25 q [] s) q (params []) hopen
    exact exec_of_accepted (f := intakeCloseImm) rfl rfl (by omega) (by omega) hfn ha himm

end Sys2Proof.Machine
end

section
/-! PROOF. Set traffic (R242 to R246, R248, R249): what keeps a set flit at a die, what it leaves when it goes, and what its landing
writes. -/

namespace Sys2Proof.Machine

open Sys2Proof

/-! ## What keeps a set flit at a die (R244, R245, R281, R285) -/

section

variable {d p slot : Nat} {short : Bool} {f : SetFlit} {s : State}

/-- The link carries no flits, the slot is before the due one or no transmit slot, or the replay buffer is full. -/
def LinkHolds (d p slot : Nat) (f : SetFlit) (s : State) : Prop :=
  linkPeriod (linkOf s d p) = 0 ∨ slot < f.hdr.due.toNat ∨ (slotAt f.hdr slot).2 % max (linkPeriod (linkOf s d p)) 1 ≠ 0 ∨
    (linkOf s d p).state = .axust ∧ txRoom s d p = false

/-- A set flit waits for its link, or for a slot that it may not claim and that another has. -/
theorem setWaits_iff : setWaits d p slot short f s = true ↔
    LinkHolds d p slot f s ∨ (slot ≠ f.hdr.due.toNat ∨ short = true) ∧ lateWaits s d p f (slotAt f.hdr slot) = true := by
  simp only [setWaits, LinkHolds, Bool.or_eq_true, Bool.and_eq_true, beq_iff_eq, bne_iff_ne, decide_eq_true_eq, Bool.not_eq_true']
  tauto

/-- A flit that came over a link may claim its due slot. -/
theorem setWaits_transit_iff : setWaits d p slot false f s = true ↔
    LinkHolds d p slot f s ∨ slot ≠ f.hdr.due.toNat ∧ lateWaits s d p f (slotAt f.hdr slot) = true := by
  simp only [setWaits_iff, Bool.false_eq_true, or_false]

/-! ## What a set flit leaves when it goes (R244 to R246) -/

/-- The crossing of a set flit: DUE grows by the crossing's budget, by the link and the pattern of `s`. -/
def setCrosses (s : State) (d p slot : Nat) (f : SetFlit) (g : State) : State :=
  let hdr := { f.hdr with due := BitVec.ofNat 12 (slot + crossBudget s d p) }
  if (linkOf s d p).state = .axust then axustSend d p 0 (setBits hdr) f.payload (dirCount d p 0 g)
  else modTx d p (fun x => { x with
    rseqTx := x.rseqTx + 1
    wire := some { chan := 0, seq := x.rseqTx, ackseq := 0, nakseq := 0, nakv := false, replay := false, hdr := setBits hdr
                   payload := f.payload } }) (dirCount d p 0 g)

/-- The record of an on-time flit that finds its slot taken by another (R246). -/
def clashRec (s : State) (d p slot : Nat) (f : SetFlit) : FaultRec :=
  { code := 0x01, entry := BitVec.ofNat 16 f.entry, link := BitVec.ofNat 4 (linkCode d p)
    slot := BitVec.ofNat 12 (slotAt f.hdr slot).2, detail := f.hdr.srank.setWidth 16, sect := BitVec.ofNat 12 s.pat.sect }

theorem setLeave_clashes (hdue : slot = f.hdr.due.toNat) (htaken : (niOf s d).due.contains (p, (slotAt f.hdr slot).2) = true) :
    setLeave d p slot f s = addPatFault d (clashRec s d p slot f) s := by
  simp only [setLeave, beq_iff_eq.2 hdue, htaken, Bool.and_self, if_true, clashRec]

theorem setLeave_onTime (hdue : slot = f.hdr.due.toNat) (hfree : (niOf s d).due.contains (p, (slotAt f.hdr slot).2) = false) :
    setLeave d p slot f s =
      setCrosses s d p slot f (modNI d (fun n => { n with due := (p, (slotAt f.hdr slot).2) :: n.due }) s) := by
  simp only [setLeave, beq_iff_eq.2 hdue, hfree, Bool.and_false, Bool.false_eq_true, if_false, if_true, setCrosses]

/-- A late flit is counted as late and takes its slot from other traffic. -/
theorem setLeave_late (hlate : slot ≠ f.hdr.due.toNat) :
    setLeave d p slot f s = setCrosses s d p slot f
      (modNI d (fun n => { n with used := (p, (slotAt f.hdr slot).2) :: n.used }) (dirCount d p 5 (dirCount d p 4 s))) := by
  simp only [setLeave, beq_eq_false_iff_ne.2 hlate, Bool.false_and, Bool.false_eq_true, if_false, setCrosses]

/-- What an answer is when a flit leaves a die in state `g`. -/
def SetLeaves (s : State) (d p slot : Nat) (f : SetFlit) (g : State) (r : Ans) : Prop :=
  let q := slotAt f.hdr slot
  (slot = f.hdr.due.toNat → (niOf g d).due.contains (p, q.2) = true → r = .next (addPatFault d (clashRec s d p slot f) g)) ∧
  (slot = f.hdr.due.toNat → (niOf g d).due.contains (p, q.2) = false →
    r = .next (setCrosses s d p slot f (modNI d (fun n => { n with due := (p, q.2) :: n.due }) g))) ∧
  (slot ≠ f.hdr.due.toNat →
    r = .next (setCrosses s d p slot f (modNI d (fun n => { n with used := (p, q.2) :: n.used }) (dirCount d p 5 (dirCount d p 4 g)))))

/-- Leaving looks at the interface, and besides at the link and the pattern, which `g` has as `s` has them. -/
theorem setLeaves_of_setLeave {g : State} {r : Ans} (hlinks : g.links = s.links) (hpat : g.pat = s.pat)
    (hr : r = .next (setLeave d p slot f g)) : SetLeaves s d p slot f g r := by
  subst hr
  have hcross : setCrosses g d p slot f = setCrosses s d p slot f := by
    unfold setCrosses linkOf crossBudget gradeB runImg
    rw [hlinks, hpat]
  have hrec : clashRec g d p slot f = clashRec s d p slot f := by
    unfold clashRec
    rw [hpat]
  refine ⟨fun hdue htaken => ?clash, fun hdue hfree => ?onTime, fun hlate => ?late⟩
  case clash => rw [setLeave_clashes hdue htaken, hrec]
  case onTime => rw [setLeave_onTime hdue hfree, hcross]
  case late => rw [setLeave_late hlate, hcross]

/-! ## At the source, and on the way (R244, R245, R248) -/

theorem setForward_source (hout : setOutput s d f.hdr = some p) (hsrc : isSource s d f.hdr = true) :
    setForward d p slot f s = setDepart d p slot f s := by
  simp only [setForward, hout, ne_eq, not_true_eq_false, if_false, hsrc, if_true]

theorem setForward_transit (hout : setOutput s d f.hdr = some p) (hsrc : isSource s d f.hdr = false) :
    setForward d p slot f s = setTransit d p slot f s := by
  simp only [setForward, hout, ne_eq, not_true_eq_false, if_false, hsrc, Bool.false_eq_true]

theorem setDepart_nothing (hnone : handedAt s d f.entry = none) : setDepart d p slot f s = s := by
  simp only [setDepart, hnone]

variable {k : Nat} {h : Handed}

/-- A flit handed over at its source waits, or its cluster has handed it over and it leaves. -/
theorem setDepart_handed (hat : handedAt s d f.entry = some (k, h)) (hflit : f = sourceFlit s f.hdr.srank.toNat f.entry h) :
    setDepart d p slot f s = if setWaits d p slot (handedShort s d slot h) f s = true then s
      else setLeave d p slot f (modClu d k (fun c => { cluHandOver f.entry c with
        handed := tabPut {} (cluHandOver f.entry c).handed f.entry {} }) s) := by
  simp only [setDepart, hat, not_not.2 hflit, false_or]

end

/-! ## Landing (R249) -/

/-- An interface that was changed to one that holds something, in any table. -/
theorem niOf_modNI_of_ne {d : Nat} {f : NI → NI} {s : State} (h : f (niOf s d) ≠ {}) : niOf (modNI d f s) d = f (niOf s d) :=
  tabGet_tabPut_some _ _ _ _ h

theorem fitBytes_ne_nil {n : Nat} (hn : 0 < n) (l : List Byte) : fitBytes n l ≠ [] := by
  refine List.ne_nil_of_length_pos ?_
  simp only [fitBytes, List.length_take, List.length_append, List.length_replicate]
  omega

section

variable {r slot : Nat} {f : SetFlit} {s : State}

/-- The buffer position of a flit's landing entry. -/
def landsAt (s : State) (r : Nat) (f : SetFlit) : Nat := bitsOf (landEntry (runImg s) r f.hdr.lentry.toNat) 63 52

/-- The interface when a flit has been written at a position. -/
def landsIn (pos : Nat) (f : SetFlit) (n : NI) : NI :=
  { n with landing := tabPut [] n.landing pos (fitBytes 256 f.payload), retime := retimeDel f n.retime
           cnt := if tabGet [] n.landing pos ≠ [] then cntInc n.cnt 5 else n.cnt }

/-- The interface when a flit waits for the end of the stitch (R36, R152). -/
def arrivesIn (pos : Nat) (f : SetFlit) (n : NI) : NI :=
  { n with arriving := n.arriving ++ [(pos, fitBytes 256 f.payload)], retime := retimeDel f n.retime }

/-- What a flit's landing does to the interface: it waits where it lands in the stitch in which it was sent. -/
def lands (s : State) (r : Nat) (f : SetFlit) : NI → NI :=
  if f.hdr.dstitch.toNat = (dieOf s (physOf s.grid.skip r)).count.toNat % 256 then arrivesIn (landsAt s r f) f
  else landsIn (landsAt s r f) f

theorem landing_landsIn (pos : Nat) (n : NI) : tabGet [] (landsIn pos f n).landing pos = fitBytes 256 f.payload :=
  tabGet_tabPut_some _ _ _ _ (fitBytes_ne_nil (by decide) _)

theorem landsIn_ne (pos : Nat) (n : NI) : landsIn pos f n ≠ {} := by
  intro h
  have hread := landing_landsIn (f := f) pos n
  rw [h] at hread
  exact fitBytes_ne_nil (by decide) _ hread.symm

theorem arrivesIn_ne (pos : Nat) (n : NI) : arrivesIn pos f n ≠ {} := fun h =>
  List.append_ne_nil_of_right_ne_nil _ (List.cons_ne_nil _ _) (congrArg NI.arriving h)

theorem lands_ne (n : NI) : lands s r f n ≠ {} := by
  unfold lands
  split
  · exact arrivesIn_ne _ n
  · exact landsIn_ne _ n

/-- The least margin of a flit's last link is kept, where the flit has a route by the darn map of `s` (R185). -/
def marginNoted (s : State) (r slot : Nat) (f : SetFlit) (t : State) : State :=
  let d := physOf s.grid.skip r
  let src := physOf s.grid.skip f.hdr.srank.toNat
  match setOutput s src f.hdr with
  | some _ =>
    let last := (src :: setRoute s.grid.skip f.hdr.order f.hdr.srank.toNat r).dropLast.getLastD d
    match portTo d last with
    | some p => modRx d p (fun x => { x with margin := min x.margin (f.hdr.due.toNat + 8 - slot) }) t
    | none => t
  | none => t

theorem setLanding_eq (r slot : Nat) (f : SetFlit) (s : State) :
    setLanding r slot f s = marginNoted s r slot f (modNI (physOf s.grid.skip r) (lands s r f) s) := by
  unfold lands
  by_cases hearly : f.hdr.dstitch.toNat = (dieOf s (physOf s.grid.skip r)).count.toNat % 256
  · simp only [setLanding, hearly, if_true]
    rfl
  · simp only [setLanding, hearly, if_false, bne_iff_ne]
    rfl

theorem marginNoted_unrouted {t : State} (hroute : setOutput s (physOf s.grid.skip f.hdr.srank.toNat) f.hdr = none) :
    marginNoted s r slot f t = t := by
  simp only [marginNoted, hroute]

theorem exists_marginNoted_eq (s : State) (r slot : Nat) (f : SetFlit) (t : State) : ∃ l, marginNoted s r slot f t = { t with links := l } := by
  unfold marginNoted
  dsimp only
  split
  · split
    · exact ⟨_, rfl⟩
    · exact ⟨t.links, rfl⟩
  · exact ⟨t.links, rfl⟩

/-- After a landing the interface holds what the landing left, whatever else its table lists. -/
theorem niOf_setLanding : niOf (setLanding r slot f s) (physOf s.grid.skip r) = lands s r f (niOf s (physOf s.grid.skip r)) := by
  obtain ⟨l, hl⟩ := exists_marginNoted_eq s r slot f (modNI (physOf s.grid.skip r) (lands s r f) s)
  rw [setLanding_eq, hl]
  exact niOf_modNI_of_ne (lands_ne _)

/-- A landing changes no part of the panel but the interfaces and the links. -/
theorem setLanding_frame : { setLanding r slot f s with nis := s.nis, links := s.links } = s := by
  obtain ⟨l, hl⟩ := exists_marginNoted_eq s r slot f (modNI (physOf s.grid.skip r) (lands s r f) s)
  rw [setLanding_eq, hl]
  rfl

end

/-- Settles O45: a set flit is the case of its operation that its die, its slot and its link select, and a landing the case that its stitch
selects.  That a flit on its way keeps a due slot of 448 to 511 rests on log entry 135. -/
theorem setFlits : Obligations.SetFlits := by
  refine ⟨fun d p slot f s hwf hout => ⟨fun hsrc => ⟨fun hnone => ?nothing, fun k h hat hflit => ?source⟩, fun hsrc => ?transit⟩,
    fun r slot f s hwf hroute => ?unrouted, fun r slot f s hwf => ⟨_, done_of_wf hwf rfl, setLanding_frame, ?landing⟩⟩
  case nothing => exact done_of_wf hwf ((setForward_source hout hsrc).trans (setDepart_nothing hnone))
  case source =>
    have heq := (setForward_source (slot := slot) hout hsrc).trans (setDepart_handed hat hflit)
    refine ⟨fun hheld => done_of_wf hwf (heq.trans (if_pos (setWaits_iff.2 hheld))), fun hgoes => ?_⟩
    exact setLeaves_of_setLeave rfl rfl (done_of_wf hwf (heq.trans (if_neg (mt setWaits_iff.1 hgoes))))
  case transit =>
    have heq := setForward_transit (slot := slot) hout hsrc
    refine ⟨fun hheld => done_of_wf hwf (heq.trans (if_pos (setWaits_transit_iff.2 hheld))), fun hgoes => ?_⟩
    exact setLeaves_of_setLeave rfl rfl (done_of_wf hwf (heq.trans (if_neg (mt setWaits_transit_iff.1 hgoes))))
  case unrouted =>
    have heq := (setLanding_eq r slot f s).trans (marginNoted_unrouted hroute)
    refine ⟨fun hlater => done_of_wf hwf (heq.trans ?_), fun hearly => done_of_wf hwf (heq.trans ?_)⟩
    · rw [lands, if_neg hlater]
      rfl
    · rw [lands, if_pos hearly]
      rfl
  case landing =>
    refine ⟨fun hlater => ?_, fun hearly => ?_⟩
    · rw [niOf_setLanding, lands, if_neg hlater]
      exact landing_landsIn _ _
    · rw [niOf_setLanding, lands, if_pos hearly]
      rfl

end Sys2Proof.Machine
end

section
/-! PROOF. Free traffic (R252 to R256): what an output sends in a slot, how one flit moves on, what an acknowledgement does to the flits in
flight and to the rate window, and what becomes of a flit that is not acknowledged. -/

namespace Sys2Proof.Machine

open Sys2Proof

/-! ## What an output sends (R237, R277, R281, R285) -/

section

variable {d slot p : Nat} {s : State}

/-- An output takes a slot. -/
def slotUsed (d slot p : Nat) (s : State) : State := modNI d (fun n => { n with used := (p, slot) :: n.used }) s

theorem slotReplay_notAxust (hlink : (linkOf s d p).state ≠ .axust) : slotReplay d slot p s = s := if_pos hlink

theorem slotReplay_sends {q : BitVec 12} {l : List (BitVec 12)} (hlink : (linkOf s d p).state = .axust) (hroom : txRoom s d p = true)
    (hfree : outBusy s d slot p = false) (hreplays : (txDir (linkOf s d p) d p).replays = q :: l) :
    slotReplay d slot p s = sendReplay d p slot (slotUsed d slot p s) := by
  simp only [slotReplay, hlink, ne_eq, not_true_eq_false, hroom, hfree, hreplays, List.isEmpty_cons, Bool.or_self, Bool.false_eq_true,
    if_true, if_false, slotUsed]

theorem slotIdle_notAxust (hlink : (linkOf s d p).state ≠ .axust) : slotIdle d slot p s = s := by
  simp only [slotIdle, hlink, ne_eq, not_false_eq_true, decide_true, Bool.true_or, if_true]

theorem slotIdle_busy (hbusy : outBusy s d slot p = true) : slotIdle d slot p s = s := by
  simp only [slotIdle, hbusy, Bool.or_true, if_true]

theorem slotIdle_sends (hlink : (linkOf s d p).state = .axust) (hfree : outBusy s d slot p = false) :
    slotIdle d slot p s = frameOut d p 5 0 false 0 (List.replicate 256 0) (slotUsed d slot p s) := by
  simp only [slotIdle, hlink, ne_eq, not_true_eq_false, decide_false, hfree, Bool.or_self, Bool.false_eq_true, if_false, slotUsed]

end

/-! ## How one flit moves (R252, R253) -/

section

variable {serve : MemServe} {d : Nat} {x : Nat × FreeFlit} {s : State} {taken : List Nat}

/-- The die that a header is addressed to. -/
def destOf (s : State) (h : RouteHdr) : Option Nat := endpointDie s h.drank.toNat h.dclass.toNat h.addr.toNat h.kind.toNat

/-- A flit leaves the input of a die. -/
def inputTaken (d : Nat) (x : Nat × FreeFlit) (s : State) : State := modNI d (fun n => { n with inq := n.inq.erase x }) s

theorem routeOne_nowhere (hdest : destOf s x.2.hdr = none) :
    routeOne serve d x (s, taken) = (niCount d 3 (inputTaken d x s), taken) := by
  unfold destOf at hdest
  simp only [routeOne, hdest, inputTaken]

theorem routeOne_ejects (hdest : destOf s x.2.hdr = some d) :
    routeOne serve d x (s, taken) =
      (ackAt32 d x.2.hdr (eject serve d { x.2 with hdr := markEject s d x.2.hdr } (inputTaken d x s)), taken) := by
  unfold destOf at hdest
  simp only [routeOne, hdest, if_true, inputTaken]

variable {e : Nat}

theorem routeOne_hopsOver (hdest : destOf s x.2.hdr = some e) (hne : e ≠ d) (hhops : x.2.hdr.hops = 63) :
    routeOne serve d x (s, taken) = (niCount d 0 (inputTaken d x s), taken) := by
  unfold destOf at hdest
  simp only [routeOne, hdest, hne, hhops, if_true, if_false, inputTaken]

theorem routeOne_sends {p : Nat} (hdest : destOf s x.2.hdr = some e) (hne : e ≠ d) (hhops : x.2.hdr.hops ≠ 63)
    (hout : minBy (outPref d e) (productive s d e (fromRing x.2.hdr) taken) = some p) :
    routeOne serve d x (s, taken) = (freeSend d p false x.2 (inputTaken d x s), p :: taken) := by
  unfold destOf at hdest
  simp only [routeOne, hdest, hne, hhops, hout, if_false, inputTaken]

end

/-! ## Rate windows (R256) -/

section

variable {n w a now k : Nat} {win : RateWin}

theorem growWin_of_lt (h : a < w) : growWin n w a = (w, a) := by
  cases n with
  | zero => rfl
  | succ n => exact if_neg (Nat.not_le.2 h)

/-- One window of flits has been acknowledged, and not yet one at the window that has grown. -/
theorem growWin_once (hn : 0 < n) (hle : w ≤ a) (hlt : a < w + min 512 (w + 1)) : growWin n w a = (min 512 (w + 1), a - w) := by
  obtain ⟨m, rfl⟩ := Nat.exists_eq_succ_of_ne_zero hn.ne'
  exact (if_pos hle).trans (growWin_of_lt (by omega))

theorem winAck_halves (hsoon : (win.halved.any fun t => decide (now < t + 8000)) = false) :
    winAck now k true win = ({ win with w := max 2 (win.w / 2), acked := 0, halved := some now }, true) := by
  simp only [winAck, hsoon, Bool.false_eq_true, if_true, if_false]

theorem winAck_soon (hsoon : (win.halved.any fun t => decide (now < t + 8000)) = true) : winAck now k true win = (win, false) := by
  simp only [winAck, hsoon, if_true]

theorem winAck_grows (hpos : 0 < win.w) (hle : win.w ≤ win.acked + k) (hlt : win.acked + k < win.w + min 512 (win.w + 1)) :
    winAck now k false win = ({ win with w := min 512 (win.w + 1), acked := win.acked + k - win.w }, false) := by
  simp only [winAck, Bool.false_eq_true, if_false, growWin_once (hpos.trans_le hle) hle hlt]

theorem winAck_counts (hlt : win.acked + k < win.w) : winAck now k false win = ({ win with acked := win.acked + k }, false) := by
  simp only [winAck, Bool.false_eq_true, if_false, growWin_of_lt hlt]

end

/-! ## Acknowledgements (R254 to R256) -/

section

variable {d : Nat} {dr : W16} {dc : BitVec 4} {l : List AckRec} {ece : Bool} {s : State}

/-- Whether an acknowledgement covers a flit. -/
def covered (dr : W16) (dc : BitVec 4) (l : List AckRec) (x : Sent) : Bool := l.any fun r => ackCovers dr dc r x

/-- The interface in which the covered flits have retired and a rate window is stored, after a halving or none. -/
def windowStored (now : Nat) (n : NI) (dr : W16) (dc : BitVec 4) (l : List AckRec) (w : RateWin × Bool) : NI :=
  let kept := winPut { n with sent := n.sent.filter fun x => !covered dr dc l x } w.1
  if w.2 then countHalving now kept else kept

/-- The panel in which the interface has taken an acknowledgement. -/
def ackTaken (d : Nat) (dr : W16) (dc : BitVec 4) (l : List AckRec) (ece : Bool) (s : State) : State :=
  modNI d (fun n => windowStored (refNow s).toNat n dr dc l
    (winAck (refNow s).toNat ((niOf s d).sent.filter (covered dr dc l)).length ece (winOf (niOf s d) dr dc))) s

theorem ackTaken_of_winAck {w : RateWin × Bool} (hw : winAck (refNow s).toNat ((niOf s d).sent.filter (covered dr dc l)).length ece
    (winOf (niOf s d) dr dc) = w) :
    ackTaken d dr dc l ece s = modNI d (fun _ => windowStored (refNow s).toNat (niOf s d) dr dc l w) s := by
  rw [← hw]
  rfl

/-- An interface that stores a window is not in its reset state. -/
theorem windowStored_ne (now : Nat) (n : NI) (w : RateWin × Bool) : windowStored now n dr dc l w ≠ {} := by
  intro h
  have hwins := congrArg NI.wins h
  unfold windowStored at hwins
  dsimp only at hwins
  split at hwins <;> exact List.cons_ne_nil _ _ hwins

theorem windowStored_sent (now : Nat) (n : NI) (w : RateWin × Bool) :
    (windowStored now n dr dc l w).sent = n.sent.filter fun x => !covered dr dc l x := by
  unfold windowStored
  dsimp only
  split <;> rfl

/-- Only compute dies have transfers to credit. -/
theorem freeAck_noCores (hd : 144 ≤ d) : freeAck d dr dc l ece s = ackTaken d dr dc l ece s :=
  if_neg (Nat.not_lt.2 hd)

/-- What changes of clusters keep, kept where the transfers of a compute die are credited. -/
theorem apply_freeAck {α : Type} (p : State → α) (h : ∀ e k g t, p (modClu e k g t) = p t) (d : Nat) (dr : W16) (dc : BitVec 4)
    (l : List AckRec) (ece : Bool) (s : State) : p (freeAck d dr dc l ece s) = p (ackTaken d dr dc l ece s) := by
  by_cases hd : d < 144
  · refine (congrArg p (if_pos hd)).trans ?_
    exact apply_foldl p (fun t x => apply_foldl p (fun u k => h d k _ u) _ t) _ _
  · exact congrArg p (if_neg hd)

/-- An acknowledgement changes no part of the panel but the interfaces and the clusters. -/
theorem freeAck_frame : { freeAck d dr dc l ece s with nis := s.nis, clus := s.clus } = s :=
  apply_freeAck (fun t => { t with nis := s.nis, clus := s.clus }) (fun _ _ _ _ => rfl) d dr dc l ece s

/-- The covered flits retire. -/
theorem sent_freeAck : (niOf (freeAck d dr dc l ece s) d).sent = (niOf s d).sent.filter fun x => !covered dr dc l x := by
  rw [apply_freeAck (niOf · d) (fun _ _ _ _ => rfl), ackTaken, niOf_modNI_of_ne (windowStored_ne _ _ _), windowStored_sent]

/-- The interfaces of other dies take no notice. -/
theorem niOf_freeAck_ne {e : Nat} (hne : e ≠ d) : niOf (freeAck d dr dc l ece s) e = niOf s e := by
  rw [apply_freeAck (niOf · e) (fun _ _ _ _ => rfl), ackTaken, niOf_modNI_ne _ _ hne]

end

/-! ## Unacknowledged flits (R254) -/

section

variable {d : Nat} {sr : W16} {m : BitVec 12} {o : BitVec 17} {s : State}

theorem ackTimer_sends {r : RxMsg} (hfind : ((niOf s d).rx.find? fun x => x.srank == sr && x.msg == m && !x.unacked.isEmpty) = some r) :
    ackTimer d sr m s = sendAck d r s := by
  simp only [ackTimer, hfind]

theorem ackTimer_idle (hfind : ((niOf s d).rx.find? fun x => x.srank == sr && x.msg == m && !x.unacked.isEmpty) = none) :
    ackTimer d sr m s = s := by
  simp only [ackTimer, hfind]

variable {x : Sent}

/-- A flit that has not been sent again six times is sent again, but by a drained interface. -/
theorem retransmit_sends (hfind : ((niOf s d).sent.find? fun y => y.flit.hdr.msg == m && y.flit.hdr.off == o) = some x)
    (hfew : x.tries < 6) :
    retransmit d m o s = modNI d (fun n => { n with
      sent := n.sent.map fun y => if y.flit.hdr.msg = m ∧ y.flit.hdr.off = o then { y with tries := y.tries + 1 } else y
      inj := if n.drained then n.inj else n.inj ++ [x.flit], cnt := cntInc n.cnt 1 }) s := by
  simp only [retransmit, hfind, hfew, if_true]

/-- One that has been raises FTX, which aborts the round. -/
theorem retransmit_fails (hfind : ((niOf s d).sent.find? fun y => y.flit.hdr.msg == m && y.flit.hdr.off == o) = some x)
    (hmany : 6 ≤ x.tries) :
    retransmit d m o s = abortRound 5 (addFault d { code := 0x20, detail := x.flit.hdr.drank }
      (modNI d (fun n => { n with sent := n.sent.filter fun y => !(y.flit.hdr.msg == m), cnt := cntInc n.cnt 2 }) s)) := by
  simp only [retransmit, hfind, Nat.not_lt.2 hmany, if_false]

end

/-- Settles O46: a slot is its operation, and each part of it, an acknowledgement and a timeout are the cases that their premises select. -/
theorem freeFlits : Obligations.FreeFlits := by
  refine ⟨fun d slot s hwf => done_of_wf hwf rfl, fun d slot p s => ?outputs, fun d x s taken => ?moves,
    fun d dr dc l ece s hd hlow => ?windows, fun d dr dc l ece s hd => ?retires, fun d sr m s hd => ?timer,
    fun d m o s x hd hfind => ?again⟩
  case outputs =>
    exact ⟨fun h => ⟨slotReplay_notAxust h, slotIdle_notAxust h⟩,
      fun h hroom hfree q l hreplays => slotReplay_sends h hroom hfree hreplays, slotIdle_sends, slotIdle_busy⟩
  case moves => exact ⟨routeOne_nowhere, routeOne_ejects, fun e => routeOne_hopsOver, fun e p => routeOne_sends⟩
  case windows =>
    have hexec {w : RateWin × Bool} (hw : winAck (refNow s).toNat ((niOf s d).sent.filter (covered dr dc l)).length ece
        (winOf (niOf s d) dr dc) = w) :
        exec (.freeFlitAck d dr dc l ece) s = .next (modNI d (fun _ => windowStored (refNow s).toNat (niOf s d) dr dc l w) s) :=
      done_of_wf hd ((freeAck_noCores hlow).trans (ackTaken_of_winAck hw))
    refine ⟨?_, ?_, ?_, ?_⟩
    · rintro rfl hsoon
      exact hexec (winAck_halves hsoon)
    · rintro rfl hsoon
      exact hexec (winAck_soon hsoon)
    · rintro rfl hpos hle hlt
      exact hexec (winAck_grows hpos hle hlt)
    · rintro rfl hlt
      exact hexec (winAck_counts hlt)
  case retires =>
    have hdie : dieOk d = true := decide_eq_true (hd.trans (by decide))
    exact ⟨_, done_of_wf hdie rfl, freeAck_frame, sent_freeAck, fun e => niOf_freeAck_ne⟩
  case timer => exact ⟨fun r hfind => done_of_wf hd (ackTimer_sends hfind), fun hfind => done_of_wf hd (ackTimer_idle hfind)⟩
  case again =>
    exact ⟨fun hfew => done_of_wf hd (congrArg duties (retransmit_sends hfind hfew)),
      fun hmany => done_of_wf hd (congrArg duties (retransmit_fails hfind hmany))⟩

end Sys2Proof.Machine
end

section
/-! PROOF. The control fabric (R259 to R263): what a packet does where its CRC fails, at the die that it is addressed to, at another, and as a
broadcast; and what becomes of one that is not acknowledged. -/

namespace Sys2Proof.Machine

open Sys2Proof

/-! ## What a packet does at its die (R259, R260) -/

section

variable {d : Nat} {b : List Byte} {s : State}

/-- Type 0x07 drains the interface, which reports itself empty. -/
theorem ctlAct_drains (hty : leAt b 0 1 = 7) :
    ctlAct d b s = packetReply 8 d (leAt b 4 2) [] (modNI d (fun n => { n with drained := true, inq := [], cnt := cntInc n.cnt 7 }) s) := by
  simp only [ctlAct, hty]

/-- A table write is taken by a drained interface, whose waiting flits enter again. -/
theorem ctlAct_writes (hty : leAt b 0 1 = 1) (hdrained : (niOf s d).drained = true) :
    ctlAct d b s = modNI d (fun n => { n with
      drained := false, inj := (n.inj.filter fun f => f.hdr.kind == 1) ++ n.sent.map (·.flit) }) s := by
  simp only [ctlAct, hty, hdrained, if_true]

/-- A table write that finds the interface in use is refused, and the drain is repeated. -/
theorem ctlAct_refuses (hty : leAt b 0 1 = 1) (hdrained : (niOf s d).drained = false) :
    ctlAct d b s = drainFabric (packetReply 9 d (leAt b 4 2) [] (niCount d 8 s)) := by
  simp only [ctlAct, hty, hdrained, Bool.false_eq_true, if_false]

/-- The 52 bytes that answer a read, of which the manual states no value. -/
def answerBytes (s : State) : List Byte := (List.range 52).map fun i => Config.freeByte (s.free + i)

theorem ctlAct_reads (hty : leAt b 0 1 = 2) :
    ctlAct d b s = packetReply 3 d (leAt b 4 2) (answerBytes s) { s with free := s.free + 52 } := by
  simp only [ctlAct, hty, answerBytes]

theorem ctlAct_other (hwrite : leAt b 0 1 ≠ 1) (hread : leAt b 0 1 ≠ 2) (hdrain : leAt b 0 1 ≠ 7) : ctlAct d b s = s := by
  unfold ctlAct
  split
  next h => exact absurd h hwrite
  next h => exact absurd h hread
  next h => exact absurd h hdrain
  next => rfl

end

/-! ## Where a packet goes (R261, R263) -/

section

variable {d p : Nat} {b : List Byte} {e : Nat × Nat} {s : State}

/-- The end of a link sees the packet that it sent acknowledged (R263). -/
def linkAcked (e : Nat × Nat) (b : List Byte) (s : State) : State :=
  modNI e.1 (fun n => { n with ctlSent := n.ctlSent.filter fun x => !(x.port == e.2 && x.seq.toNat == leAt b 6 2) }) s

theorem ctlForMe_self (d : Nat) (s : State) : ctlForMe s d d = true := by
  simp [ctlForMe]

/-- Below the broadcast addresses a packet is for one die only. -/
theorem ctlForMe_other {dest : Nat} (hne : dest ≠ d) (hlow : dest < 0xFFFD) : ctlForMe s d dest = false := by
  have h1 : dest ≠ 0xFFFF := by omega
  have h2 : dest ≠ 0xFFFE := by omega
  have h3 : dest ≠ 0xFFFD := by omega
  simp [ctlForMe, hne, h1, h2, h3]

theorem controlPacket_corrupt (hcrc : ctlCrcOk b = false) : controlPacket d p b s = niCount d (ctlCnt p 0) s := by
  simp only [controlPacket, hcrc, Bool.not_false, if_true]

/-- A good packet is acknowledged at its link, acts where it is addressed to the die, and goes on. -/
theorem controlPacket_good (hcrc : ctlCrcOk b = true) (hpeer : peer d p = some e) :
    controlPacket d p b s =
      let u := if ctlForMe s d (leAt b 2 2) then ctlAct d b (linkAcked e b s) else linkAcked e b s
      if 0xFFFD ≤ leAt b 2 2 then ((ctlChildren s d).filter (· != p)).foldl (ctlSend d b) u
      else if leAt b 2 2 = d then u
      else (ctlToward s d (leAt b 2 2)).elim u (ctlSend d b u) := by
  simp only [controlPacket, hcrc, hpeer, Bool.not_true, Bool.false_eq_true, if_false, linkAcked]
  cases ctlToward s d (leAt b 2 2) <;> rfl

/-- A packet for the die itself acts there and goes no further. -/
theorem controlPacket_here (hcrc : ctlCrcOk b = true) (hpeer : peer d p = some e) (hlow : d < 0xFFFD) (hdest : leAt b 2 2 = d) :
    controlPacket d p b s = ctlAct d b (linkAcked e b s) := by
  simp only [controlPacket_good hcrc hpeer, hdest, ctlForMe_self, Nat.not_le.2 hlow, if_true, if_false]

/-- A packet for another die goes on where there is a way. -/
theorem controlPacket_onward {q : Nat} (hcrc : ctlCrcOk b = true) (hpeer : peer d p = some e) (hne : leAt b 2 2 ≠ d)
    (hlow : leAt b 2 2 < 0xFFFD) (hway : ctlToward s d (leAt b 2 2) = some q) :
    controlPacket d p b s = ctlSend d b (linkAcked e b s) q := by
  simp only [controlPacket_good hcrc hpeer, ctlForMe_other hne hlow, hne, Nat.not_le.2 hlow, hway, Bool.false_eq_true, if_false, Option.elim]

theorem controlPacket_stuck (hcrc : ctlCrcOk b = true) (hpeer : peer d p = some e) (hne : leAt b 2 2 ≠ d) (hlow : leAt b 2 2 < 0xFFFD)
    (hway : ctlToward s d (leAt b 2 2) = none) : controlPacket d p b s = linkAcked e b s := by
  simp only [controlPacket_good hcrc hpeer, ctlForMe_other hne hlow, hne, Nat.not_le.2 hlow, hway, Bool.false_eq_true, if_false, Option.elim]

/-- A broadcast goes on to the ports of the tree but the one by which it came. -/
theorem controlPacket_broadcast (hcrc : ctlCrcOk b = true) (hpeer : peer d p = some e) (hhigh : 0xFFFD ≤ leAt b 2 2) :
    controlPacket d p b s = ((ctlChildren s d).filter (· != p)).foldl (ctlSend d b)
      (if ctlForMe s d (leAt b 2 2) then ctlAct d b (linkAcked e b s) else linkAcked e b s) :=
  (controlPacket_good hcrc hpeer).trans (if_pos hhigh)

/-- A die's number is no broadcast address. -/
theorem lt_broadcast_of_portOk (h : portOk d p = true) : d < 0xFFFD := by
  simp only [portOk, dieOk, Bool.and_eq_true, decide_eq_true_eq] at h
  have hdies : numDies = 226 := rfl
  omega

end

/-- Settles O47: a packet is the case of its operation that its CRC, destination and type select, and a resend the case that its count selects.
The way by which a packet goes on rests on log entry 143, and that a refused write has the drain repeated within the command is the model's
choice (log entry 139). -/
theorem controlFabric : Obligations.ControlFabric := by
  intro d p s hport
  refine ⟨fun b hcrc => done_of_wf hport (controlPacket_corrupt hcrc), fun b e hcrc hpeer => ?good,
    fun seq => ⟨fun hfew => done_of_wf hport (if_pos hfew), fun hmany => done_of_wf hport (if_neg (Nat.not_lt.2 hmany))⟩⟩
  have hhere : leAt b 2 2 = d → controlPacket d p b s = ctlAct d b (linkAcked e b s) :=
    controlPacket_here hcrc hpeer (lt_broadcast_of_portOk hport)
  refine ⟨fun hd hty => ?drains, fun hd hty hdrained => ?writes, fun hd hty hdrained => ?refuses, fun hd hty => ?reads,
    fun hd hwrite hread hdrain => ?other, fun hne hlow => ⟨fun q hway => ?onward, fun hway => ?stuck⟩, fun hhigh => ?broadcast⟩
  case drains => exact done_of_wf hport ((hhere hd).trans (ctlAct_drains hty))
  case writes => exact done_of_wf hport ((hhere hd).trans (ctlAct_writes hty hdrained))
  case refuses => exact done_of_wf hport ((hhere hd).trans (ctlAct_refuses hty hdrained))
  case reads => exact ⟨answerBytes (linkAcked e b s), by simp [answerBytes], done_of_wf hport ((hhere hd).trans (ctlAct_reads hty))⟩
  case other => exact done_of_wf hport ((hhere hd).trans (ctlAct_other hwrite hread hdrain))
  case onward => exact done_of_wf hport (controlPacket_onward hcrc hpeer hne hlow hway)
  case stuck => exact done_of_wf hport (controlPacket_stuck hcrc hpeer hne hlow hway)
  case broadcast => exact done_of_wf hport (controlPacket_broadcast hcrc hpeer hhigh)

end Sys2Proof.Machine
end

section
/-! PROOF. Axust frames and raw flits (R277, R279, R282 to R284, R288, R289, R291): their layouts read back and pass their CRC, and what a
receiver does with each frame, each replay that is due and each raw flit. -/

namespace Sys2Proof.Machine

open Sys2Proof

/-! ## The layout of a frame (R277) -/

theorem frameGood_frameBits (f : AxFrame) : frameGood (frameBits f) f.payload = true := by
  have hhead : (frameBits f).extractLsb' 64 192 = frameHead f := BitVec.extractLsb'_append_eq_left
  have hcrc : (frameBits f).extractLsb' 0 64 = frameCrc (frameHead f) f.payload := BitVec.extractLsb'_append_eq_right
  rw [frameGood, hhead, hcrc, beq_self_eq_true]

/-- The channel has three bits. -/
theorem frameFields_frameBits {f : AxFrame} (h : f.chan < 8) : frameFields (frameBits f) f.payload = f := by
  have hchan : f.chan % 8 = f.chan := Nat.mod_eq_of_lt h
  simp (disch := omega) only [frameFields, frameBits, frameHead, BitVec.extractLsb'_append_eq_of_le,
    BitVec.extractLsb'_append_eq_of_add_le, getLsbD_append_low, getLsbD_append_high]
  simp [hchan]

/-- The bits of a set header read back (R278). -/
theorem setOfBits_setBits (h : SetHdr) : setOfBits (setBits h) = h := by
  simp (disch := omega) only [setOfBits, setBits, BitVec.extractLsb'_append_eq_of_le, BitVec.extractLsb'_append_eq_of_add_le,
    getLsbD_append_low, getLsbD_append_high]
  simp

/-! ## Numbers in byte lists (R15) -/

/-- A number among bytes reads back. -/
theorem leAt_append_natLe {a : List Byte} {o : Nat} (n v : Nat) (b : List Byte) (h : a.length = o) :
    leAt (a ++ (natLe n v ++ b)) o n = v % 256 ^ n := by
  rw [leAt, List.drop_left' h, List.take_left' (length_natLe n v), leNat_natLe]

/-- Bytes are those of the number that they spell. -/
theorem natLe_leNat (l : List Byte) : natLe l.length (leNat l) = l := by
  induction l with
  | nil => rfl
  | cons b l ih =>
    have hb := b.isLt
    have hlow : BitVec.ofNat 8 (b.toNat + 256 * leNat l) = b := BitVec.eq_of_toNat_eq (by rw [BitVec.toNat_ofNat]; omega)
    have hhigh : (b.toNat + 256 * leNat l) / 256 = leNat l := by omega
    rw [List.length_cons, leNat, natLe, hlow, hhigh, ih]

theorem leNat_lt (l : List Byte) : leNat l < 256 ^ l.length := by
  rw [← natLe_leNat l, leNat_natLe, length_natLe]
  exact Nat.mod_lt _ (by positivity)

/-- A list of the length asked for needs neither zeros nor cutting. -/
theorem fitBytes_of_length {n : Nat} {l : List Byte} (h : l.length = n) : fitBytes n l = l := by
  rw [fitBytes, h, Nat.sub_self, List.replicate_zero, List.append_nil, List.take_of_length_le h.le]

/-! ## The layout of a raw flit (R288) -/

section

variable {pl : List Byte} (hpl : pl.length = 256)

include hpl

theorem length_rawHead (h : SetHdr) (q : BitVec 12) : (rawHead h q pl).length = 280 := by
  simp only [rawHead, fitBytes_of_length hpl, List.length_append, length_natLe, hpl]

theorem length_rawBytes (h : SetHdr) (q : BitVec 12) : (rawBytes h q pl).length = 288 := by
  simp only [rawBytes, List.length_append, length_natLe, length_rawHead hpl]

theorem rawGood_rawBytes (h : SetHdr) (q : BitVec 12) : rawGood (rawBytes h q pl) = true := by
  have hlen := length_rawHead hpl h q
  have hhead : (rawBytes h q pl).take 280 = rawHead h q pl := List.take_left' hlen
  have hlt : (crc64 (crcBytes (rawHead h q pl))).toNat < 256 ^ 8 := (BitVec.isLt _).trans_eq (by norm_num)
  have hcrc : leAt (rawBytes h q pl) 280 8 = (crc64 (crcBytes (rawHead h q pl))).toNat := by
    rw [rawBytes, ← List.append_nil (natLe 8 _), leAt_append_natLe 8 _ [] hlen, Nat.mod_eq_of_lt hlt]
  rw [rawGood, length_rawBytes hpl, hhead, hcrc, BitVec.ofNat_toNat, BitVec.setWidth_eq, beq_self_eq_true, beq_self_eq_true, Bool.and_self]

/-- A raw flit is its payload, its set header and 16 bytes more. -/
theorem rawBytes_eq (h : SetHdr) (q : BitVec 12) : rawBytes h q pl = pl ++ natLe 16 (setBits h).toNat ++
    (natLe 2 q.toNat ++ (natLe 6 0 ++ natLe 8 (crc64 (crcBytes (rawHead h q pl))).toNat)) := by
  simp only [rawBytes, rawHead, fitBytes_of_length hpl, List.append_assoc]

theorem rawSeq_rawBytes (h : SetHdr) (q : BitVec 12) : rawSeq (rawBytes h q pl) = q := by
  have hseq := q.isLt
  rw [rawSeq, rawBytes_eq hpl, leAt_append_natLe 2 q.toNat _ (by rw [List.length_append, length_natLe, hpl])]
  exact BitVec.eq_of_toNat_eq (by rw [BitVec.toNat_ofNat]; omega)

theorem exists_rawFlit_eq_rawBytes (h : SetHdr) (q : BitVec 12) : ∃ tail, rawBytes h q pl = rawFlit pl (setBits h) tail := by
  generalize htail : natLe 2 q.toNat ++ (natLe 6 0 ++ natLe 8 (crc64 (crcBytes (rawHead h q pl))).toNat) = rest
  have hlen : rest.length = 16 := by simp only [← htail, List.length_append, length_natLe]
  have hlt : leNat rest < 2 ^ 128 := (leNat_lt rest).trans_eq (by rw [hlen]; norm_num)
  refine ⟨BitVec.ofNat 128 (leNat rest), ?_⟩
  rw [rawFlit, BitVec.toNat_ofNat, Nat.mod_eq_of_lt hlt, ← hlen, natLe_leNat, rawBytes_eq hpl, htail, hlen]

theorem rawHdr_rawFlit (hdr tail : BitVec 128) : rawHdr (rawFlit pl hdr tail) = hdr := by
  have hlt : hdr.toNat < 256 ^ 16 := hdr.isLt.trans_eq (by norm_num)
  rw [rawHdr, rawFlit, List.append_assoc, leAt_append_natLe 16 hdr.toNat _ hpl, Nat.mod_eq_of_lt hlt, BitVec.ofNat_toNat, BitVec.setWidth_eq]

theorem take_rawFlit (hdr tail : BitVec 128) : (rawFlit pl hdr tail).take 256 = pl := by
  rw [rawFlit, List.append_assoc, List.take_left' hpl]

end

/-- A raw flit that passes its check has 288 bytes, of which the payload is 256. -/
theorem length_of_rawGood {pl : List Byte} {hdr tail : BitVec 128} (h : rawGood (rawFlit pl hdr tail) = true) : pl.length = 256 := by
  rw [rawGood, Bool.and_eq_true, beq_iff_eq] at h
  obtain ⟨hlen, -⟩ := h
  simp only [rawFlit, List.length_append, length_natLe] at hlen
  omega

/-- Raw flits laid out as R288 says give their fields back and pass their CRC. -/
theorem rawBytes_reads {l : List Byte} (hl : l.length = 256) (h : SetHdr) (q : BitVec 12) :
    let b := rawBytes h q l
    b.length = 288 ∧ rawGood b = true ∧ rawSeq b = q ∧ setOfBits (rawHdr b) = h ∧ b.take 256 = l ∧
      ∃ tail, b = rawFlit l (setBits h) tail := by
  obtain ⟨tail, hflit⟩ := exists_rawFlit_eq_rawBytes hl h q
  refine ⟨length_rawBytes hl h q, rawGood_rawBytes hl h q, rawSeq_rawBytes hl h q, ?_, ?_, tail, hflit⟩
  · rw [hflit, rawHdr_rawFlit hl, setOfBits_setBits]
  · rw [hflit, take_rawFlit hl]

/-! ## What a good frame brings (R283) -/

section

variable {d p : Nat} {f : AxFrame} {s : State}

/-- The frames that a frame's ACKSEQ covers are retired. -/
def frameAcked (d p : Nat) (f : AxFrame) (s : State) : State := modTx d p (ackFrames f.ackseq) s

/-- Whether a frame's flit has come before. -/
def frameSeen (d p : Nat) (f : AxFrame) (s : State) : Bool :=
  rxDuplicate (rxDir (linkOf (frameAcked d p f s) d p) d p) f.seq

theorem takeFrame_noFlit (hchan : 5 ≤ f.chan) : takeFrame d p f s = frameAcked d p f s := if_pos hchan

theorem takeFrame_duplicate (hseen : frameSeen d p f s = true) : takeFrame d p f s = frameAcked d p f s := by
  by_cases hchan : 5 ≤ f.chan
  · exact takeFrame_noFlit hchan
  · exact (if_neg hchan).trans (if_pos hseen)

/-- A free flit waits at the die. -/
theorem takeFrame_free (hnew : frameSeen d p f s = false) (hlow : 1 ≤ f.chan) (hhigh : f.chan ≤ 4) :
    takeFrame d p f s = modNI d (fun n => { n with
      inq := n.inq ++ [(p, { hdr := routeOfBits f.hdr, chan := f.chan, payload := f.payload })] })
      (modRx d p (rxNoteSeq f.seq) (frameAcked d p f s)) :=
  (if_neg (by omega)).trans ((if_neg (Bool.eq_false_iff.1 hnew)).trans (if_neg (by omega)))

theorem takeFrame_set (hnew : frameSeen d p f s = false) (hchan : f.chan = 0) :
    takeFrame d p f s = acceptSet d f.hdr f.payload (modRx d p (rxNoteSeq f.seq) (frameAcked d p f s)) :=
  (if_neg (by omega)).trans ((if_neg (Bool.eq_false_iff.1 hnew)).trans (if_pos hchan))

end

/-! ## Frames that arrive and replays that are due (R279, R283, R284) -/

section

variable {d p : Nat} {env : LadderEnv} {rep : RepairEnv} {s : State}

theorem replayOr_asks {q : BitVec 12} (hfew : replayLimit s d p q = false) : replayOr d p q env rep s = modTx d p (askReplay q) s :=
  if_neg (Bool.eq_false_iff.1 hfew)

/-- A frame that has been replayed four times has its link run the ladder. -/
theorem replayOr_climbs {q : BitVec 12} (hmany : replayLimit s d p q = true) : replayOr d p q env rep s = runLadder d p 1 env rep s :=
  if_pos hmany

theorem replayLimit_eq {q : BitVec 12} {x : Framed} (hx : frameOf (txDir (linkOf s d p) d p) q = some x) :
    replayLimit s d p q = decide (4 ≤ x.tries) := by
  simp only [replayLimit, hx]

section

variable {b : BitVec 256} {pl : List Byte}

theorem axustReceive_notAxust (hlink : (linkOf s d p).state ≠ .axust) : axustReceive d p b pl env rep s = s := if_pos hlink

theorem axustReceive_corrupt (hlink : (linkOf s d p).state = .axust) (hbad : frameGood b pl = false) :
    axustReceive d p b pl env rep s = modRx d p (fun x => { x with cnt := cntInc x.cnt (8 + min (frameFields b pl).chan 5) }) s := by
  simp only [axustReceive, hlink, ne_eq, not_true_eq_false, hbad, Bool.not_false, if_true, if_false]

/-- A good frame is taken, and then the SEQ that it names is replayed. -/
theorem axustReceive_good (hlink : (linkOf s d p).state = .axust) (hgood : frameGood b pl = true) :
    axustReceive d p b pl env rep s =
      if nakNamed (takeFrame d p (frameFields b pl) s) d p (frameFields b pl) then
        replayOr d p (frameFields b pl).nakseq env rep (takeFrame d p (frameFields b pl) s)
      else takeFrame d p (frameFields b pl) s := by
  simp only [axustReceive, hlink, ne_eq, not_true_eq_false, hgood, Bool.not_true, Bool.false_eq_true, if_false]

theorem axustReceive_noNak (hlink : (linkOf s d p).state = .axust) (hgood : frameGood b pl = true)
    (hnak : (frameFields b pl).nakv = false) : axustReceive d p b pl env rep s = takeFrame d p (frameFields b pl) s := by
  simp only [axustReceive_good hlink hgood, nakNamed, hnak, Bool.false_and, Bool.false_eq_true, if_false]

theorem axustReceive_nak (hlink : (linkOf s d p).state = .axust) (hgood : frameGood b pl = true)
    (hnak : nakNamed (takeFrame d p (frameFields b pl) s) d p (frameFields b pl) = true) :
    axustReceive d p b pl env rep s = replayOr d p (frameFields b pl).nakseq env rep (takeFrame d p (frameFields b pl) s) :=
  (axustReceive_good hlink hgood).trans (if_pos hnak)

end

section

variable {q : BitVec 12}

/-- A link that carries no frames, or that holds none of the SEQ, replays none. -/
theorem replayTimeout_idle (h : (linkOf s d p).state ≠ .axust ∨ frameOf (txDir (linkOf s d p) d p) q = none) :
    replayTimeout d p q env rep s = s := by
  by_cases hlink : (linkOf s d p).state = .axust
  · simp only [replayTimeout, hlink, h.resolve_left (not_not_intro hlink), ne_eq, not_true_eq_false, if_false]
  · exact if_pos hlink

theorem replayTimeout_due {x : Framed} (hlink : (linkOf s d p).state = .axust) (hx : frameOf (txDir (linkOf s d p) d p) q = some x) :
    replayTimeout d p q env rep s = replayOr d p q env rep (dirCount d p 17 s) := by
  simp only [replayTimeout, hlink, hx, ne_eq, not_true_eq_false, if_false]

end

end

/-! ## Raw flits (R288, R289) -/

section

variable {d p : Nat} {b : List Byte} {s : State}

theorem rawReceive_notRaw (hlink : (linkOf s d p).state ≠ .raw) : rawReceive d p b s = s := if_pos hlink

theorem rawReceive_inOrder (hlink : (linkOf s d p).state = .raw) (hgood : rawGood b = true)
    (hseq : rawSeq b = (rxDir (linkOf s d p) d p).rseqRx) :
    rawReceive d p b s = acceptSet d (rawHdr b) (b.take 256) (modRx d p (fun x => { x with rseqRx := x.rseqRx + 1 }) s) := by
  simp only [rawReceive, hlink, ne_eq, not_true_eq_false, hgood, hseq, beq_self_eq_true, Bool.and_self, if_true, if_false]

/-- Both ends count raw flits from 0 again (R289). -/
def rawRestarted (y : Link) : Link :=
  { y with d0 := { y.d0 with rseqTx := 0, rseqRx := 0 }, d1 := { y.d1 with rseqTx := 0, rseqRx := 0 } }

/-- A raw flit is counted as lost and raises LCK, charged to the site that R291 gives. -/
def rawLost (d p : Nat) (s : State) : State :=
  let u := modRx d p (fun x => { x with cnt := cntInc x.cnt 14 }) s
  addFault d { code := 0x21, link := BitVec.ofNat 4 (linkCode d p) }
    (match chargedSite s d p with | some x => chargeFault x u | none => u)

theorem rawReceive_lost (hlink : (linkOf s d p).state = .raw)
    (hbad : rawGood b = false ∨ rawSeq b ≠ (rxDir (linkOf s d p) d p).rseqRx) :
    rawReceive d p b s = abortRound 3 (modLink d p rawRestarted (rawLost d p s)) := by
  have hdrop : (rawGood b && rawSeq b == (rxDir (linkOf s d p) d p).rseqRx) = false := by
    rwa [Bool.and_eq_false_iff, beq_eq_false_iff_ne]
  exact (if_neg (not_not_intro hlink)).trans (if_neg (Bool.eq_false_iff.1 hdrop))

end

/-- Settles O48: the layouts read back, and each event is the case of its operation that the link's state, the check of the frame or flit and
its fields select.  That what is so laid out passes its CRC rests on the order in which the CRC takes bits and bytes (log entry 140). -/
theorem linkFrames : Obligations.LinkFrames := by
  refine ⟨fun f => ⟨frameGood_frameBits f, frameFields_frameBits⟩, fun h q l hl => rawBytes_reads hl h q, fun d p s hport => ?_⟩
  have hframe : ∀ {b pl env rep t}, axustReceive d p b pl env rep s = t →
      exec (.axustFrameReceive d p ⟨b, pl, env, rep⟩) s = .next (duties t) := fun h => done_of_wf hport (congrArg duties h)
  have hreplay : ∀ {q env rep t}, replayTimeout d p q env rep s = t →
      exec (.replayTimeout d p ⟨q, env, rep⟩) s = .next (duties t) := fun h => done_of_wf hport (congrArg duties h)
  have hraw : ∀ {pl hdr tail t}, rawReceive d p (rawFlit pl hdr tail) s = t →
      exec (.rawFlitReceive d p pl hdr tail) s = .next (duties t) := fun h => done_of_wf hport (congrArg duties h)
  refine ⟨fun b pl env rep => ⟨fun hlink => ?notAxust, fun hlink hbad => ?corrupt, fun hlink hgood hnak => ?taken,
    fun hlink hgood hnak => ?nak⟩, fun q env rep h => ?idle, fun q x env rep hlink hx => ?due, fun q x hx => ?limit,
    fun pl hdr tail hlink => ?notRaw, fun pl hdr tail => ?inOrder, fun pl hdr tail => ?lost⟩
  case notAxust => exact hframe (axustReceive_notAxust hlink)
  case corrupt => exact hframe (axustReceive_corrupt hlink hbad)
  case taken =>
    have htake := axustReceive_noNak (env := env) (rep := rep) hlink hgood hnak
    exact ⟨fun hchan => hframe (htake.trans (takeFrame_noFlit hchan)), fun hseen => hframe (htake.trans (takeFrame_duplicate hseen)),
      fun hnew => ⟨fun hlow hhigh => hframe (htake.trans (takeFrame_free hnew hlow hhigh)),
        fun hchan => hframe (htake.trans (takeFrame_set hnew hchan))⟩⟩
  case nak =>
    have hasked := axustReceive_nak (env := env) (rep := rep) hlink hgood hnak
    exact ⟨fun hfew => hframe (hasked.trans (replayOr_asks hfew)), fun hmany => hframe (hasked.trans (replayOr_climbs hmany))⟩
  case idle => exact hreplay (replayTimeout_idle h)
  case due =>
    have hasked := replayTimeout_due (env := env) (rep := rep) hlink hx
    exact ⟨fun hfew => hreplay (hasked.trans (replayOr_asks hfew)), fun hmany => hreplay (hasked.trans (replayOr_climbs hmany))⟩
  case limit => exact replayLimit_eq hx
  case notRaw => exact hraw (rawReceive_notRaw hlink)
  case inOrder =>
    intro b hlink hgood hseq
    have hpl := length_of_rawGood hgood
    have haccept := rawReceive_inOrder hlink hgood hseq
    rw [rawHdr_rawFlit hpl, take_rawFlit hpl] at haccept
    exact hraw haccept
  case lost => exact fun hlink hbad => hraw (rawReceive_lost hlink hbad)

end Sys2Proof.Machine
end

section
/-! PROOF. Faults of links, requests to retrain, and standby links (R285 to R287, R290 to R296): what each event leaves, and what the ladder
makes of a link. -/

namespace Sys2Proof.Machine

open Sys2Proof

/-! ## Faults and requests (R286, R290 to R293) -/

section

variable {d p : Nat} {env : LadderEnv} {rep : RepairEnv} {s : State}

theorem linkFault_climbs (h : (linkOf s d p).state = .axust ∨ (linkOf s d p).state = .retraining) :
    linkFault d p env rep s = runLadder d p 1 env rep s := by
  obtain h | h := h <;> simp only [linkFault, h]

theorem linkFault_idle (haxust : (linkOf s d p).state ≠ .axust) (hretraining : (linkOf s d p).state ≠ .retraining) :
    linkFault d p env rep s = s := by
  unfold linkFault
  split
  next h => exact absurd h haxust
  next h => exact absurd h hretraining
  next => rfl

section

variable {n : Nat}

theorem runLadder_fails (h : (linkOf (climb d p n env (linkFreeze d p s)) d p).state = .failed) :
    runLadder d p n env rep s = linkFailed d p rep (climb d p n env (linkFreeze d p s)) := if_pos h

theorem runLadder_holds (h : (linkOf (climb d p n env (linkFreeze d p s)) d p).state ≠ .failed) :
    runLadder d p n env rep s = afterLinkChange (linkRelease (freezeEnds s d p) (climb d p n env (linkFreeze d p s))) := if_neg h

end

section

variable {k : SideReq} {own : Option SideReq}

/-- A request that meets an action in progress joins it. -/
theorem retrainRequest_joins (h : (linkOf s d p).acting = true ∨ (linkOf s d p).state = .retraining) :
    retrainRequest d p k own env rep s =
      modLink d p (fun y => { y with cnt := cntInc y.cnt (if leads d p then 10 else 21) }) s := by
  have hacts : ((linkOf s d p).acting || (linkOf s d p).state == .retraining) = true := by
    rwa [Bool.or_eq_true, beq_iff_eq]
  exact if_pos hacts

variable (hacting : (linkOf s d p).acting = false)

include hacting

theorem retrainRequest_idle (hretraining : (linkOf s d p).state ≠ .retraining) (haxust : (linkOf s d p).state ≠ .axust)
    (hraw : (linkOf s d p).state ≠ .raw) : retrainRequest d p k own env rep s = s := by
  have hnone : ¬((linkOf s d p).acting || (linkOf s d p).state == .retraining) = true := by
    rw [hacting, Bool.false_or, beq_iff_eq]
    exact hretraining
  exact (if_neg hnone).trans (if_pos ⟨haxust, hraw⟩)

variable (hlink : (linkOf s d p).state = .axust ∨ (linkOf s d p).state = .raw)

include hlink

/-- A link in service with no action in progress runs the ladder, as the leader asked where both ends have. -/
theorem retrainRequest_climbs : retrainRequest d p k own env rep s =
    runLadder d p (if (if leads d p then own else some k).getD k = .retrain then 1 else 2) env rep
      (modLink d p (noteRequests (if leads d p then own else some k) (if leads d p then some k else own)) s) := by
  have hnone : ¬((linkOf s d p).acting || (linkOf s d p).state == .retraining) = true := by
    obtain h | h := hlink <;> simp [hacting, h]
  have hup : ¬((linkOf s d p).state ≠ .axust ∧ (linkOf s d p).state ≠ .raw) :=
    fun ⟨haxust, hraw⟩ => hlink.elim haxust hraw
  exact (if_neg hnone).trans (if_neg hup)

/-- The leader receives the follower's request, its own outstanding. -/
theorem retrainRequest_atLeader (h : leads d p = true) :
    retrainRequest d p k own env rep s =
      runLadder d p (if own.getD k = .retrain then 1 else 2) env rep (modLink d p (noteRequests own (some k)) s) := by
  simp only [retrainRequest_climbs hacting hlink, h, if_true]

/-- The follower receives the leader's request, which proceeds. -/
theorem retrainRequest_atFollower (h : leads d p = false) :
    retrainRequest d p k own env rep s =
      runLadder d p (if k = .retrain then 1 else 2) env rep (modLink d p (noteRequests (some k) own) s) := by
  simp only [retrainRequest_climbs hacting hlink, h, Bool.false_eq_true, if_false, Option.getD_some]

end

end

/-! ## Freezes leave links in their states (R287) -/

/-- A freeze request concerns the lodestar alone. -/
@[simp] theorem linkOf_freq (e d p : Nat) (s : State) : linkOf (freq e s) d p = linkOf s d p := rfl

@[simp] theorem linkOf_foldl_freq (l : List Nat) (d p : Nat) (s : State) :
    linkOf (l.foldl (fun t e => freq e t) s) d p = linkOf s d p := by
  induction l generalizing s with
  | nil => rfl
  | cons e l ih => rw [List.foldl_cons, ih, linkOf_freq]

/-- A link that was changed to one that is not in its reset state, in any table. -/
theorem linkOf_modLink_of_ne {d p : Nat} {f : Link → Link} {s : State} (h : f (linkOf s d p) ≠ {}) :
    linkOf (modLink d p f s) d p = f (linkOf s d p) := tabGet_tabPut_some _ _ _ _ h

/-- A link in STANDBY is there still when its ends have asked for a freeze. -/
theorem linkFreeze_standby {d p : Nat} {s : State} (h : (linkOf s d p).state = .standby) :
    (linkOf (linkFreeze d p s) d p).state = .standby := by
  unfold linkFreeze
  dsimp only
  split
  · exact h
  · have hne : ({ linkOf s d p with cnt := cntInc (linkOf s d p).cnt 17 } : Link) ≠ {} := by
      intro e
      have hstate : (linkOf s d p).state = .down := congrArg Link.state e
      rw [h] at hstate
      cases hstate
    rw [linkOf_foldl_freq, linkOf_modLink_of_ne hne, h]

/-! ## Standby checks (R296) -/

section

variable {d p : Nat} {found : StandbyFind} {s : State}

/-- A standby link awake, as its wake finds it (R295). -/
def standbyWoken (found : StandbyFind) (d p : Nat) (s : State) : State :=
  let awake := modLink d p (fun y => { y with state := .axust, cnt := cntInc y.cnt 11 }) (linkFreeze d p s)
  match found.wake with
  | none => awake
  | some env => climb d p 1 env awake

/-- A slow wake is counted. -/
def slowCounted (found : StandbyFind) (d p : Nat) (s : State) : State :=
  if found.slow then modLink d p (fun y => { y with cnt := cntInc y.cnt 12 }) s else s

theorem standbyCheck_idle (h : (linkOf s d p).state ≠ .standby) : standbyCheck d p found s = s := if_pos h

variable (h : (linkOf s d p).state = .standby)

include h

theorem wakeBy_linkFreeze : wakeBy found.wake d p (linkFreeze d p s) = standbyWoken found d p s :=
  if_neg (not_not_intro (linkFreeze_standby h))

theorem standbyCheck_runs : standbyCheck d p found s = linkRelease (freezeEnds s d p) (modLink d p (fun y =>
    if found.taken then { y with cnt := cntInc y.cnt 15 } else checkEnd (checkPasses (linkOf s d p) found) y)
    (slowCounted found d p (standbyWoken found d p s))) := by
  rw [← wakeBy_linkFreeze h]
  exact if_neg (not_not_intro h)

/-- A check that a repair cuts short is counted as abandoned. -/
theorem standbyCheck_taken (htaken : found.taken = true) : standbyCheck d p found s = linkRelease (freezeEnds s d p)
    (modLink d p (fun y => { y with cnt := cntInc y.cnt 15 }) (slowCounted found d p (standbyWoken found d p s))) := by
  simp only [standbyCheck_runs h, htaken, if_true]

theorem standbyCheck_ends (htaken : found.taken = false) : standbyCheck d p found s = linkRelease (freezeEnds s d p)
    (modLink d p (checkEnd (checkPasses (linkOf s d p) found)) (slowCounted found d p (standbyWoken found d p s))) := by
  simp only [standbyCheck_runs h, htaken, Bool.false_eq_true, if_false]

end

theorem delaysOk_iff (depth : BitVec 6) (l : List Nat) :
    delaysOk depth l = true ↔ ∀ n ∈ l, n + 2 ≤ depth.toNat + 1 ∧ depth.toNat ≤ n + 3 := by
  simp only [delaysOk, List.all_eq_true, Bool.and_eq_true, decide_eq_true_eq]

/-! ## The ladder (R285, R286) -/

theorem axLanes_le (n : Nat) : axLanes n ≤ n := by
  unfold axLanes
  split
  next hfull => exact hfull
  next =>
    split
    next hhalf => exact hhalf
    next => exact Nat.zero_le n

section

variable {ring : Bool} {first : Nat} {env : LadderEnv} {l : Link}

/-- Whether a module's bundles still work after what the ladder finds. -/
def bundleHolds (lost found : Nat × Nat) (fb : Bool) : Bool := bundleOk (lostMore lost found) && fb

/-- PHYRETRAIN is tried and brings the link back at its width. -/
def QuickHolds (first : Nat) (env : LadderEnv) (l : Link) : Prop :=
  first ≤ 1 ∧ keepsWidth env l (bundleHolds l.frame0 env.frame0 l.fb0) (bundleHolds l.frame1 env.frame1 l.fb1) = true

/-- The working AXUST width of each module. -/
def axWidths (env : LadderEnv) (l : Link) : Nat × Nat := (axLanes (min env.lanes0 l.lanes0), axLanes (min env.lanes1 l.lanes1))

/-- The link still carries AXUST, at the working width of its modules. -/
def AxustHolds (env : LadderEnv) (l : Link) : Prop :=
  l.state ≠ .raw ∧ 32 ≤ (axWidths env l).1 + (axWidths env l).2 ∧
    (bundleHolds l.frame0 env.frame0 l.fb0 = true ∨ bundleHolds l.frame1 env.frame1 l.fb1 = true)

/-- The ladder's first condition. -/
theorem quickHolds_iff : QuickHolds first env l ↔ (decide (first ≤ 1) &&
    keepsWidth env l (bundleHolds l.frame0 env.frame0 l.fb0) (bundleHolds l.frame1 env.frame1 l.fb1)) = true := by
  rw [Bool.and_eq_true, decide_eq_true_eq, QuickHolds]

/-- The ladder's second condition. -/
theorem axustHolds_iff : AxustHolds env l ↔ (l.state ≠ .raw ∧ 32 ≤ (axWidths env l).1 + (axWidths env l).2 ∧
    (bundleHolds l.frame0 env.frame0 l.fb0 || bundleHolds l.frame1 env.frame1 l.fb1) = true) := by
  rw [Bool.or_eq_true, AxustHolds]

/-- An action in progress ends, and with it the requests that asked for it. -/
theorem ladder_ends (ring : Bool) (first : Nat) (env : LadderEnv) (l : Link) : (ladder ring first env l).acting = false ∧
    (ladder ring first env l).reqLead = none ∧ (ladder ring first env l).reqFollow = none := by
  unfold ladder
  dsimp only
  split
  · split <;> exact ⟨rfl, rfl, rfl⟩
  · split
    · exact ⟨rfl, rfl, rfl⟩
    · split <;> exact ⟨rfl, rfl, rfl⟩

/-- A retrain that succeeds leaves the link at its width, in RAW or in AXUST. -/
theorem ladder_quick (hquick : QuickHolds first env l) :
    (l.state = .raw → (ladder ring first env l).state = .raw) ∧ (l.state ≠ .raw → (ladder ring first env l).state = .axust) ∧
      (ladder ring first env l).lanes0 = l.lanes0 ∧ (ladder ring first env l).lanes1 = l.lanes1 := by
  have hladder : ladder ring first env l = _ := if_pos (quickHolds_iff.1 hquick)
  rw [hladder]
  split
  next hraw => exact ⟨fun _ => hraw, fun h => absurd hraw h, rfl, rfl⟩
  next hraw => exact ⟨fun h => absurd h hraw, fun _ => rfl, rfl, rfl⟩

variable (hquick : ¬QuickHolds first env l)

include hquick

/-- Else the link stays in AXUST at the working width of its modules. -/
theorem ladder_axust (hcarries : AxustHolds env l) : (ladder ring first env l).state = .axust ∧
    (ladder ring first env l).lanes0 = (axWidths env l).1 ∧ (ladder ring first env l).lanes1 = (axWidths env l).2 := by
  have hladder : ladder ring first env l = _ := (if_neg (mt quickHolds_iff.2 hquick)).trans (if_pos (axustHolds_iff.1 hcarries))
  rw [hladder]
  exact ⟨rfl, rfl, rfl⟩

variable (hcarries : ¬AxustHolds env l)

include hcarries

/-- Else it goes to RAW with its replay buffers empty, where it is no ring link and enough lanes work. -/
theorem ladder_raw (hring : ring = false) (hlanes : 16 ≤ rawLanes env l) : (ladder ring first env l).state = .raw ∧
    (ladder ring first env l).lanes0 + (ladder ring first env l).lanes1 = rawLanes env l ∧ (ladder ring first env l).d0.buf = [] ∧
      (ladder ring first env l).d1.buf = [] := by
  have hraw : (!ring && decide (16 ≤ rawLanes env l)) = true := by rw [hring, decide_eq_true hlanes]; rfl
  have hladder : ladder ring first env l = _ :=
    (if_neg (mt quickHolds_iff.2 hquick)).trans ((if_neg (mt axustHolds_iff.2 hcarries)).trans (if_pos hraw))
  rw [hladder]
  exact ⟨rfl, Nat.add_sub_cancel' (min_le_right _ _), rfl, rfl⟩

/-- Else it is FAILED with no lanes. -/
theorem ladder_failed (h : ring = true ∨ rawLanes env l < 16) : (ladder ring first env l).state = .failed ∧
    (ladder ring first env l).lanes0 = 0 ∧ (ladder ring first env l).lanes1 = 0 ∧ (ladder ring first env l).failwhy = 1 := by
  have hraw : ¬(!ring && decide (16 ≤ rawLanes env l)) = true := by
    rw [Bool.and_eq_true, Bool.not_eq_true', decide_eq_true_eq]
    rintro ⟨hring, hlanes⟩
    exact h.elim (fun hr => absurd (hr.symm.trans hring) Bool.noConfusion) (fun hlt => absurd hlanes (Nat.not_le.2 hlt))
  have hladder : ladder ring first env l = _ :=
    (if_neg (mt quickHolds_iff.2 hquick)).trans ((if_neg (mt axustHolds_iff.2 hcarries)).trans (if_neg hraw))
  rw [hladder]
  exact ⟨rfl, rfl, rfl, rfl⟩

end

/-- Settles O49: each event is the case of its operation that the link's state selects, and the ladder's outcome is that of the first of its
steps that holds.  That a standby check compares delays with the depth less its guard of 2, within 1, rests on log entry 145. -/
theorem linkActions : Obligations.LinkActions := by
  refine ⟨fun d p s hport => ?events, fun depth delays => delaysOk_iff depth delays, fun ring first env l => ?ladder⟩
  case events =>
    refine ⟨fun env rep h => ?fault, fun env rep haxust hretraining => ?noFault, fun n env rep => ⟨runLadder_fails, runLadder_holds⟩,
      fun k own env rep h => ?joins, fun k own env rep hacting hretraining haxust hraw => ?noRequest,
      fun k own env rep hacting hlink => ⟨fun hfollows => ?follower, fun hleads => ?leader⟩, ?keepalive, fun found h => ?noCheck,
      fun found h => ⟨fun htaken => ?taken, fun htaken => ?check⟩⟩
    case fault => exact done_of_wf hport (congrArg duties (linkFault_climbs h))
    case noFault => exact done_of_wf hport (congrArg duties (linkFault_idle haxust hretraining))
    case joins => exact done_of_wf hport (congrArg duties (retrainRequest_joins h))
    case noRequest => exact done_of_wf hport (congrArg duties (retrainRequest_idle hacting hretraining haxust hraw))
    case follower => exact done_of_wf hport (congrArg duties (retrainRequest_atFollower hacting hlink hfollows))
    case leader => exact done_of_wf hport (congrArg duties (retrainRequest_atLeader hacting hlink hleads))
    case keepalive => exact done_of_wf hport rfl
    case noCheck => exact done_of_wf hport (standbyCheck_idle h)
    case taken => exact done_of_wf hport (standbyCheck_taken h htaken)
    case check => exact done_of_wf hport (standbyCheck_ends h htaken)
  case ladder =>
    obtain ⟨hacting, hlead, hfollow⟩ := ladder_ends ring first env l
    refine ⟨hacting, hlead, hfollow, fun hquick => ladder_quick hquick, fun hquick hcarries => ?axust,
      fun hquick hcarries hring hlanes => ladder_raw hquick hcarries hring hlanes, fun hquick hcarries h => ladder_failed hquick hcarries h⟩
    obtain ⟨hstate, hlanes0, hlanes1⟩ := ladder_axust (ring := ring) hquick hcarries
    exact ⟨hstate, congrArg₂ (· + ·) hlanes0 hlanes1, hlanes0.trans_le ((axLanes_le _).trans (min_le_right _ _)),
      hlanes1.trans_le ((axLanes_le _).trans (min_le_right _ _))⟩

end Sys2Proof.Machine
end

section
/-! PROOF. Every step keeps the state sound (R303, R310): the operation of each command keeps the canonical form of panel memory and the
queue, so its answer does. -/

namespace Sys2Proof.Machine

open Sys2Proof

theorem stackServe_keeps {queue : List Instr} (d : Nat) (f : FreeFlit) (s : State) (hk : Keeps queue s) : Keeps queue (stackServe d f s) :=
  Keeps.ite (stackCount_keeps _ _ _ _ hk) (modStack_keeps _ _ _ hk)

/-- The answer of a command that is always well formed. -/
theorem Keeps.next {queue : List Instr} {s : State} (hk : Keeps queue s) : KeepsAns queue (.next s) := hk.done (b := true)

/-- A command keeps the canonical form of panel memory and the queue, as its operation does. -/
theorem exec_keeps {queue : List Instr} (c : Instr) {s : State} (hk : Keeps queue s) : KeepsAns queue (exec c s) := by
  cases c with
  -- Mailbox commands (chapter 12).
  | identify | statusRead | interfaceCaps | licenceInstall | licenceRead | patternStage | patternCommit | patternStart | patternStop |
    weightsIntakeOpen | weightsIntakeClose | setWrite | setSwapAt | setRead | modeSet | powerCapSet | powerRead | coolantReport |
    thermalRead | healthRead | darnRead | repairPolicySet | siteRetire | faultLogRead | flagsRead | flagsClear | tenantConfigure |
    tenantReset | shaperSet | sessionExport | sessionImport | tailLogRead | roundFence | resetFabric | resetWarm | bindOff | timeRead |
    timerArm | linkRead | linkRetrain | memoryScrubSet | memoryStatus | firmwareStage | firmwareActivate =>
    exact (request_keeps _ _ _ hk).done
  | mailboxTakeUp => exact (duties_keeps (takeNext_keeps _ hk)).next
  -- Rings, registers, functions and the aperture (chapters 11 and 17).
  | ringOpen | ringAppend | ringStep | ringDraft | ringCancel | ringClose | ringPark | ringUnpark => exact (ringPost_keeps _ _ _ hk).done
  | doorbellWrite => exact (duties_keeps (access_keeps _ _ _ (fun _ => ringBell_keeps _ _ _ _) hk)).done
  | registerWrite => exact (duties_keeps (access_keeps _ _ _ (fun _ => hostWrite_keeps _ _ _) hk)).done
  | intCauseClear => exact (access_keeps _ _ _ (fun _ => writeWord_keeps _ _ _) hk).done
  | misalignedAccess => exact (access_keeps _ _ _ (fun _ => unsupported_keeps _ _) hk).done
  | pairLoRead => exact (access_keeps _ _ _ (fun _ => hostRead_keeps _ _ _) hk).done
  | tokenArrayArrived => exact (duties_keeps (tokensArrive_keeps _ _ _ hk)).done
  | hostMemoryReadFailed => exact (duties_keeps (hostReadFailed_keeps _ hk)).done
  | busMasterEnable => exact (duties_keeps (busMaster_keeps _ _ hk)).done
  | hostPortReset => exact (duties_keeps (portReset_keeps _ _ hk)).done
  | vfFlr => exact (duties_keeps (vfReset_keeps _ hk)).done
  | vfEnableChange => exact (duties_keeps (vfEnable_keeps _ _ hk)).done
  | apertureWrite => exact (Keeps.ite (apertureStore_keeps _ _ hk) hk).done
  | apertureRead => exact (Keeps.ite (duties_keeps (apertureLoad_keeps _ _ hk)) hk).done
  -- Micro-ops and transfers (chapters 03 and 04).
  | nop | loop | seti | alu | ldw | stw | mask | syw | vld | vst | vew | vrd | vsf | vsmx | vnrm | vtopk | vrng | cvt | vflg | mtl | mma |
    mdr | ssn =>
    exact (issueUop_keeps _ _ (onCluster_keeps _) hk).done
  | dmr | dmw => exact (issueUop_keeps _ _ (actDm_keeps _ _) hk).done
  | srv => exact (issueUop_keeps _ _ (actSrv_keeps _) hk).done
  | fsn => exact (issueUop_keeps _ _ (actFsn_keeps _) hk).done
  | frv => exact (issueUop_keeps _ _ (actFrv_keeps _) hk).done
  | knot => exact (issueUop_keeps _ _ (actKnot_keeps _) hk).done
  | sywSatisfied => exact (sywDone_keeps _ hk).done
  | dmTransferComplete => exact (duties_keeps (dmComplete_keeps _ _ _ _ hk)).done
  | freeMessageComplete => exact (freeComplete_keeps _ _ _ _ hk).done
  | dieArrival => exact (dieArrive_keeps _ hk).done
  -- The timebase, swaps and timers (chapter 05).
  | stitchStart => exact (Keeps.ite hk (leanPoint_keeps _ (stitchStart_keeps _ hk))).done
  | holdLine => exact (holdLine_keeps _ _ hk).done
  | mark => exact (mark_keeps _ _ _ hk).done
  | syncFrameReceive => exact (syncFrame_keeps _ _ hk).done
  | tbu => exact (tbuFault_keeps _ _ hk).done
  | tbs => exact (duties_keeps (tbsFault_keeps hk)).next
  | extend => exact (extend_keeps hk).next
  | report => exact (report_keeps _ hk).done
  | freq => exact (freq_keeps _ hk).done
  | freeze => exact (freeze_keeps _ hk).next
  | freezePoint => exact (freezePoint_keeps hk).next
  | release => exact (release_keeps _ hk).done
  | resume => exact (resume_keeps _ hk).next
  | resumePoint => exact (thawAll_keeps (resumePoint_keeps hk)).next
  | nack => exact (nack_keeps _ hk).done
  | swap => exact (swapFrame_keeps _ hk).next
  | withhold => exact (withhold_keeps _ hk).next
  | armAnswer => exact (windowNow_keeps (armAnswer_keeps _ _ hk)).done
  | armTimeout => exact (armTimeout_keeps hk).next
  | swapAtTarget => exact (swapAtTarget_keeps hk).next
  | timerFire => exact (timerFire_keeps _ _ _ hk).done
  -- Knots, rounds, aborts and park memory (chapters 05, 06, 10 and 11).
  | arrive => exact (arriveAt_keeps _ _ hk).done
  | fire => exact (duties_keeps (fireKnot_keeps _ _ _ hk)).next
  | sectionStart => exact (startSection_keeps hk).next
  | knotTimeout => exact (duties_keeps (knotTimeout_keeps hk)).next
  | fault => exact (duties_keeps (faultFrame_keeps _ hk)).done
  | abort => exact (duties_keeps (abortFrame_keeps _ _ hk)).done
  | idleSnapshot => exact (Keeps.ite (duties_keeps (idleSnapshot_keeps hk)) hk).next
  | pageWaitTimeout => exact (pageTimeout_keeps _ _ hk).done
  | parkCopyDone => exact (duties_keeps (copyDone_keeps _ hk)).done
  | unparkDone => exact (duties_keeps (unparkDone_keeps _ hk)).done
  | parkTransferFail => exact (duties_keeps (flushCq_keeps (transferFail_keeps _ _ hk))).done
  | parkPortDown => exact (duties_keeps (portDown_keeps _ hk)).done
  -- The fabric (chapter 07).
  | setFlitForward => exact (setForward_keeps _ _ _ _ hk).done
  | setFlitLanding => exact (setLanding_keeps _ _ _ hk).done
  | freeFlitRoute => exact (duties_keeps (freeRoute_keeps _ stackServe_keeps _ _ hk)).done
  | freeFlitAck => exact (freeAck_keeps _ _ _ _ _ hk).done
  | ackTimer => exact (ackTimer_keeps _ _ _ hk).done
  | retransmitTimeout => exact (duties_keeps (retransmit_keeps _ _ _ hk)).done
  | controlPacket => exact (controlPacket_keeps _ _ _ hk).done
  | controlResend => exact (controlResend_keeps _ _ _ hk).done
  | syncPathSwitch => exact (syncPathSwitch_keeps _ hk).done
  | timingLinkLost => exact (timingLost_keeps _ _ _ hk).done
  -- Links (chapter 08).
  | axustFrameReceive => exact (duties_keeps (axustReceive_keeps _ _ _ _ _ _ hk)).done
  | replayTimeout => exact (duties_keeps (replayTimeout_keeps _ _ _ _ _ hk)).done
  | linkFault => exact (duties_keeps (linkFault_keeps _ _ _ _ hk)).done
  | rawFlitReceive => exact (duties_keeps (rawReceive_keeps _ _ _ hk)).done
  | retrainRequest => exact (duties_keeps (retrainRequest_keeps _ _ _ _ _ _ hk)).done
  | keepaliveLost => exact (keepaliveLost_keeps _ _ hk).done
  | standbyCheck => exact (standbyCheck_keeps _ _ _ hk).done
  -- Panel memory (chapter 09).
  | memRead => exact (duties_keeps (memReadOp_keeps _ _ _ _ _ hk)).next
  | memWrite => exact (memWriteOp_keeps _ _ _ hk).next
  | stackOut => exact (duties_keeps (stackOut_keeps _ _ _ _ hk)).done
  | scrubVisit => exact (scrubVisit_keeps _ _ hk).done
  | refreshRateChange => exact (duties_keeps (refreshChange_keeps _ _ _ hk)).done
  | stackRebuildDone => exact (rebuildDone_keeps _ _ hk).done
  -- Resets, cast-on and the anchors (chapter 13).
  | coldReset => exact (coldReset_keeps _ hk).next
  | panelRstAssert => exact (holdReset_keeps hk).next
  | warmReset => exact (warmReset_keeps _ hk).next
  | coursePowerTimeout => exact (courseTimeout_keeps _ hk).done
  | pwrGoodAssert => exact (powerGood_keeps _ hk).done
  | backoffExpiry => exact (backoffExpiry_keeps _ hk).next
  | flashHandoverTimeout => exact (flashTimeout_keeps hk).next
  | anchorTakeover => exact (duties_keeps (anchorTakeover_keeps hk)).next
  | standbyAnchorFailure => exact (standbyFails_keeps hk).next
  | soleAnchorFailure => exact (soleFails_keeps hk).next
  | herusBindOff => exact (duties_keeps (herusBindOff_keeps hk)).next
  | hostPerstNDeassert => exact (perstRelease_keeps _ hk).done
  -- Repair, power, cooling and health (chapters 14 and 15).
  | clusterOvercurrent | regulatorFault => exact (siteFails_keeps _ _ _ _ _ hk).done
  | dieSilent => exact (dieSilent_keeps _ _ _ hk).done
  | courseLoss => exact (courseGone_keeps _ _ _ hk).done
  | pwrGoodDeassert => exact (powerBad_keeps _ _ _ _ hk).done
  | courseCurrentLimit => exact (courseMonitor_keeps _ _ _ hk).done
  | memoryRailFault => exact (memoryRail_keeps _ _ _ hk).done
  | ringSupplyLoss => exact (supplyLoss_keeps hk).next
  | refclkLoss => exact (duties_keeps (refclkGone_keeps _ hk)).done
  | pwrWarnAssert => exact (warnOn_keeps hk).next
  | pwrWarnDeassert => exact (warnOff_keeps hk).next
  | forcedLeanPoint => exact (forcedLean_keeps hk).next
  | marginTrim => exact (marginTrim_keeps _ hk).next
  | capControl => exact (capControl_keeps _ hk).next
  | throttleStep => exact (throttleStep_keeps _ _ hk).next
  | thermalTrip => exact (thermalTrip_keeps _ _ hk).done
  | resistanceMeasure => exact (resistanceMeasure_keeps _ _ _ _ _ _ hk).next
  | thermalCycleSample => exact (cycleSample_keeps _ hk).next
  | thermAlertChange => exact (alertChange_keeps _ hk).next
  | healthFlashWrite => exact (Keeps.ite (healthWrite_keeps hk) hk).next
  | healthScoring => exact (healthScoring_keeps _ hk).next
  -- Management messages (chapter 18).
  | setEndpointId => exact (setEid_keeps _ hk).next
  | getEndpointId => exact (getEid_keeps hk).next
  | getMctpVersionSupport => exact (getVersions_keeps hk).next
  | getMessageTypeSupport => exact (getTypes_keeps hk).next
  | getState | getPower | getTime | getFault => exact (readout_keeps _ _ hk).next
  | coolant => exact (coolantMsg_keeps _ _ hk).next
  | bypass => exact (jtagBypassShift_keeps _ hk).next
  | samplePreload => exact (jtagSample_keeps _ hk).next
  | extest => exact (jtagExtest_keeps _ hk).next

/-- Settles O4: a step takes a command from the queue, whose rest holds well-formed commands only, and the command keeps this rest and the
canonical form of panel memory. -/
theorem soundnessKept : Obligations.SoundnessKept := by
  rintro s t ⟨hmem, hqueue⟩ hstep
  unfold step at hstep
  split at hstep
  next =>
    cases hstep
    exact ⟨hmem, hqueue⟩
  next c rest hpending =>
    obtain ⟨hdata, hrest⟩ := exec_keeps c (s := { s with pending := rest }) ⟨hmem, rfl⟩ t hstep
    rw [hpending, List.all_cons, Bool.and_eq_true] at hqueue
    exact ⟨hdata, hrest ▸ hqueue.2⟩

end Sys2Proof.Machine
end

section
/-! PROOF. Writes of panel memory (R303, R308, R310, R311, R314): what a masked write leaves of memory's bytes and of the poison, and what
waits before it in its base die's queue. -/

namespace Sys2Proof.Machine

open Sys2Proof

/-! ## Writes of cells -/

/-- A byte that no written cell names reads as before. -/
theorem memGet_memPuts_out (l : List (Nat × Byte)) (m : Mem) {a : Nat} (h : ∀ p ∈ l, p.1 ≠ a) : memGet (memPuts m l) a = memGet m a := by
  induction l generalizing m with
  | nil => rfl
  | cons p l ih =>
    obtain ⟨hp, hl⟩ := List.forall_mem_cons.1 h
    exact (ih _ hl).trans (tabGet_tabPut_ne 0 m p.2 hp.symm)

/-- A byte that is written reads as the value on which all written cells that name it agree. -/
theorem memGet_memPuts_in (l : List (Nat × Byte)) (m : Mem) {a : Nat} {b : Byte} (hm : Memory.wf m) (hmem : (a, b) ∈ l)
    (hone : ∀ p ∈ l, p.1 = a → p.2 = b) : memGet (memPuts m l) a = b := by
  induction l using List.reverseRecOn with
  | nil => cases hmem
  | append_singleton l p ih =>
    have hlast : memPuts m (l ++ [p]) = memPut (memPuts m l) p.1 p.2 := List.foldl_append
    rw [hlast, memGet_memPut _ _ _ _ (memPuts_wf l m hm)]
    split
    next ha => exact hone p (List.mem_append_right l (List.mem_singleton_self p)) ha.symm
    next ha =>
      have hl : (a, b) ∈ l := (List.mem_append.1 hmem).resolve_right fun hp => ha (congrArg Prod.fst (List.mem_singleton.1 hp))
      exact ih hl fun q hq => hone q (List.mem_append_left _ hq)

/-- The cells of stored bytes. -/
theorem mem_cellsAt {a : Nat} {l : List Byte} {p : Nat × Byte} : p ∈ cellsAt a l ↔ ∃ i, l[i]? = some p.2 ∧ p.1 = a + i := by
  simp only [cellsAt, List.mem_map, Prod.exists, List.mk_mem_zipIdx_iff_getElem?]
  constructor
  · rintro ⟨b, i, hi, rfl⟩
    exact ⟨i, hi, rfl⟩
  · rintro ⟨i, hi, ha⟩
    exact ⟨p.2, i, hi, Prod.ext ha.symm rfl⟩

/-! ## Counters of the stacks (R329) -/

/-- A state that differs from another in the table of stacks at most. -/
def SameButStacks (s t : State) : Prop := ∃ stk, t = { s with pmem := { s.pmem with stk := stk } }

theorem SameButStacks.refl (s : State) : SameButStacks s s := ⟨s.pmem.stk, rfl⟩

theorem SameButStacks.modStack {s t : State} (c m : Nat) (f : Stack → Stack) (h : SameButStacks s t) :
    SameButStacks s (modStack c m f t) := by
  obtain ⟨stk, rfl⟩ := h
  exact ⟨_, rfl⟩

theorem SameButStacks.stackCount {s t : State} (c m i n : Nat) (h : SameButStacks s t) : SameButStacks s (stackCount c m i n t) :=
  h.modStack c m _

theorem SameButStacks.ite {p : Prop} [Decidable p] {s t u : State} (ht : SameButStacks s t) (hu : SameButStacks s u) :
    SameButStacks s (if p then t else u) := by
  split <;> assumption

/-! ## A masked write of a unit (R310, R311, R314) -/

@[simp] theorem length_fitBytes (n : Nat) (l : List Byte) : (fitBytes n l).length = n := by
  simp only [fitBytes, List.length_take, List.length_append, List.length_replicate]
  omega

/-- The cells that a write of a unit stores: the bytes of the sectors of its mask. -/
def maskedCells (a : Nat) (mask : BitVec 4) (l : List Byte) : List (Nat × Byte) :=
  ((List.range 4).filter fun k => mask.getLsbD k).flatMap fun k => cellsAt (a * 256 + 64 * k) ((l.drop (64 * k)).take 64)

/-- A cell of a masked write is a byte of the unit in a sector of the mask. -/
theorem mem_maskedCells {a : Nat} {mask : BitVec 4} {l : List Byte} {p : Nat × Byte} (hl : l.length = 256) :
    p ∈ maskedCells a mask l ↔ ∃ i, i < 256 ∧ mask.getLsbD (i / 64) = true ∧ p = (a * 256 + i, l.getD i 0) := by
  simp only [maskedCells, List.mem_flatMap, List.mem_filter, List.mem_range, mem_cellsAt, List.getElem?_take, List.getElem?_drop]
  constructor
  · rintro ⟨k, ⟨hk, hmask⟩, j, hj, ha⟩
    have hlt : j < 64 := by
      by_contra hge
      rw [if_neg hge] at hj
      cases hj
    rw [if_pos hlt] at hj
    refine ⟨64 * k + j, by omega, ?_, Prod.ext (by rw [ha, Nat.add_assoc]) ?_⟩
    · rwa [show (64 * k + j) / 64 = k by omega]
    · rw [List.getD_eq_getElem?_getD, hj, Option.getD_some]
  · rintro ⟨i, hi, hmask, rfl⟩
    have hlt : i % 64 < 64 := Nat.mod_lt i (by decide)
    refine ⟨i / 64, ⟨by omega, hmask⟩, i % 64, ?_, by omega⟩
    rw [if_pos hlt, show 64 * (i / 64) + i % 64 = i by omega, List.getElem?_eq_getElem (hl ▸ hi), List.getD_eq_getElem _ _ (hl ▸ hi)]

section

variable {a : Nat} {mask : BitVec 4} {l : List Byte} {m : Mem} (hl : l.length = 256)

include hl

/-- The bytes of the sectors of the mask are written. -/
theorem memGet_maskedWrite_in {i : Nat} (hm : Memory.wf m) (hi : i < 256) (hmask : mask.getLsbD (i / 64) = true) :
    memGet (memPuts m (maskedCells a mask l)) (a * 256 + i) = l.getD i 0 := by
  refine memGet_memPuts_in _ m hm ((mem_maskedCells hl).2 ⟨i, hi, hmask, rfl⟩) fun p hp ha => ?_
  obtain ⟨j, -, -, rfl⟩ := (mem_maskedCells hl).1 hp
  rw [Nat.add_left_cancel ha]

/-- No other byte is. -/
theorem memGet_maskedWrite_out {b : Nat}
    (hb : b < a * 256 ∨ a * 256 + 256 ≤ b ∨ mask.getLsbD ((b - a * 256) / 64) = false) :
    memGet (memPuts m (maskedCells a mask l)) b = memGet m b := by
  refine memGet_memPuts_out _ m fun p hp => ?_
  obtain ⟨i, hi, hmask, rfl⟩ := (mem_maskedCells hl).1 hp
  rintro rfl
  obtain hb | hb | hb := hb
  · exact absurd hb (Nat.not_lt.2 (Nat.le_add_right _ _))
  · exact absurd (Nat.le_of_add_le_add_left hb) (Nat.not_le.2 hi)
  · rw [Nat.add_sub_cancel_left, hmask] at hb
    cases hb

end

/-- The state with the sectors of a mask written in a unit and their poison cleared, and with other counters of the stacks. -/
def unitWritten (a : Nat) (mask : BitVec 4) (data : List Byte) (stk : Tab Stack) (s : State) : State :=
  { s with pmem := { s.pmem with
      data := memPuts s.pmem.data (maskedCells a mask (fitBytes 256 data))
      poison := tabPut 0 s.pmem.poison a (poisonOf s a &&& ~~~mask)
      stk := stk } }

/-- A write changes the sectors of its mask, their poison and the counters of a stack. -/
theorem serveWrite_writes (a : Nat) (mask : BitVec 4) (data : List Byte) (s : State) :
    ∃ stk, serveWrite a mask data s = unitWritten a mask data stk s := by
  unfold serveWrite
  extract_lets u b po cells cleared sc s1 s2
  have hcount : SameButStacks s s2 :=
    .ite (.stackCount _ _ _ _ (.stackCount _ _ _ _ (.refl s))) (.stackCount _ _ _ _ (.stackCount _ _ _ _ (.stackCount _ _ _ _ (.refl s))))
  clear_value s2
  obtain ⟨stk, rfl⟩ := hcount
  exact ⟨stk, rfl⟩

/-! ## Operations that wait at a base die (R308, R309) -/

/-- Where no operation on a unit waits, none is taken and none carried out. -/
theorem takeOp_idle {c m a : Nat} {s : State} (hidle : ∀ f ∈ (stackOf s c m).queue, f.hdr.addr.toNat ≠ a) (p : FreeFlit → Bool) :
    takeOp c m a p s = (none, modStack c m (fun x => { x with queue := x.queue }) s) := by
  have hmine : ((stackOf s c m).queue.filter fun f => f.hdr.addr.toNat == a) = [] :=
    List.filter_eq_nil_iff.2 fun f hf => by simpa using hidle f hf
  simp only [takeOp, hmine, List.takeWhile_nil, List.find?_nil, List.foldl_nil, Option.toList_none, List.append_nil]

/-! ## MEM_WRITE (R303, R308, R310, R311, R314) -/

/-- The course whose base die serves a write of a unit. -/
def writeCourse (a : Nat) (s : State) : Nat := serveCourse s (unitPlace a).1 (unitPlace a).2.1 (unitPlace a).2.2 true

/-- What a MEM_WRITE takes from the queue of the base die that serves it: the write that it is, where that waits, after the earlier operations
on the unit have been carried out. -/
def takenForWrite (a : BitVec 34) (mask : BitVec 4) (data : List Byte) (s : State) : Option FreeFlit × State :=
  takeOp (writeCourse a.toNat s) (unitPlace a.toNat).1 a.toNat (fun f => f.hdr.kind == 0 && mask == 0xF && f.payload == data) s

section

variable {a : BitVec 34} {mask : BitVec 4} {data : List Byte} {s : State}

theorem memWriteOp_nowhere (hunit : unitExists a.toNat = false) : memWriteOp a mask data s = s :=
  if_neg (hunit ▸ Bool.false_ne_true)

variable (hunit : unitExists a.toNat = true)

include hunit

/-- A write that did not wait is carried out after the earlier operations on the unit. -/
theorem memWriteOp_direct (hnone : (takenForWrite a mask data s).1 = none) :
    memWriteOp a mask data s = serveWrite a.toNat mask data (takenForWrite a mask data s).2 := by
  refine (if_pos hunit).trans ?_
  split
  next hsome => exact absurd (hsome.symm.trans hnone) (Option.some_ne_none _)
  next => rfl

/-- A write that waited is carried out as the operation of the queue that it is. -/
theorem memWriteOp_waited {f : FreeFlit} (hsome : (takenForWrite a mask data s).1 = some f) :
    memWriteOp a mask data s = serveOp (stackDie (writeCourse a.toNat s) (unitPlace a.toNat).1) f (takenForWrite a mask data s).2 := by
  refine (if_pos hunit).trans ?_
  split
  next g hg => rw [Option.some.inj (hsome.symm.trans hg)]; rfl
  next hnone => exact absurd (hsome.symm.trans hnone) (Option.some_ne_none f)

/-- Where no operation on the unit waits, a write changes the sectors of its mask and their poison. -/
theorem memWriteOp_writes (hidle : ∀ f ∈ (stackOf s (writeCourse a.toNat s) (unitPlace a.toNat).1).queue, f.hdr.addr.toNat ≠ a.toNat) :
    ∃ stk, memWriteOp a mask data s = unitWritten a.toNat mask data stk s := by
  have htaken : takenForWrite a mask data s = _ := takeOp_idle hidle _
  obtain ⟨stk, hwrite⟩ := serveWrite_writes a.toNat mask data (takenForWrite a mask data s).2
  refine ⟨stk, (memWriteOp_direct hunit (congrArg Prod.fst htaken)).trans (hwrite.trans ?_)⟩
  rw [htaken]
  rfl

end

/-- A unit that is written whole reads back. -/
theorem unitBytes_unitWritten {a : Nat} {data : List Byte} {stk : Tab Stack} {s : State} (hm : Memory.wf s.pmem.data) :
    unitBytes (unitWritten a 0xF data stk s) a = fitBytes 256 data := by
  have hall : ∀ k, k < 4 → (0xF : BitVec 4).getLsbD k = true := by decide
  refine List.ext_getElem ?_ fun i hi hi' => ?_
  · simp [unitBytes, memRead]
  · rw [length_fitBytes] at hi'
    have hbyte : memGet (unitWritten a 0xF data stk s).pmem.data (a * 256 + i) = (fitBytes 256 data).getD i 0 :=
      memGet_maskedWrite_in (length_fitBytes 256 data) hm hi' (hall _ (by omega))
    rw [List.getD_eq_getElem] at hbyte
    simpa [unitBytes, memRead] using hbyte

/-- Settles O50: the sectors of the mask are the only cells that a write stores, and a base die's queue without operations on the unit is
left as it stands. -/
theorem memoryWrites : Obligations.MemoryWrites := by
  intro a mask data s u c
  refine ⟨fun hunit => done_of_wf rfl (memWriteOp_nowhere hunit), fun hunit => ?_, fun p => ⟨rfl, rfl⟩, fun hunit hwf hidle => ?_⟩
  · exact ⟨fun hnone => done_of_wf rfl (memWriteOp_direct hunit hnone), fun f hsome => done_of_wf rfl (memWriteOp_waited hunit hsome)⟩
  · obtain ⟨stk, hwrite⟩ := memWriteOp_writes (mask := mask) (data := data) hunit hidle
    have hlen := length_fitBytes 256 data
    refine ⟨_, done_of_wf rfl hwrite, memPuts_wf _ _ hwf, fun i hi hmask => memGet_maskedWrite_in hlen hwf hi hmask,
      fun b hb => memGet_maskedWrite_out hlen hb, ?whole, fun hpoison => ?poison, rfl, rfl, rfl, rfl, rfl, rfl⟩
    case whole =>
      rintro rfl
      exact unitBytes_unitWritten hwf
    case poison => exact ⟨tabGet_tabPut_self 0 _ _ _ hpoison, fun b hb => tabGet_tabPut_ne 0 _ _ hb⟩

end Sys2Proof.Machine
end

section
/-! PROOF. Reads of panel memory (R303, R307, R308, R312, R313, R317, R320): what the checks of a unit's sectors leave, and what answers a
read. -/

namespace Sys2Proof.Machine

open Sys2Proof

/-! ## The sectors that cannot be recovered (R312) -/

/-- A word put together from the bits that a condition picks holds exactly these. -/
theorem getLsbD_sum_two_pow (q : Nat → Bool) {k : Nat} (hk : k < 4) :
    (BitVec.ofNat 4 (((List.range 4).filter q).map (2 ^ ·)).sum).getLsbD k = q k := by
  have hbits : ∀ b0 b1 b2 b3 : Bool, ∀ k < 4,
      (BitVec.ofNat 4 (((List.range 4).filter fun i => [b0, b1, b2, b3].getD i false).map (2 ^ ·)).sum).getLsbD k =
        [b0, b1, b2, b3].getD k false := by decide
  have hq : ∀ i < 4, [q 0, q 1, q 2, q 3].getD i false = q i := by
    intro i hi
    interval_cases i <;> rfl
  have hfilter : (List.range 4).filter q = (List.range 4).filter fun i => [q 0, q 1, q 2, q 3].getD i false :=
    List.filter_congr fun i hi => (hq i (List.mem_range.1 hi)).symm
  rw [hfilter, hbits _ _ _ _ k hk, hq k hk]

theorem getLsbD_beyondRecovery {s : State} {m r : Nat} {mask : BitVec 4} {l : List (Nat × BitVec 4)} {k : Nat} (hk : k < 4) :
    (beyondRecovery s m r mask l).getLsbD k = true ↔ mask.getLsbD k = true ∧ 2 < erasedAt s m r k l := by
  rw [beyondRecovery, getLsbD_sum_two_pow _ hk, Bool.and_eq_true, decide_eq_true_eq]

/-! ## The checks of a read (R312) -/

section

variable (a : Nat) (found : MemCheck) (s : State)

/-- The sectors of a unit that a read finds erased: all of them on a lost stack. -/
def readErased : BitVec 4 := if stackLost s (unitPlace a).2.1 (unitPlace a).1 then 0xF else found.erased

/-- The erased sectors that a read finds in the row of a unit, those of the unit first, by the unit's place in the row. -/
def readErasures : List (Nat × BitVec 4) :=
  (((unitPlace a).2.1 + 12 - (unitPlace a).2.2 % 12) % 12, readErased a found s) :: found.others

/-- The sectors of a unit that a read poisons. -/
def readPoisoned : BitVec 4 :=
  if unitGone s a then 0 else beyondRecovery s (unitPlace a).1 (unitPlace a).2.2 (readErased a found s) (readErasures a found s)

/-- The checks count in a stack, and poison the sectors that cannot be recovered. -/
theorem checkRead_effect : ∃ t, SameButStacks s t ∧
    checkRead a found s = if readPoisoned a found s = 0 then t else poisonUnit a (readPoisoned a found s) t :=
  ⟨_, .stackCount _ _ _ _ (.stackCount _ _ _ _ (.stackCount _ _ _ _ (.refl s))), rfl⟩

variable {a found s}

theorem checkRead_recovers (h : readPoisoned a found s = 0) :
    (checkRead a found s).pmem.data = s.pmem.data ∧ (checkRead a found s).pmem.poison = s.pmem.poison := by
  obtain ⟨t, ⟨stk, rfl⟩, hcheck⟩ := checkRead_effect a found s
  rw [hcheck, if_pos h]
  exact ⟨rfl, rfl⟩

theorem poisonOf_checkRead (h : tabWf 0 s.pmem.poison = true) :
    poisonOf (checkRead a found s) a = poisonOf s a ||| readPoisoned a found s := by
  obtain ⟨t, ⟨stk, rfl⟩, hcheck⟩ := checkRead_effect a found s
  rw [hcheck]
  split
  next hnone =>
    rw [hnone]
    exact BitVec.or_zero.symm
  next => exact tabGet_tabPut_self 0 _ _ _ h

theorem readPoisoned_erased {k : Nat} (hk : k < 4) (h : (readPoisoned a found s).getLsbD k = true) :
    (readErased a found s).getLsbD k = true ∧ 2 < erasedAt s (unitPlace a).1 (unitPlace a).2.2 k (readErasures a found s) := by
  unfold readPoisoned at h
  split at h
  next => simp at h
  next => exact (getLsbD_beyondRecovery hk).1 h

variable (a found s) in
/-- The checks change panel memory only. -/
theorem checkRead_frame : { checkRead a found s with pmem := s.pmem } = s := by
  obtain ⟨t, ⟨stk, rfl⟩, hcheck⟩ := checkRead_effect a found s
  rw [hcheck]
  split <;> rfl

end

/-! ## The answer to a read (R307, R313, R320) -/

section

variable {a : Nat} {s : State} {req : RouteHdr}

theorem readBytes_unitBytes (h : unitGone s a = false) : readBytes s a = unitBytes s a :=
  if_neg (h ▸ Bool.false_ne_true)

variable (a s) in
@[simp] theorem length_readBytes : (readBytes s a).length = 256 := by
  unfold readBytes
  split <;> simp [unitBytes, memRead]

/-- The state in which a read of a unit is counted and its read-data flit is sent. -/
def readAnswered (a : Nat) (req : RouteHdr) (s : State) : State :=
  modNI (readDie s a) (sendReply (replyFlit s a req)) (countRead a s)

@[simp] theorem poisonOf_readAnswered (b : Nat) : poisonOf (readAnswered a req s) b = poisonOf s b :=
  poisonOf_countRead a b s

theorem serveRead_clean (h : poisonOf s a = 0) : serveRead a req s = readAnswered a req s :=
  if_pos ((poisonOf_readAnswered a).trans h)

/-- A poisoned unit is answered as well, and raises MPO with its sectors. -/
theorem serveRead_poisoned (h : poisonOf s a ≠ 0) :
    serveRead a req s = mpoHandle a (poisonOf s a) (addFault (readDie s a)
      { code := 0x30, detail := (poisonOf s a).setWidth 16, addr := BitVec.ofNat 32 (unitPlace a).2.2 } (readAnswered a req s)) := by
  rw [← poisonOf_readAnswered (req := req) a] at h ⊢
  exact if_neg h

end

/-! ## MEM_READ (R303, R308) -/

/-- The state in which a MEM_READ is served: after the earlier operations on the unit and the checks of its sectors. -/
def readServed (a : BitVec 34) (rank : W16) (cls : BitVec 4) (tag : RouteHdr) (found : MemCheck) (s : State) : State :=
  checkRead a.toNat found
    (takeOp (serveCourse s (unitPlace a.toNat).1 (unitPlace a.toNat).2.1 (unitPlace a.toNat).2.2 false) (unitPlace a.toNat).1 a.toNat
      (fun f => f.hdr.kind == 2 && f.hdr.srank == rank && f.hdr.sclass == cls && f.hdr.msg == tag.msg && f.hdr.off == tag.off) s).2

section

variable {a : BitVec 34} {rank : W16} {cls : BitVec 4} {tag : RouteHdr} {found : MemCheck} {s : State}

theorem memReadOp_serves (hunit : unitExists a.toNat = true) : memReadOp a rank cls tag found s =
    serveRead a.toNat { tag with addr := a, srank := rank, sclass := cls, kind := 2 } (readServed a rank cls tag found s) :=
  if_neg (by rw [hunit]; exact Bool.false_ne_true)

theorem memReadOp_nowhere (hunit : unitExists a.toNat = false) : memReadOp a rank cls tag found s =
    ((endpointDie s rank.toNat cls.toNat 0 2).map fun d => niCount d 3 s).getD s := by
  refine (if_pos (by rw [hunit]; rfl)).trans ?_
  split
  next d hd => rw [hd]; rfl
  next hd => rw [hd]; rfl

end

/-- Settles O51: a read is answered from the state after its unit's earlier operations and checks, which count in a stack and poison what
cannot be recovered.  That data beyond recovery is answered with free values rests on log entry 124. -/
theorem memoryReads : Obligations.MemoryReads := by
  refine ⟨fun a rank cls tag found s => ?_, fun a found s => ?_⟩
  · refine ⟨⟨length_readBytes _ _, readBytes_unitBytes⟩, fun hunit hclean => ?clean, fun hunit hpoison => ?poisoned,
      fun d hunit hd => ?source, fun hunit hd => ?nowhere⟩
    case clean => exact done_of_wf rfl (congrArg duties ((memReadOp_serves hunit).trans (serveRead_clean hclean)))
    case poisoned => exact done_of_wf rfl (congrArg duties ((memReadOp_serves hunit).trans (serveRead_poisoned hpoison)))
    case source => exact done_of_wf rfl (congrArg duties ((memReadOp_nowhere hunit).trans (by rw [hd]; rfl)))
    case nowhere => exact done_of_wf rfl (congrArg duties ((memReadOp_nowhere hunit).trans (by rw [hd]; rfl)))
  · exact ⟨checkRead_recovers, poisonOf_checkRead, fun k hk hbad => readPoisoned_erased hk hbad, checkRead_frame a found s⟩

end Sys2Proof.Machine
end

section
/-! PROOF. The stacks of panel memory (R315 to R324): what the loss of a stack, a temperature report, a visit of the scrub and the end of a
rebuild leave. -/

namespace Sys2Proof.Machine

open Sys2Proof

/-! ## Loss of a stack (R315, R316, R320) -/

theorem stackLost_iff {s : State} {c m : Nat} : stackLost s c m = true ↔ (stackOf s c m).state ≠ .inService := bne_iff_ne

/-- The state after the loss of a stack is recorded, the fabric drained and the torn rows settled. -/
def lossSettled (c m : Nat) (cause : StackCause) (env : RepairEnv) (s : State) : State :=
  settleTorn m ((env.tornRows.filter fun x => x.1 == m).map Prod.snd) (drainFabric (markLost c m cause s))

section

variable {c m : Nat} {cause : StackCause} {env : RepairEnv} {s : State}

theorem stackOut_lost (h : (stackOf s c m).state ≠ .inService) : stackOut c m cause env s = s := if_pos (stackLost_iff.2 h)

variable (h : (stackOf s c m).state = .inService)

include h

/-- The loss of a stack in service, by whether the panel stays in service. -/
theorem stackOut_inService : stackOut c m cause env s =
    if (lossSettled c m cause env s).pmem.failed.contains m = true ∨ cause = .baseDie ∧ courseLost s c = false then
      goOutOfService (stackDie c m) (lossSettled c m cause env s)
    else if s.pat.running.isSome then abortRound 3 (lossSettled c m cause env s) else lossSettled c m cause env s := by
  refine (if_neg fun hlost => stackLost_iff.1 hlost h).trans (if_congr ?_ rfl rfl)
  rw [Bool.or_eq_true, Bool.and_eq_true, beq_iff_eq, Bool.not_eq_true']
  rfl

/-- A failed stripe, and a base die that falls silent in a live course, take the panel out of service. -/
theorem stackOut_stops
    (hstop : (lossSettled c m cause env s).pmem.failed.contains m = true ∨ cause = .baseDie ∧ courseLost s c = false) :
    stackOut c m cause env s = goOutOfService (stackDie c m) (lossSettled c m cause env s) :=
  (stackOut_inService h).trans (if_pos hstop)

/-- Any other loss aborts a running pattern's round. -/
theorem stackOut_survived (hstripe : (lossSettled c m cause env s).pmem.failed.contains m = false)
    (hcourse : cause ≠ .baseDie ∨ courseLost s c = true) : stackOut c m cause env s =
      if s.pat.running.isSome then abortRound 3 (lossSettled c m cause env s) else lossSettled c m cause env s := by
  refine (stackOut_inService h).trans (if_neg ?_)
  rintro (hfailed | ⟨hdie, hlive⟩)
  · exact Bool.false_ne_true (hstripe.symm.trans hfailed)
  · exact hcourse.elim (absurd hdie) fun hlost => Bool.false_ne_true (hlive.symm.trans hlost)

end

/-! ## Refresh rates (R324) -/

theorem refreshCode_eq (old t : Nat) : refreshCode old t = if t ≤ 85 then 0 else if 95 < t ∨ old = 2 ∧ 93 < t then 2 else 1 := by
  unfold refreshCode
  split_ifs <;> omega

/-- The state in which a stack has reported a temperature. -/
def tempReported (c m t : Nat) (s : State) : State :=
  modStack c m (fun x => { x with
    temp := t
    refresh := if t ≤ 85 then 0 else if 95 < t ∨ x.refresh = 2 ∧ 93 < t then 2 else 1
    cnt := if (tabGet 0 x.cnt 21).toNat < t then tabPut 0 x.cnt 21 (BitVec.ofNat 32 t) else x.cnt }) s

theorem refreshChange_eq (c m t : Nat) (s : State) : refreshChange c m t s =
    if 105 ≤ t then stackOut c m .temperature {} (tempReported c m t s) else tempReported c m t s := by
  simp only [refreshChange, refreshCode_eq, tempReported]

/-! ## Scrub (R322) -/

/-- The scrub after a visit of a stripe. -/
theorem scrubAdvance_eq (m : Nat) (written : Bool) (p : PanelMem) :
    let n := tabGet 0 p.scrubRow m
    let l := tabGet [] p.deferred m
    let r := if n < 2 ^ 28 then n else l.headD 0
    scrubAdvance m written p = { p with
      scrubRow := tabPut 0 p.scrubRow m (if n < 2 ^ 28 then n + 1 else if l = [] then 1 else n)
      scrubLast := tabPut 0 p.scrubLast m r
      deferred := tabPut [] p.deferred m ((if n < 2 ^ 28 then l else l.tail) ++ if written then [r] else []) } := by
  intro n l r
  have hempty : (if l.isEmpty then 1 else n) = if l = [] then 1 else n := if_congr List.isEmpty_iff rfl rfl
  rw [← hempty]
  rfl

/-- The course of the stack at which a stripe's scrub counts its next visit: the proxy of the row. -/
def scrubProxy (m : Nat) (s : State) : Nat := serveCourse s m (scrubNext s.pmem m % 12) (scrubNext s.pmem m) true

/-- A visit of a row counts it, with what it corrects and rewrites. -/
def scrubCounted (px m : Nat) (found : ScrubFind) (s : State) : State :=
  stackCount px m 18 found.parity (stackCount px m 17 found.located.toNat (stackCount px m 4 found.corrected (stackCount px m 15 1 s)))

section

variable {m : Nat} {found : ScrubFind} {s : State}

theorem scrubVisit_off (hoff : s.pmem.period = 0) : scrubVisit m found s = s := if_pos hoff

variable (hon : s.pmem.period ≠ 0)

include hon

theorem scrubVisit_defers (hwritten : found.written = true) :
    scrubVisit m found s = stackCount (scrubProxy m s) m 16 1 { s with pmem := scrubAdvance m found.written s.pmem } :=
  (if_neg hon).trans (if_pos hwritten)

theorem scrubVisit_checks (hquiet : found.written = false) :
    scrubVisit m found s = scrubPoison (scrubProxy m s) m (scrubNext s.pmem m) found.erased
      (scrubCounted (scrubProxy m s) m found { s with pmem := scrubAdvance m found.written s.pmem }) :=
  (if_neg hon).trans (if_neg (hquiet ▸ Bool.false_ne_true))

end

/-! ## Rebuilds (R321) -/

section

variable {c m : Nat} {s : State}

theorem rebuildDone_ends (h : (stackOf s c m).state = .rebuilding) :
    let u := saveStackMap (drainFabric (modStack c m (fun x => { x with state := .inService }) s))
    rebuildDone c m s = { u with pmem := { u.pmem with rebuild := nextRebuild u, rebuildRow := 0 } } := if_pos h

theorem rebuildDone_idle (h : (stackOf s c m).state ≠ .rebuilding) : rebuildDone c m s = s := if_neg h

end

/-- Settles O52: each event of a stack is the case of its operation that the stack's state, its stripe and its course select.
That the loss which fails a stripe records MSO and MSF both rests on log entry 46. -/
theorem stackEvents : Obligations.StackEvents := by
  refine ⟨fun c m s hstack => ⟨fun cause env h => ?lost, fun cause env h hrun => ?aborts, fun cause env h => ⟨?settles, fun hstop => ?stops⟩,
    fun t => ⟨fun ht => ?report, fun ht => ?hot⟩, fun h => ?rebuilt, fun h => ?noRebuild⟩, fun m found s hm => ?scrub⟩
  case lost => exact done_of_wf hstack (congrArg duties (stackOut_lost h))
  case aborts =>
    exact fun hstripe hcourse => done_of_wf hstack (congrArg duties ((stackOut_survived h hstripe hcourse).trans (if_pos hrun)))
  case settles =>
    refine fun hstripe hcourse hidle => done_of_wf hstack (congrArg duties ((stackOut_survived h hstripe hcourse).trans (if_neg ?_)))
    rw [hidle]
    exact Bool.false_ne_true
  case stops => exact done_of_wf hstack (congrArg duties (stackOut_stops h hstop))
  case report => exact done_of_wf hstack (congrArg duties ((refreshChange_eq c m t s).trans (if_neg (Nat.not_le.2 ht))))
  case hot => exact done_of_wf hstack (congrArg duties ((refreshChange_eq c m t s).trans (if_pos ht)))
  case rebuilt => exact done_of_wf hstack (rebuildDone_ends h)
  case noRebuild => exact done_of_wf hstack (rebuildDone_idle h)
  case scrub =>
    have hwf : (Instr.scrubVisit ⟨m, found⟩).wf = true := decide_eq_true hm
    extract_lets n l r px p u visited
    have hmoved : ({ s with pmem := scrubAdvance m found.written s.pmem } : State) = u :=
      congrArg (fun p => ({ s with pmem := p } : State)) (scrubAdvance_eq m found.written s.pmem)
    have hvisit (hon : s.pmem.period ≠ 0) (hquiet : found.written = false) :
        scrubVisit m found s = scrubPoison px m r found.erased visited :=
      (scrubVisit_checks hon hquiet).trans (congrArg (scrubPoison px m r found.erased ∘ scrubCounted px m found) hmoved)
    refine ⟨fun hoff => done_of_wf hwf (scrubVisit_off hoff), fun hon hwritten => done_of_wf hwf ?_,
      fun hon hquiet => done_of_wf hwf (hvisit hon hquiet), fun hon hquiet hclean => done_of_wf hwf ((hvisit hon hquiet).trans ?_)⟩
    · exact (scrubVisit_defers hon hwritten).trans (congrArg (stackCount px m 16 1) hmoved)
    · rw [hclean]
      rfl

end Sys2Proof.Machine
end

section
/-! PROOF. Ring requests (R347, R379, R380): a request that a host posts is written to its ring once, together with the tail that it moves. -/

namespace Sys2Proof.Machine

open Sys2Proof

/-! ## Two writes of a ring -/

section

variable {t i : Nat} {s : State} {g h : RingPair → RingPair}

/-- An enabled ring is not in its reset state, so that no write of it is lost in a table. -/
theorem ring_ne_default {q : RingPair} (hen : q.en = true) : q ≠ {} :=
  fun e => Bool.noConfusion (hen.symm.trans (congrArg RingPair.en e))

/-- A tenant with a ring written. -/
def tenantWithRing (x : Tenant) (i : Nat) (q : RingPair) : Tenant := { x with rings := tabPut {} x.rings i q }

/-- A tenant with a ring outside its reset state is not in its reset state. -/
theorem tenantWithRing_ne_default (x : Tenant) {q : RingPair} (hq : q ≠ {}) : tenantWithRing x i q ≠ {} := by
  intro e
  have hnil : tabPut {} x.rings i q = [] := congrArg Tenant.rings e
  rw [tabPut, if_neg hq] at hnil
  exact tabIns_ne_nil _ _ _ hnil

/-- The later of two writes of a ring stands. -/
theorem tenantWithRing_twice (x : Tenant) {p q : RingPair} (hp : p ≠ {}) (hq : q ≠ {}) :
    tenantWithRing (tenantWithRing x i p) i q = tenantWithRing x i q :=
  congrArg (fun l => ({ x with rings := l } : Tenant)) (tabPut_tabPut _ _ _ hp hq)

/-- The later of two writes of a tenant stands. -/
theorem modTen_modTen {x y : Tenant} (hx : x ≠ {}) (hy : y ≠ {}) :
    modTen t (fun _ => y) (modTen t (fun _ => x) s) = modTen t (fun _ => y) s :=
  congrArg (fun l => ({ s with ten := l } : State)) (tabPut_tabPut _ _ _ hx hy)

theorem modRing_eq (t i : Nat) (g : RingPair → RingPair) (s : State) :
    modRing t i g s = modTen t (fun _ => tenantWithRing (tenOf s t) i (g (ringOf s t i))) s := rfl

/-- Only what a change makes of the ring as it stands matters. -/
theorem modRing_congr (heq : g (ringOf s t i) = h (ringOf s t i)) : modRing t i g s = modRing t i h s := by
  rw [modRing_eq t i g, heq, modRing_eq t i h]

section

variable (hg : g (ringOf s t i) ≠ {})

include hg

theorem tenOf_modRing : tenOf (modRing t i g s) t = tenantWithRing (tenOf s t) i (g (ringOf s t i)) :=
  tabGet_tabPut_some _ _ _ _ (tenantWithRing_ne_default _ hg)

theorem ringOf_modRing : ringOf (modRing t i g s) t i = g (ringOf s t i) := by
  rw [ringOf, tenOf_modRing hg]
  exact tabGet_tabPut_some _ _ _ _ hg

/-- Two changes of a ring, neither of which leaves its reset state, are one change. -/
theorem modRing_modRing (hh : h (g (ringOf s t i)) ≠ {}) : modRing t i h (modRing t i g s) = modRing t i (fun q => h (g q)) s := by
  rw [modRing_eq t i h, ringOf_modRing hg, tenOf_modRing hg, tenantWithRing_twice _ hg hh, modRing_eq t i g,
    modTen_modTen (tenantWithRing_ne_default _ hg) (tenantWithRing_ne_default _ hh), modRing_eq t i fun q => h (g q)]

end

end

/-! ## Posting a request (R379) -/

section

variable {r : RingRef} {s : State} (op : Nat) (d : Desc)

/-- A host that reaches a function acts on it. -/
theorem access_of_reached {f : Nat} (off : Nat) (act : State → State) (h : fnReached s f = true) : access f off act s = act s := by
  obtain ⟨hport, hfn⟩ := Bool.and_eq_true_iff.1 h
  simp only [access, hport, hfn, Bool.not_true, Bool.false_eq_true, if_false, if_true]

/-- A tail that fits an enabled ring is taken, and the tail from before the present stitch is kept (R351). -/
theorem doorbell_takes_tail {t i : Nat} {x : W16} (hen : (ringOf s t i).en = true) (hlive : (tenOf s t).resetting = false)
    (hok : tailOk (ringOf s t i) x.toNat = true) :
    doorbell t i (some x) none s = modRing t i (fun q => moveTail (stitchNow s) (x.toNat % 2 ^ q.k) q) s := by
  simp only [doorbell, hen, hlive, hok, Bool.not_true, Bool.or_self, Bool.false_eq_true, if_false, if_true]

/-- Past cast-on the doorbells of a tenant's ring pair are the ring's own. -/
theorem ringBell_of_tenant {t i : Nat} (tail head : Option W16) (ht : t < 64) (hi : i < 8) (hup : s.boot.pstate ≠ 0) :
    ringBell t i tail head s = doorbell t i tail head s := by
  have hring : (!hasTenant t || decide (8 ≤ i)) = false := by simp [hasTenant, ht, hi]
  simp only [ringBell, hring, hup, Bool.false_eq_true, if_false]

/-- A ring with a request at the host's index, which has moved past it to `next`. -/
def ringWithPosted (op : Nat) (d : Desc) (next : Nat) (q : RingPair) : RingPair :=
  { q with posted := tabPut (0, {}) q.posted q.hostNext (op, d), hostNext := next }

/-- A request on an enabled ring with room stands in the ring, and the tail has moved past it. -/
theorem ringPost_posts (hring : Sys2Proof.ringOk r = true) (hreach : fnReached s r.tenant = true) {next : Nat}
    (hnext : ((ringOf s r.tenant r.pair).hostNext + 1) % 2 ^ (ringOf s r.tenant r.pair).k = next)
    (hen : (ringOf s r.tenant r.pair).en = true) (hk : (ringOf s r.tenant r.pair).k ≤ 16)
    (hlive : (tenOf s r.tenant).resetting = false) (hup : s.boot.pstate ≠ 0) (hroom : next ≠ (ringOf s r.tenant r.pair).sqHead)
    (hok : tailOk (ringOf s r.tenant r.pair) next = true) :
    ringPost r op d s =
      duties (modRing r.tenant r.pair (fun q => moveTail (stitchNow s) next (ringWithPosted op d next q)) s) := by
  obtain ⟨ht, hi⟩ := Bool.and_eq_true_iff.1 hring
  have hlt : next < 2 ^ (ringOf s r.tenant r.pair).k := hnext ▸ Nat.mod_lt _ (Nat.two_pow_pos _)
  have hword : (BitVec.ofNat 16 next).toNat = next :=
    Nat.mod_eq_of_lt (lt_of_lt_of_le hlt (Nat.pow_le_pow_right (by decide) hk))
  have hposted : ringWithPosted op d next (ringOf s r.tenant r.pair) ≠ {} := ring_ne_default hen
  have hread := ringOf_modRing hposted
  have hbell : ringBell r.tenant r.pair (some (BitVec.ofNat 16 next)) none
      (modRing r.tenant r.pair (ringWithPosted op d next) s) =
      modRing r.tenant r.pair (fun q => moveTail (stitchNow s) next (ringWithPosted op d next q)) s := by
    rw [ringBell_of_tenant _ _ (of_decide_eq_true ht) (of_decide_eq_true hi) (s := modRing _ _ _ s) hup,
      doorbell_takes_tail (by rw [hread]; exact hen) (by rw [tenOf_modRing hposted]; exact hlive) (by rw [hread, hword]; exact hok),
      hword, modRing_modRing hposted (ring_ne_default hen)]
    exact modRing_congr (congrArg (fun n => moveTail (stitchNow s) n (ringWithPosted op d next (ringOf s r.tenant r.pair)))
      (Nat.mod_eq_of_lt hlt))
  have hopen : (!(ringOf s r.tenant r.pair).en || (tenOf s r.tenant).resetting || s.boot.pstate == 0) = false := by
    simp [hen, hlive, hup]
  rw [ringPost, access_of_reached _ _ hreach]
  simp only [hopen, hnext, hroom, Bool.false_eq_true, if_false]
  exact congrArg duties hbell

end

/-- Settles O32: the eight requests differ in their operation code only, and each is posted. -/
theorem ringRequests : Obligations.RingRequests := by
  intro r d s hring hreach q next hen hk hlive hup hroom hok t
  have hwas (y : RingPair) : snapTail y (stitchNow s) = if y.tailAt = some (stitchNow s) then y.tailWas else y.sqTail :=
    if_congr beq_iff_eq rfl rfl
  have hpost (op : Nat) : done true (ringPost r op d s) = t op := by
    refine done_of_wf rfl ((ringPost_posts op d hring hreach rfl hen hk hlive hup hroom hok).trans ?_)
    exact congrArg duties (modRing_congr (by simp only [moveTail, hwas]; rfl))
  have hwf (op : Nat) : done (Sys2Proof.ringOk r) (ringPost r op d s) = t op := hring ▸ hpost op
  exact ⟨hwf 1, hwf 2, hwf 3, hwf 4, hwf 5, hwf 6, hwf 7, hwf 8⟩

end Sys2Proof.Machine
end

section
/-! PROOF. Requests at their turn (R334, R339, R347, R348, R353): OPEN by the quota and the free list, and any other request by the session
that its handle names. -/

namespace Sys2Proof.Machine

open Sys2Proof

/-! ## OPEN (R334, R339) -/

section

variable {i : Nat} {s s1 : State} {r : Req}

/-- A session that was changed, where the change leaves it in use. -/
theorem sessOf_putSess {x : Session} (h : x ≠ {}) : sessOf (putSess i x s) i = x := tabGet_tabPut_some _ _ _ _ h

/-- An ACTIVE session is not in its reset state. -/
theorem active_ne_default {x : Session} (h : x.state = .active) : x ≠ {} :=
  fun e => SessState.noConfusion (h.symm.trans (congrArg Session.state e))

/-- A tail-log entry moves an ACTIVE session's tail position and changes nothing else of it. -/
theorem sessOf_tailEntry (round : W64) (kind nadd : Nat) (acrc : W32) (nemit : Nat) (body : List Byte)
    (h : (sessOf s i).state = .active) :
    sessOf (tailEntry i round kind nadd acrc nemit body s) i =
      { sessOf s i with tailpos := (sessOf (tailEntry i round kind nadd acrc nemit body s) i).tailpos } := by
  unfold tailEntry
  split
  next => rfl
  next =>
    extract_lets x bytes
    have hentry : sessOf (modSess i (fun y => { y with tailpos := y.tailpos + 1 }) (pmWrite (tailAddr s i x.tailpos) bytes s)) i =
        { sessOf s i with tailpos := (sessOf s i).tailpos + 1 } := sessOf_putSess (active_ne_default h)
    rw [hentry]

theorem openSession_atQuota (h : (tenOf s r.tenant).quota ≤ (tenantSessions s r.tenant).length) :
    openSession r s = .finish stQuota s := if_pos h

variable (h : (tenantSessions s r.tenant).length < (tenOf s r.tenant).quota)

include h

theorem openSession_noIndex (hidx : takeIndex s = none) : openSession r s = .finish stNoSpace s := by
  simp only [openSession, if_neg (Nat.not_le.2 h), hidx]

/-- OPEN makes the session of the index that it takes ACTIVE, with its seed. -/
theorem openSession_opens (hidx : takeIndex s = some (i, s1)) :
    ∃ t, openSession r s = .finish stOk t ∧
      sessOf t i = { gen := (sessOf s i).gen, state := .active, tenant := r.tenant, seed := r.d.arg, tailpos := (sessOf t i).tailpos } := by
  simp only [openSession, if_neg (Nat.not_le.2 h), hidx]
  refine ⟨_, rfl, ?_⟩
  have hopened : sessOf (putSess i { gen := (sessOf s i).gen, state := .active, tenant := r.tenant, seed := r.d.arg } s1) i =
      { gen := (sessOf s i).gen, state := .active, tenant := r.tenant, seed := r.d.arg } := sessOf_putSess (active_ne_default rfl)
  have hentry := sessOf_tailEntry 0 3 0 0 0 (natLe 8 r.d.arg.toNat) (congrArg Session.state hopened)
  rw [hopened] at hentry
  exact hentry

end

/-! ## The turn of a host's request -/

/-- The handle of a request names a session, which is that of its index. -/
def namesSession (r : Req) (s : State) : Prop := (sessionNamed s r.tenant r.d.handle).isSome ∧ r.index ≠ noIndex

theorem not_namesSession_iff {r : Req} {s : State} :
    ¬namesSession r s ↔ (sessionNamed s r.tenant r.d.handle).isNone ∨ r.index = noIndex := by
  rw [namesSession, Decidable.not_and_iff_not_or_not, Decidable.not_not, Option.not_isSome_iff_eq_none, Option.isNone_iff_eq_none]

/-- PARK of an ACTIVE session: one that holds pages is marked for a port that has room. -/
def parkTurn (r : Req) (s : State) : Turn :=
  if (sessOf s r.index).npage = 0 then .finish stOk s
  else (startMark r.index false s).elim (.finish stNoSpace s) (.finish stOk)

theorem parkTurn_marks {r : Req} {s : State} (h : (sessOf s r.index).npage ≠ 0) :
    parkTurn r s = (startMark r.index false s).elim (.finish stNoSpace s) (.finish stOk) := if_neg h

section

variable {s : State} {r : Req} (hhost : r.intern = none) (hgood : badDesc r.op r.d = false)

include hhost hgood

theorem turnOf_open (hop : r.op = 1) : turnOf r s = openSession r s := by
  simp only [turnOf, hhost, hgood, Option.isSome_none, Bool.false_eq_true, if_false, if_pos hop]

theorem turnOf_stale (hop : r.op ≠ 1) (hn : ¬namesSession r s) : turnOf r s = .finish stStale s := by
  have hlost := not_namesSession_iff.1 hn
  simp only [turnOf, hhost, hgood, hop, hlost, Option.isSome_none, Bool.false_eq_true, if_false, if_true]

variable (hn : namesSession r s)

include hn

/-- CLOSE frees a session in any state in which it is not being moved back. -/
theorem turnOf_close (hop : r.op = 6) (hused : (sessOf s r.index).state ≠ .free) (hidle : (sessOf s r.index).state ≠ .unparking) :
    turnOf r s = .finish stOk (freeSession r.index s) := by
  have hnamed := mt not_namesSession_iff.2 (not_not_intro hn)
  have hopen : r.op ≠ 1 := by omega
  have hcancel : r.op ≠ 5 := by omega
  cases hst : (sessOf s r.index).state with
  | free => exact absurd hst hused
  | unparking => exact absurd hst hidle
  | active | marked | parked | failed =>
    simp only [turnOf, hhost, hgood, hopen, hcancel, hnamed, hst, if_pos hop, Option.isSome_none, Bool.false_eq_true, if_false]

/-- What each request but OPEN and CANCEL does on an ACTIVE session (R347, R348). -/
theorem turnOf_active (hop1 : r.op ≠ 1) (hop5 : r.op ≠ 5) (hst : (sessOf s r.index).state = .active) :
    turnOf r s =
      if r.op = 6 then .finish stOk (freeSession r.index s)
      else if r.op = 7 then parkTurn r s
      else if r.op = 8 then .finish stOk s
      else rowTurn r s := by
  have hnamed := mt not_namesSession_iff.2 (not_not_intro hn)
  simp only [turnOf, hhost, hgood, hop1, hop5, hnamed, hst, Option.isSome_none, Bool.false_eq_true, if_false, parkTurn]
  cases startMark r.index false s <;> rfl

theorem turnOf_park (hop : r.op = 7) (hst : (sessOf s r.index).state = .active) : turnOf r s = parkTurn r s := by
  rw [turnOf_active hhost hgood hn (by omega) (by omega) hst, if_neg (by omega), if_pos hop]

theorem turnOf_unpark_active (hop : r.op = 8) (hst : (sessOf s r.index).state = .active) : turnOf r s = .finish stOk s := by
  rw [turnOf_active hhost hgood hn (by omega) (by omega) hst, if_neg (by omega), if_neg (by omega), if_pos hop]

/-- STEP and DRAFT compute. -/
theorem turnOf_rows (hop : r.op = 3 ∨ r.op = 4) (hst : (sessOf s r.index).state = .active) : turnOf r s = rowTurn r s := by
  rw [turnOf_active hhost hgood hn (by omega) (by omega) hst, if_neg (by omega), if_neg (by omega), if_neg (by omega)]

end

/-! ## Rows (R347, R348, R353) -/

section

variable {s : State} {r : Req} (hfirst : r.started = false) (hrun : s.pat.running.isSome)

include hfirst hrun

theorem rowTurn_step (hop : r.op = 3) :
    rowTurn r s =
      if (sessOf s r.index).len = 0 then .finish stBad s
      else if licSeqMax s.boot.lic ≤ (sessOf s r.index).len then .finish stLimit s
      else .rows := by
  have hruns : s.pat.running.isNone = false := by rw [← Option.not_isSome, hrun]; rfl
  simp [rowTurn, hfirst, hruns, hop]

theorem rowTurn_draft_empty (hop : r.op = 4) (htoks : r.toks.isSome) (hempty : (sessOf s r.index).len = 0) :
    rowTurn r s = .finish stBad s := by
  have hruns : s.pat.running.isNone = false := by rw [← Option.not_isSome, hrun]; rfl
  have hcome : r.toks.isNone = false := by rw [← Option.not_isSome, htoks]; rfl
  simp [rowTurn, hfirst, hruns, hop, hcome, hempty]

end

/-- Settles O33: each request is the case of its turn that its operation, its handle and its session's state select. -/
theorem requestTurns : Obligations.RequestTurns := by
  intro r s hhost hgood x named
  refine ⟨fun hop hfull => ?quota, fun hop hbelow hidx => ?noIndex, fun i s1 hop hbelow hidx => ?opens,
    fun hop hn => turnOf_stale hhost hgood hop hn, fun hop hn => turnOf_close hhost hgood hn hop,
    fun hop hn hst hempty => ?parkEmpty, fun t hop hn hst hpages hmark => ?parkMarks, fun hop hn hst hpages hmark => ?parkFull,
    fun hop hn hst => turnOf_unpark_active hhost hgood hn hop hst, fun hop hn hst hfirst hrun hempty => ?empty,
    fun hop hn hst hfirst hrun hlen => ?step⟩
  case quota => exact (turnOf_open hhost hgood hop).trans (openSession_atQuota hfull)
  case noIndex => exact (turnOf_open hhost hgood hop).trans (openSession_noIndex hbelow hidx)
  case opens =>
    rw [turnOf_open hhost hgood hop]
    exact openSession_opens hbelow hidx
  case parkEmpty => exact (turnOf_park hhost hgood hn hop hst).trans (if_pos hempty)
  case parkMarks => rw [turnOf_park hhost hgood hn hop hst, parkTurn_marks hpages, hmark, Option.elim_some]
  case parkFull => rw [turnOf_park hhost hgood hn hop hst, parkTurn_marks hpages, hmark, Option.elim_none]
  case empty =>
    obtain hstep | ⟨hdraft, htoks⟩ := hop
    · exact (turnOf_rows hhost hgood hn (.inl hstep) hst).trans ((rowTurn_step hfirst hrun hstep).trans (if_pos hempty))
    · exact (turnOf_rows hhost hgood hn (.inr hdraft) hst).trans (rowTurn_draft_empty hfirst hrun hdraft htoks hempty)
  case step => exact (turnOf_rows hhost hgood hn (.inl hop) hst).trans ((rowTurn_step hfirst hrun hop).trans (if_neg hlen))

end Sys2Proof.Machine
end

section
/-! PROOF. Snapshots between rounds and park memory (R351, R367 to R370, R404, R405): what each event leaves, by the round in progress, the
copy or unpark that it ends, and the state of its port. -/

namespace Sys2Proof.Machine

open Sys2Proof

section

variable {s : State}

/-! ## Snapshots (R351) -/

theorem idleSnapshot_inRound (h : s.rnd.active = true) : idleSnapshot s = s := if_pos h

theorem idleSnapshot_between (h : s.rnd.active = false) :
    idleSnapshot s = idleBoundary { s with pwr := { s.pwr with pause := s.pwr.pause - 1 } } := if_neg (Bool.eq_false_iff.1 h)

/-! ## Copies and unparks that are done (R367 to R369) -/

/-- The state in which the copies of a session to a port are marked as done. -/
def copyMarked (p i : Nat) (s : State) : State :=
  modPort p (fun q => { q with
    jobs := q.jobs.map fun x => if x.index = i ∧ !x.unpark then { x with done := true } else x }) s

/-- A copy that is done commits at once unless a round is in progress. -/
theorem copyDone_eq {i p : Nat} {j : ParkJob} (h : jobOf s i false = some (p, j)) :
    copyDone i s = if s.rnd.active then copyMarked p i s else commitMoves (copyMarked p i s) := by
  simp only [copyDone, h]
  rfl

theorem unparkDone_idle {i : Nat} (h : jobOf s i true = none) : unparkDone i s = s := by
  simp only [unparkDone, h]

/-- The state in which the image of a session is back in its pages, and its park memory is to be freed. -/
def imageBack (p i : Nat) (s : State) : State :=
  let c := (((portOf s p).images.find? fun x => x.index == i).map (·.pages)).getD []
  modPort p (fun q => { q with
    images := q.images.map fun x => if x.index = i then { x with going := true } else x }) (layPages i c (dropJob p i s))

/-- The state in which an unparked session is ACTIVE again, before the UNPARKs that waited complete. -/
def unparked (p i : Nat) (s : State) : State :=
  let u := imageBack p i s
  let v := writeDirs i (sessOf u i) (modSess i (fun x => { x with state := .active, idle := 0, pport := 0xFF, paddr := 0 }) u)
  fnCount (sessOf v i).tenant 0x10138 1 v

theorem unparkDone_eq {i p : Nat} {j : ParkJob} (h : jobOf s i true = some (p, j)) :
    unparkDone i s =
      flushCq ((unparkWaiters i (unparked p i s).rnd.reqs).foldl (fun t r => finishReq r stOk 0 t) (unparked p i s)) := by
  simp only [unparkDone, h]
  rfl

/-! ## Transfers that fail (R370, R405) -/

/-- An unpark that fails leaves its session FAILED; poison is recorded, anything else only raises the vector. -/
theorem transferFail_unpark {i p : Nat} {j : ParkJob} (poison : Bool) (h : jobOf s i true = some (p, j)) :
    let u := failSession i (dropJob p i s)
    let owner := (sessOf s i).tenant
    transferFail i poison s =
      flushCq (if poison then raiseOwners [owner] (logPush (parkRec u p 0x41 0 j.addr) u) else raiseFaultFor [owner] u) := by
  simp only [transferFail, h]
  rfl

theorem transferFail_copy {i p : Nat} {j : ParkJob} (poison : Bool) (hno : jobOf s i true = none) (h : jobOf s i false = some (p, j)) :
    transferFail i poison s = copyFailed p j s := by
  simp only [transferFail, hno, h]

/-- A job that is found is one of the session. -/
theorem index_of_jobOf {i p : Nat} {b : Bool} {j : ParkJob} (h : jobOf s i b = some (p, j)) : j.index = i := by
  obtain ⟨p', -, hp'⟩ := List.exists_of_findSome?_eq_some h
  obtain ⟨j', hj', he⟩ := Option.map_eq_some_iff.1 hp'
  obtain ⟨-, rfl⟩ := Prod.mk.injEq .. ▸ he
  have hfound := List.find?_some hj'
  exact beq_iff_eq.1 (Bool.and_eq_true_iff.1 hfound).1

/-! ## Ports that go down (R404, R405) -/

theorem portDown_again {p : Nat} (h : (portOf s p).state = .down) : portDown p s = s := if_pos h

/-- The sessions that are parked on a port or come back from it. -/
def parkedOn (p : Nat) (s : State) : List Nat :=
  (s.sess.filter fun x => (x.2.state == .parked || x.2.state == .unparking) && x.2.pport == BitVec.ofNat 8 p).map Prod.fst

/-- The state in which a port is down without a copy or unpark, and the sessions that were on it have failed. -/
def portLost (p : Nat) (s : State) : State :=
  (parkedOn p s).foldl (fun t i => failSession i t)
    (modPort p (fun q => { q with jobs := [] }) (modPort p (fun q => { q with state := .down }) s))

/-- A port without copies that goes down, outside a bind-off. -/
theorem portDown_noCopies {p : Nat} (hup : (portOf s p).state ≠ .down) (hbind : s.boot.binding = none)
    (hjobs : ∀ j ∈ (portOf s p).jobs, j.unpark = true) :
    portDown p s = flushCq (raiseOwners ((parkedOn p s).map fun i => (sessOf s i).tenant)
      (logPush (parkRec (portLost p s) p 0x40 (parkedOn p s).length 0) (portLost p s))) := by
  have hcopies : ((portOf s p).jobs.filter fun j => !j.unpark) = [] :=
    List.filter_eq_nil_iff.2 fun j hj => by rw [hjobs j hj]; exact Bool.false_ne_true
  simp only [portDown, hup, if_false, hcopies, List.foldl_nil, modPort_boot, hbind, Option.isSome_none, Bool.false_eq_true]
  rfl

end

/-- Settles O44: each event is the case of its operation that the round in progress, the session's copy or unpark, or the port selects.  That a
snapshot's boundary takes place at IDLE_SNAPSHOT rests on log entry 93, and the record and the vectors of a failed unpark on log entry 92. -/
theorem parkEvents : Obligations.ParkEvents := by
  intro s
  refine ⟨fun hup h => ?inRound, fun hup h => ?between, fun i p j hi hjob => ⟨fun h => ?marked, fun h => ?commits⟩,
    fun i p j hi hjob => done_of_wf (decide_eq_true hi) (congrArg duties (unparkDone_eq hjob)),
    fun i hi hno => done_of_wf (decide_eq_true hi) (congrArg duties (unparkDone_idle hno)),
    fun i poison p j hi hjob => ⟨fun h => ?poison, fun h => ?fails⟩, fun i poison p j hi hno hjob => ?copyFails,
    fun p hp h => done_of_wf (decide_eq_true hp) (congrArg duties (portDown_again h)),
    fun p hp hup hbind hjobs => done_of_wf (decide_eq_true hp) (congrArg duties (portDown_noCopies hup hbind hjobs)),
    fun p hp => done_of_wf (decide_eq_true hp) rfl⟩
  case inRound => exact done_of_wf rfl ((if_pos hup).trans (congrArg duties (idleSnapshot_inRound h)))
  case between => exact done_of_wf rfl ((if_pos hup).trans (congrArg duties (idleSnapshot_between h)))
  case marked => exact done_of_wf (decide_eq_true hi) (congrArg duties ((copyDone_eq hjob).trans (if_pos h)))
  case commits => exact done_of_wf (decide_eq_true hi) (congrArg duties ((copyDone_eq hjob).trans (if_neg (Bool.eq_false_iff.1 h))))
  case poison =>
    subst h
    exact done_of_wf (decide_eq_true hi) (congrArg duties (congrArg flushCq (transferFail_unpark true hjob)))
  case fails =>
    subst h
    exact done_of_wf (decide_eq_true hi) (congrArg duties (congrArg flushCq (transferFail_unpark false hjob)))
  case copyFails =>
    obtain rfl := index_of_jobOf hjob
    exact done_of_wf (decide_eq_true hi) (congrArg duties (congrArg flushCq (transferFail_copy poison hno hjob)))

end Sys2Proof.Machine
end

section
/-! PROOF. A step (log entry 7): the command at the front of the queue, run on the state with the queue's rest. -/

namespace Sys2Proof.Machine

open Sys2Proof

theorem step_of_front {s : State} {c : Instr} {q : List Instr} (h : s.pending = c :: q) : step s = exec c { s with pending := q } := by
  simp only [step, h]

theorem step_of_empty {s : State} (h : s.pending = []) : step s = .next s := by
  simp only [step, h]

/-- Settles O1: the two cases of the queue. -/
theorem frontCommand : Obligations.FrontCommand := ⟨fun _ _ _ => step_of_front, fun _ => step_of_empty⟩

end Sys2Proof.Machine
end

section
/-! PROOF. The JTAG port (R597): what each instruction shifts out and leaves, by whether the port reads as BYPASS only and whether the panel is
held in reset. -/

namespace Sys2Proof.Machine

open Sys2Proof

section

variable {s : State} (hsupply : s.boot.supplyLost = false)

include hsupply

/-- BYPASS shifts the bit that it holds, or the 0 that it captured when it was selected. -/
theorem jtagBypassShift_supplied (tdi : Bool) :
    jtagBypassShift tdi s = emit (.jtag [s.pins.jtagIr == 0 && s.pins.jtagBypass])
      { s with pins := { s.pins with jtagIr := 0, jtagBypass := tdi, driven := none } } :=
  if_neg (Bool.eq_false_iff.1 hsupply)

theorem jtagSample_supplied (l : List Bool) :
    jtagSample l s = if bypassOnly s then jtagBypassShift false s else
      emit (.jtag l) { s with pins := { s.pins with jtagIr := 1, boundary := l, driven := none } } := by
  simp only [jtagSample, hsupply, Bool.false_eq_true, if_false]
  rfl

theorem jtagExtest_supplied (l : List Bool) :
    jtagExtest l s = if bypassOnly s || !s.boot.heldRst then jtagBypassShift false s else
      emit (.jtag l) { s with pins := { s.pins with jtagIr := 2, boundary := l, driven := some l } } := by
  simp only [jtagExtest, hsupply, Bool.false_eq_true, if_false]
  rfl

end

/-- Settles O60: each instruction is the case of its operation that the takeover and the reset select.  That BYPASS captures 0, the bits that
SAMPLE/PRELOAD and EXTEST take, and that the port reads as BYPASS only after a takeover rest on log entry 109. -/
theorem jtagInstructions : Obligations.JtagInstructions := by
  intro s hsupply shift only
  have hshift (tdi : Bool) : jtagBypassShift tdi s = shift tdi := jtagBypassShift_supplied hsupply tdi
  refine ⟨fun tdi => done_of_wf rfl (hshift tdi), fun l => done_of_wf rfl ?sample, fun l => done_of_wf rfl ?extest⟩
  case sample => rw [jtagSample_supplied hsupply, hshift]; rfl
  case extest => rw [jtagExtest_supplied hsupply, hshift]; rfl

end Sys2Proof.Machine
end

section
/-! PROOF. SMBus messages (R592 to R594): what each answers while an anchor is up, and the checks that COOLANT passes. -/

namespace Sys2Proof.Machine

open Sys2Proof

section

variable {s : State} (hup : anchorUp s = true)

include hup

/-! ## MCTP control (R592) -/

theorem setEid_assigns {e : Byte} (hlow : e ≠ 0) (hhigh : e ≠ 0xFF) :
    setEid e s = ctlReply 1 0 [0, e, 0] { s with pins := { s.pins with eid := some e } } := by
  simp only [setEid, hup, hlow, hhigh, Bool.not_true, Bool.false_eq_true, or_self, if_false]

theorem setEid_refuses {e : Byte} (h : e = 0 ∨ e = 0xFF) : setEid e s = ctlReply 1 2 [] s := by
  simp only [setEid, hup, h, Bool.not_true, Bool.false_eq_true, if_false, if_true]

theorem getEid_up : getEid s = ctlReply 2 0 [s.pins.eid.getD 0, 0, 0] s := if_pos hup

theorem getVersions_up :
    getVersions s = { ctlReply 4 0 (1 :: (List.range 4).map fun i => Config.freeByte (s.free + i)) s with free := s.free + 4 } :=
  if_pos hup

theorem getTypes_up : getTypes s = ctlReply 5 0 [2, 0x00, 0x7E] s := if_pos hup

/-! ## Readouts (R593) -/

section

variable (heid : s.pins.eid.isSome = true) (offs : List Nat)

include heid

/-- A readout once an identifier is set, by whether CO0 has ended. -/
theorem readout_assigned (cmd : Nat) :
    readout cmd offs s = if cmd ≠ 1 ∧ herusUp s = false then vendorReply cmd 1 [] s else vendorReply cmd 0 (mirror s offs) s := by
  simp only [readout, hup, Option.isNone_eq_false_iff.2 heid, Bool.not_true, Bool.or_self, Bool.false_eq_true, if_false, Bool.not_eq_true']
  rfl

theorem readout_state : readout 1 offs s = vendorReply 1 0 (mirror s offs) s := by
  rw [readout_assigned hup heid, if_neg fun h => h.1 rfl]

theorem readout_serves {cmd : Nat} (h : herusUp s = true) : readout cmd offs s = vendorReply cmd 0 (mirror s offs) s := by
  rw [readout_assigned hup heid, if_neg fun hc => Bool.false_ne_true (hc.2.symm.trans h)]

theorem readout_busy {cmd : Nat} (hcmd : cmd ≠ 1) (h : herusUp s = false) : readout cmd offs s = vendorReply cmd 1 [] s := by
  rw [readout_assigned hup heid, if_pos ⟨hcmd, h⟩]

end

end

/-! ## COOLANT (R594) -/

/-- The checks of COOLANT_REPORT for a COOLANT message, which is taken up as a request of PF1. -/
def coolantCheck (s : State) (m c : W16) : Option Rsp :=
  checkReq { fn := 64, tag := 0 } 0x42 (natLe 2 m.toNat ++ natLe 2 c.toNat) s

/-- COOLANT_REPORT meets no conflict with another command, but it waits for cast-on and resets, and is refused out of service. -/
theorem conflict_coolant (q : MbReq) (p : List Byte) (s : State) :
    conflict q 0x42 p s =
      if s.boot.trip then some rspState
      else if s.boot.pstate = 0 then some (rspBusy 0x12 0 q.env.remain)
      else if resetBusy s then some (rspBusy 0x12 0 q.env.remain)
      else if s.boot.pstate = 7 then some rspState
      else none := by
  have hclass : classOf 0x42 = 1 := rfl
  have htrip : 0x42 ∉ tripOps := by decide
  have hcast : 0x42 ∉ castOps := by decide
  have hreset : 0x42 ∉ resetFree := by decide
  have hfree : 0x42 ∉ freeOps := by decide
  have hoos : 0x42 ∉ oosOps := by decide
  cases hswap : s.swp <;> simp [conflict, hclass, htrip, hcast, hreset, hfree, hoos, hswap]

/-- What the checks answer, by the licence and the state of the panel. -/
theorem coolantCheck_eq (s : State) (m c : W16) :
    coolantCheck s m c =
      if s.boot.pstate ≠ 0 ∧ s.boot.trip = false ∧ s.boot.lic = none then some { status := rsUnlicensed }
      else if s.boot.trip then some rspState
      else if s.boot.pstate = 0 then some (rspBusy 0x12 0 0)
      else if resetBusy s then some (rspBusy 0x12 0 0)
      else if s.boot.pstate = 7 then some rspState
      else none := by
  have hwho : whoMay 0x42 = some .pf := rfl
  have hpf : isPf 64 = true := rfl
  have hfree : 0x42 ∉ freeOps := by decide
  simp [coolantCheck, checkReq, conflict_coolant, hwho, hpf, ownParams, hfree, and_assoc]

section

variable {s : State} {m c : W16} (hup : anchorUp s = true) (heid : s.pins.eid.isSome = true)

include hup heid

theorem coolantMsg_refused (r : Rsp) (h : coolantCheck s m c = some r) : coolantMsg m c s = vendorReply 0x10 r.status [] s := by
  rw [coolantCheck] at h
  simp only [coolantMsg, hup, Option.isNone_eq_false_iff.2 heid, h, Bool.not_true, Bool.or_self, Bool.false_eq_true, if_false]

theorem coolantMsg_taken (h : coolantCheck s m c = none) :
    let u := coolantReport m c { s with served := tabPut 64 s.served 1 64 }
    coolantMsg m c s = vendorReply 0x10 0 (intLe 2 (clampInlet m) ++ intLe 2 (clampInlet c) ++ natLe 4 u.thm.cap) u := by
  rw [coolantCheck] at h
  simp only [coolantMsg, hup, Option.isNone_eq_false_iff.2 heid, h, Bool.not_true, Bool.or_self, Bool.false_eq_true, if_false]
  rfl

end

/-- Settles O59: each message is the case of its operation that the identifier, CO0 and the checks of COOLANT_REPORT select.  The layout of the
control responses, the refusal of the identifiers 0x00 and 0xFF and the version's value rest on log entry 28. -/
theorem managementMessages : Obligations.ManagementMessages := by
  intro s hup ctl vdm word
  refine ⟨fun e hlow hhigh => done_of_wf rfl (setEid_assigns hup hlow hhigh),
    ⟨done_of_wf rfl (setEid_refuses hup (.inl rfl)), done_of_wf rfl (setEid_refuses hup (.inr rfl))⟩,
    done_of_wf rfl (getEid_up hup), ⟨_, by simp, done_of_wf rfl (getVersions_up hup)⟩, done_of_wf rfl (getTypes_up hup), fun heid => ?vendor⟩
  have hpair (a b : Nat) : mirror s [a, b] = word a ++ word b := by simp [mirror, word]
  have hfour (a b c d : Nat) : mirror s [a, b, c, d] = word a ++ word b ++ word c ++ word d := by simp [mirror, word]
  have hserves {cmd : Nat} (a b : Nat) (h : herusUp s = true) : readout cmd [a, b] s = vendorReply cmd 0 (word a ++ word b) s :=
    (readout_serves hup heid _ h).trans (congrArg (vendorReply cmd 0 · s) (hpair a b))
  refine ⟨done_of_wf rfl ((readout_state hup heid _).trans (congrArg (vendorReply 1 0 · s) (hfour ..))),
    fun h => ⟨done_of_wf rfl (hserves _ _ h), done_of_wf rfl (hserves _ _ h), done_of_wf rfl (hserves _ _ h)⟩,
    fun h => ⟨done_of_wf rfl (readout_busy hup heid _ (by decide) h), done_of_wf rfl (readout_busy hup heid _ (by decide) h),
      done_of_wf rfl (readout_busy hup heid _ (by decide) h)⟩,
    fun m c => ⟨fun htrip => ?tripped, fun htrip => ⟨fun hcast => ?castOn, fun hstate hlic => ?unlicensed, fun hstate hlic hbusy => ?busy,
      fun hstate hlic hbusy => ?outOfService, fun hstate hservice hlic hbusy => ?taken⟩⟩⟩
  case tripped => exact done_of_wf rfl (coolantMsg_refused hup heid rspState (by simp [coolantCheck_eq, htrip]))
  case castOn => exact done_of_wf rfl (coolantMsg_refused hup heid (rspBusy 0x12 0 0) (by simp [coolantCheck_eq, htrip, hcast]))
  case unlicensed => exact done_of_wf rfl (coolantMsg_refused hup heid { status := rsUnlicensed } (by simp [coolantCheck_eq, htrip, hstate, hlic]))
  all_goals have hsome : s.boot.lic ≠ none := Option.isSome_iff_ne_none.1 hlic
  case busy => exact done_of_wf rfl (coolantMsg_refused hup heid (rspBusy 0x12 0 0) (by simp [coolantCheck_eq, htrip, hstate, hsome, hbusy]))
  case outOfService => exact done_of_wf rfl (coolantMsg_refused hup heid rspState (by simp [coolantCheck_eq, htrip, hstate, hsome, hbusy]))
  case taken => exact done_of_wf rfl (coolantMsg_taken hup heid (by simp [coolantCheck_eq, htrip, hstate, hservice, hsome, hbusy]))

end Sys2Proof.Machine
end

section
/-! PROOF. Register accesses of a host that reaches the function (R407, R410, R412, R565 to R570, R575): which word a write stores, and what a
read returns and latches. -/

namespace Sys2Proof.Machine

open Sys2Proof

/-! ## Writes of one word (R567) -/

/-- The bytes of a word, all enabled. -/
def wordBytes (v : W32) : List (Option Byte) := (natLe 4 v.toNat).map some

@[simp] theorem length_wordBytes (v : W32) : (wordBytes v).length = 4 := by
  rw [wordBytes, List.length_map, length_natLe]

theorem wholeWord_wordBytes (v : W32) : wholeWord (wordBytes v) = some v := by
  have hbytes : (wordBytes v).map (fun b => b.getD 0) = natLe 4 v.toNat := by simp [wordBytes]
  have hall : (wordBytes v).all Option.isSome = true := by simp [wordBytes]
  have hlt : v.toNat < 256 ^ 4 := v.isLt.trans_eq (by norm_num)
  rw [wholeWord, if_pos hall, hbytes, leNat_natLe, Nat.mod_eq_of_lt hlt, BitVec.ofNat_toNat, BitVec.setWidth_eq]

/-- A write of one whole word. -/
theorem hostWrite_word (f off : Nat) (v : W32) (s : State) : hostWrite f off (wordBytes v) s = writeWord f off v s := by
  have hchunks : chunksOf 4 4 (wordBytes v) = [wordBytes v] := rfl
  simp only [hostWrite, length_wordBytes, hchunks, writeWords, wholeWord_wordBytes]
  rfl

section

variable {f off : Nat} {s : State}

/-- A write of one word reaches the function that it names. -/
theorem exec_registerWrite_word (v : W32) (hfn : fnOk f = true) (hreach : fnReached s f = true) (halign : off % 4 = 0) (hbar : off + 4 ≤ 2 ^ 26) :
    exec (.registerWrite f off (wordBytes v)) s = .next (duties (writeWord f off v s)) := by
  have hwf : (Instr.registerWrite f off (wordBytes v)).wf = true := by
    simp [Instr.wf, hfn, halign, barOk]
    omega
  exact done_of_wf hwf (congrArg duties ((access_of_reached off _ hreach).trans (hostWrite_word f off v s)))

/-! ## The mailbox registers (R407, R412) -/

theorem writeWord_mailbox (v : W32) (hlo : 0x1000 ≤ off) (hhi : off < 0x2000) : writeWord f off v s = writeMb f (off - 0x1000) v s :=
  if_pos ⟨hlo, hhi⟩

theorem writeWord_request (v : W32) (hlo : 0x1000 ≤ off) (hhi : off < 0x1100) :
    writeWord f off v s = if (fnOf s f).mb.own then accErr f 0x10008 s else
      modMb f (fun m => { m with req := tabPut 0 m.req ((off - 0x1000) / 4) (reqStored ((off - 0x1000) / 4) v) }) s := by
  have harea : off - 0x1000 < 0x100 := by omega
  rw [writeWord_mailbox v hlo (by omega), writeMb]
  simp only [harea, if_true]

theorem writeWord_tag (v : W32) :
    writeWord f 0x1200 v s = if (fnOf s f).mb.own then accErr f 0x10008 s else modMb f (fun m => { m with tag := v }) s := rfl

theorem writeWord_doorbell (v : W32) :
    writeWord f 0x1204 v s = if (fnOf s f).mb.own || v != 1 then accErr f 0x10008 s else submit f s := rfl

theorem writeWord_eventHead (v : W32) : writeWord f 0x1210 v s = modMb f (fun m => { m with head := v.toNat % 32 }) s := rfl

/-- The response area takes no write. -/
theorem writeWord_response (v : W32) (hlo : 0x1100 ≤ off) (hhi : off < 0x1200) : writeWord f off v s = s := by
  have harea : ¬off - 0x1000 < 0x100 := by omega
  have htag : off - 0x1000 ≠ 0x200 := by omega
  have hbell : off - 0x1000 ≠ 0x204 := by omega
  have hhead : off - 0x1000 ≠ 0x210 := by omega
  rw [writeWord_mailbox v (by omega) (by omega), writeMb]
  simp only [harea, htag, hbell, hhead, if_false]

/-- While a request is outstanding a write of the request area, the tag or the doorbell is counted. -/
theorem writeWord_outstanding (v : W32) (hown : (fnOf s f).mb.own = true) (hoff : 0x1000 ≤ off ∧ off < 0x1100 ∨ off = 0x1200 ∨ off = 0x1204) :
    writeWord f off v s = accErr f 0x10008 s := by
  obtain ⟨hlo, hhi⟩ | rfl | rfl := hoff
  · rw [writeWord_request v hlo hhi, if_pos hown]
  · rw [writeWord_tag, if_pos hown]
  · rw [writeWord_doorbell, hown, Bool.true_or, if_pos rfl]

/-- A doorbell value other than 1 is counted. -/
theorem writeWord_doorbell_bad {v : W32} (hv : v ≠ 1) : writeWord f 0x1204 v s = accErr f 0x10008 s := by
  have hcounted : ((fnOf s f).mb.own || v != 1) = true := by rw [bne_iff_ne.2 hv, Bool.or_true]
  rw [writeWord_doorbell, if_pos hcounted]

end

/-- Settles O30: the two kinds of write that a mailbox register counts. -/
theorem outstandingRequest : Obligations.OutstandingRequest := by
  intro f off v s hfn hreach halign bytes counted
  refine ⟨fun hown hoff => ?outstanding, fun hv => ?badDoorbell⟩
  case outstanding =>
    exact (exec_registerWrite_word v hfn hreach halign (by omega)).trans (by rw [writeWord_outstanding v hown hoff]; rfl)
  case badDoorbell =>
    exact (exec_registerWrite_word v hfn hreach (by decide) (by decide)).trans (by rw [writeWord_doorbell_bad hv]; rfl)

/-! ## Reads (R566, R568 to R570) -/

section

variable {f off : Nat} {s : State}

theorem off_lt_of_isLo (h : isLo off = true) : off % 4 = 0 ∧ off + 8 ≤ 2 ^ 26 ∧ isLo (off + 4) = false := by
  simp only [isLo, Bool.or_eq_true, Bool.and_eq_true, beq_iff_eq, decide_eq_true_eq, Bool.or_eq_false_iff, Bool.and_eq_false_iff,
    beq_eq_false_iff_ne, decide_eq_false_iff_not] at h ⊢
  omega

/-- A LO register is read with its HI register latched. -/
theorem readWord_lo (h : isLo off = true) :
    readWord f off true s = (regWord s f off, modFn f (fun x => { x with latch := tabPut none x.latch off (some (regWord s f (off + 4))) }) s) :=
  if_pos h

/-- A HI register that is latched is read as it was latched, and the latch is then empty. -/
theorem readWord_hi {w : W32} (h : isLo off = true) (hlatch : tabGet none (fnOf s f).latch off = some w) :
    readWord f (off + 4) true s = (w, modFn f (fun x => { x with latch := tabPut none x.latch off none }) s) := by
  simp only [readWord, (off_lt_of_isLo h).2.2, Nat.le_add_left, Nat.add_sub_cancel, h, hlatch, Bool.false_eq_true, if_false, and_self, if_true,
    Option.getD_some]

/-- A register of no pair is read alone. -/
theorem readWord_single (byte0 : Bool) (h : isLo off = false) (hbefore : off < 4 ∨ isLo (off - 4) = false) :
    readWord f off byte0 s = (regWord s f off, s) := by
  have hhi : ¬(4 ≤ off ∧ isLo (off - 4) = true) := by
    rintro ⟨hle, hlo⟩
    obtain hlt | hno := hbefore
    · omega
    · exact Bool.false_ne_true (hno.symm.trans hlo)
  rw [readWord, if_neg (Bool.eq_false_iff.1 h), if_neg hhi]

/-- A read of bytes of one word. -/
theorem hostRead_within {o n : Nat} (halign : off % 4 = 0) (hpos : 0 < n) (hfit : o + n ≤ 4) :
    hostRead f (off + o) n s =
      emit (.readData f (off + o) (((natLe 4 (readWord f off (decide (off + o ≤ off)) s).1.toNat).drop o).take n))
        (readWord f off (decide (off + o ≤ off)) s).2 := by
  have hfirst : (off + o) / 4 = off / 4 := by omega
  have hlast : (off + o + n - 1) / 4 = off / 4 := by omega
  have hword : 4 * (off / 4) = off := by omega
  have hin : (off + o) % 4 = o := by omega
  have hone : crosses (off + o) n = false := by
    rw [crosses, hfirst, hlast, bne_self_eq_false, Bool.and_false]
  simp only [hostRead, hone, hfirst, hlast, hin, Nat.add_sub_cancel_left, readWords, hword, Bool.false_eq_true, if_false, List.append_nil]

/-- A read of one whole word. -/
theorem hostRead_word (halign : off % 4 = 0) :
    hostRead f off 4 s = emit (.readData f off (natLe 4 (readWord f off true s).1.toNat)) (readWord f off true s).2 := by
  have hread := hostRead_within (f := f) (s := s) (o := 0) (n := 4) halign (by omega) (by omega)
  rwa [Nat.add_zero, decide_eq_true (Nat.le_refl off), List.drop_zero, List.take_of_length_le (Nat.le_of_eq (length_natLe 4 _))] at hread

/-- A read reaches the function that it names. -/
theorem exec_pairLoRead {n : Nat} (hfn : fnOk f = true) (hreach : fnReached s f = true) (hbar : barOk off n = true) :
    exec (.pairLoRead f off n) s = .next (hostRead f off n s) := by
  have hwf : (Instr.pairLoRead f off n).wf = true := by rw [Instr.wf, hfn, hbar, Bool.and_self]
  exact done_of_wf hwf (access_of_reached off _ hreach)

theorem barOk_of_le {n : Nat} (hpos : 1 ≤ n) (hlen : n ≤ 4096) (hbar : off + n ≤ 2 ^ 26) : barOk off n = true := by
  rw [barOk, decide_eq_true hpos, decide_eq_true hlen, decide_eq_true hbar, Bool.and_self, Bool.and_self]

/-- R569: the accesses that a register boundary refuses. -/
theorem crosses_of_misaligned {len : Nat} (hmis : (len = 2 ∨ len = 4 ∨ len = 8) ∧ off % len ≠ 0 ∨ 8 < len ∧ off % 4 ≠ 0)
    (hword : off / 4 ≠ (off + len - 1) / 4) : crosses off len = true := by
  rw [crosses, bne_iff_ne.2 hword, Bool.and_true]
  obtain ⟨hlen, hoff⟩ | ⟨hlong, hoff⟩ := hmis
  · have hshort : ¬8 < len := by omega
    rw [if_neg hshort, bne_iff_ne.2 hoff, Bool.and_true]
    simpa [or_assoc] using hlen
  · rw [if_pos hlong, bne_iff_ne.2 hoff]

end

/-- Settles O35: what a write stores is said word by word, and what a read latches is said for the LO register of a pair, its HI register and a
register of no pair. -/
theorem registerAccesses : Obligations.RegisterAccesses := by
  intro f off v s hfn hreach bytes mb
  refine ⟨?cause, fun halign hown => ?writes, fun len write hbar hlen hmis hword => ?misaligned, fun hlo => ?lo, fun h hlo hlatch => ?hi,
    fun halign hbar hno hbefore => ?single⟩
  case cause =>
    exact done_of_wf hfn (access_of_reached 0x3008 _ hreach)
  case writes =>
    have hword : ∀ {o : Nat} {w : W32} {t : State}, o % 4 = 0 → o + 4 ≤ 2 ^ 26 → writeWord f o w s = t →
        exec (.registerWrite f o (wordBytes w)) s = .next (duties t) :=
      fun ho hb ht => (exec_registerWrite_word _ hfn hreach ho hb).trans (by rw [ht])
    refine ⟨fun hlo hhi => hword halign (by omega) ?_, hword (by decide) (by decide) ?_, hword (w := 1) (by decide) (by decide) ?_,
      hword (by decide) (by decide) (writeWord_eventHead v), fun hlo hhi => hword halign (by omega) (writeWord_response v hlo hhi)⟩
    · rw [writeWord_request v hlo hhi, hown]
      rfl
    · rw [writeWord_tag, hown]
      rfl
    · rw [writeWord_doorbell, hown]
      rfl
  case misaligned =>
    have hcross := crosses_of_misaligned hmis hword
    have hwf : (Instr.misalignedAccess f off len write).wf = true := by
      rw [Instr.wf, hfn, barOk_of_le (by omega) hlen hbar, hcross, Bool.and_self, Bool.and_self]
    exact done_of_wf hwf (access_of_reached off _ hreach)
  case lo =>
    obtain ⟨halign, hbar, -⟩ := off_lt_of_isLo hlo
    rw [exec_pairLoRead hfn hreach (barOk_of_le (by omega) (by omega) (by omega)), hostRead_word halign, readWord_lo hlo]
  case hi =>
    obtain ⟨halign, hbar, -⟩ := off_lt_of_isLo hlo
    rw [exec_pairLoRead hfn hreach (barOk_of_le (by omega) (by omega) (by omega)), hostRead_word (by omega), readWord_hi hlo hlatch]
  case single =>
    constructor
    · rw [exec_pairLoRead hfn hreach (barOk_of_le (by omega) (by omega) hbar), hostRead_word halign, readWord_single _ hno hbefore]
    · rw [exec_pairLoRead hfn hreach (barOk_of_le (by omega) (by omega) (by omega)), hostRead_within halign (by omega) (by omega),
        readWord_single _ hno hbefore]

end Sys2Proof.Machine
end

section
/-! PROOF. The state right after reset (R160, R326, R334, R337, R387, R391, R410, R439, R441, R474), and the claim that nothing of the panel's own
is due to a quiet one (R413). -/

namespace Sys2Proof.Machine

open Sys2Proof

/-- Settles O2: every table of the reset state is empty, so that each part reads as its default, and the boot registers are evaluated. -/
theorem resetState : Obligations.ResetState := by
  unfold Obligations.ResetState
  intro s
  have hsound : State.sound s := ⟨rfl, rfl⟩
  have hboot : panelWord s 0x100004 = 0 := by decide
  have hback : panelWord s 0x100008 = 0x00010000 := by decide
  have hfail : panelWord s 0x10000C = 0xFF000000 := by decide
  refine ⟨hsound, rfl, hboot, hback, hfail, fun _ => ⟨rfl, rfl, rfl, rfl, rfl, rfl⟩, fun _ => ⟨rfl, rfl⟩, rfl, rfl, rfl, rfl, rfl,
    fun _ => ⟨rfl, rfl, rfl, fun _ => rfl, rfl, rfl, rfl, rfl⟩, fun _ => ⟨rfl, rfl⟩, fun _ => rfl, fun _ => rfl⟩

/-- A reset panel in whose round one line waits to be announced (R280): none of the duties that `quiet` names is under way, and an
announcement is due all the same. -/
def quietWithLine : State := { State.reset with rnd := { lines := [0] } }

theorem quiet_quietWithLine : quiet quietWithLine := by
  have hten : ∀ p ∈ quietWithLine.ten, p.2.resetting = false := fun p hp => absurd hp List.not_mem_nil
  exact ⟨fun _ => rfl, rfl, rfl, rfl, hten⟩

/-- A panel that runs announces the lines that wait. -/
theorem duties_lines {s : State} (hrun : (s.boot.heldRst || s.boot.dead || s.boot.supplyLost) = false) : (duties s).rnd.lines = [] := by
  rw [duties, if_neg (Bool.eq_false_iff.1 hrun)]
  exact sendInvals_lines _

/-- Refutes O31: its last clause fails where a line waits to be announced, for a running panel's duties announce it, and `quiet` does not say
that none waits. -/
theorem not_responseWritten : ¬ Obligations.ResponseWritten := by
  rintro ⟨-, hquiet⟩
  have hlines : quietWithLine.rnd.lines = [] := by
    rw [← hquiet quietWithLine quiet_quietWithLine]
    exact duties_lines rfl
  exact absurd hlines (List.cons_ne_nil 0 [])

end Sys2Proof.Machine
end

section
/-! PROOF. Resets and the events of cast-on (R448 to R450, R452, R461, R464, R473, R596): each operation by the states that choose its case. -/

namespace Sys2Proof.Machine

open Sys2Proof

section

variable {env : CastOnEnv} {s : State}

/-! ## Flash under an external programmer (R596) -/

/-- Flash stays as it is without a programmer, and while an anchor holds its contacts. -/
theorem programFlash_unchanged (h : env.programmed = none ∨ s.boot.heldRst = false) : programFlash env s = s := by
  unfold programFlash
  split
  next x hprogrammed =>
    obtain hnone | hheld := h
    · exact absurd (hprogrammed.symm.trans hnone) (Option.some_ne_none x)
    · rw [spiHighZ, hheld, if_neg Bool.false_ne_true]
  next => rfl

theorem programFlash_held {a b : Option Firmware} {sel : Bool} (henv : env.programmed = some (a, b, sel)) (hheld : s.boot.heldRst = true) :
    programFlash env s = { s with flash := { s.flash with slotA := a, slotB := b, bootB := sel } } := by
  rw [programFlash, henv, spiHighZ]
  exact if_pos hheld

/-! ## Resets (R448 to R450) -/

theorem not_heldRst_of_anchorUp (h : anchorUp s = true) : s.boot.heldRst = false := by
  simp only [anchorUp, Bool.and_eq_true, Bool.not_eq_true'] at h
  exact h.1.1

section

variable (hup : anchorUp s = true) (htrip : s.boot.trip = false)

include hup htrip

/-- A warm reset once a cold cast-on has completed CO4, and of one that is warm. -/
theorem warmReset_warm (hservice : s.boot.pstate ≠ 7) (hpast : s.boot.pstate ≠ 0 ∨ s.boot.kind = .warm ∨ s.boot.co4Done = true) :
    warmReset env s = enterCo0 env (warmBase s) := by
  have hcold : ¬(s.boot.pstate = 0 ∧ s.boot.kind ≠ .warm ∧ (!s.boot.co4Done) = true) := by
    rintro ⟨hboot, hkind, hco4⟩
    obtain h | h | h := hpast
    · exact h hboot
    · exact hkind h
    · simp [h] at hco4
  rw [warmReset, hup, htrip, if_neg (by decide), if_neg hservice, if_neg hcold]

/-- A warm reset in a cold cast-on before the end of CO4 restarts cold. -/
theorem warmReset_cold (hboot : s.boot.pstate = 0) (hkind : s.boot.kind ≠ .warm) (hco4 : s.boot.co4Done = false) :
    warmReset env s = enterCo0 env (powerOn s) := by
  have hcold : s.boot.pstate = 0 ∧ s.boot.kind ≠ .warm ∧ (!s.boot.co4Done) = true := ⟨hboot, hkind, by rw [hco4]; rfl⟩
  have hservice : s.boot.pstate ≠ 7 := by omega
  rw [warmReset, hup, htrip, if_neg (by decide), if_neg hservice, if_pos hcold, coldReset,
    programFlash_unchanged (.inr (not_heldRst_of_anchorUp hup))]

end

/-! ## CO0 (R452, R464, R473) -/

/-- Where ANC-N signals, or ANC-S leads, CO0 runs. -/
theorem enterCo0_led (h : env.anchorNOk = true ∨ s.grid.anchorS = true) :
    enterCo0 env s = runCo0 env { s with boot := { s.boot with phase := 0, wait := 0 } } := by
  have hled : ¬((!env.anchorNOk && !s.grid.anchorS) = true) := by
    obtain h | h := h <;> simp [h]
  exact if_neg hled

/-- Where ANC-N does not signal, CO0 waits. -/
theorem enterCo0_waits (hn : env.anchorNOk = false) (hsouth : s.grid.anchorS = false) :
    enterCo0 env s = { s with boot := { s.boot with phase := 0, wait := 0, cast := some env } } :=
  if_pos (show (!env.anchorNOk && !s.grid.anchorS) = true by rw [hn, hsouth]; rfl)

theorem runCo0_fails {why : Nat} (h : co0Check env s.flash = some why) : runCo0 env s = castFail why 255 s := by
  rw [runCo0, h]

theorem runCo0_passes (h : co0Check env s.flash = none) :
    runCo0 env s = enterCo1 env { s with boot := { s.boot with
      fwver := ((bootImage s.flash).map Firmware.version).getD 0, fwfall := !slotOk s.flash (bootSlot s.flash), cast := none } } := by
  rw [runCo0, h]
  rfl

/-- The flash's limit ends the wait of a CO0 that waits, and nothing else. -/
theorem flashTimeout_idle (h : s.boot.cast = none ∨ s.boot.phase ≠ 0 ∨ anchorUp s = false) : flashTimeout s = s := by
  unfold flashTimeout
  split
  next env hcast =>
    have hidle : ¬(s.boot.phase = 0 ∧ anchorUp s = true) := by
      rintro ⟨hphase, hup⟩
      obtain hnone | hne | hdown := h
      · exact absurd (hcast.symm.trans hnone) (Option.some_ne_none env)
      · exact hne hphase
      · exact Bool.false_ne_true (hdown.symm.trans hup)
    exact if_neg hidle
  next => rfl

theorem flashTimeout_waiting (hcast : s.boot.cast = some env) (hphase : s.boot.phase = 0) (hup : anchorUp s = true) :
    flashTimeout s = runCo0 env (southLeads s) := by
  rw [flashTimeout, hcast]
  exact if_pos ⟨hphase, hup⟩

end

/-- Settles O53: each event is the case of its operation that the panel's state selects.  WARM_RESET is stated for the states in which log
entry 98 lets it act. -/
theorem castOnEvents : Obligations.CastOnEvents := by
  intro s
  refine ⟨fun env hkept => ?cold, fun env a b sel henv hheld => ?programmed, rfl, fun env hup htrip hservice hpast => ?warm,
    fun env hup htrip hboot hkind hco4 => ?early, fun c hc hphase hwait hwarn => ?course, fun c hc => ?good,
    fun env hphase hup htrip => ?backoff, fun env => ⟨?waits, fun hled => ⟨fun why hwhy => ?fails, fun hpass => ?passes⟩⟩, ?idle,
    fun env hcast hphase hup => ?handover, fun p hp => ?perst⟩
  case cold =>
    exact done_of_wf rfl (by rw [coldReset, programFlash_unchanged hkept])
  case programmed =>
    exact done_of_wf rfl (by rw [coldReset, programFlash_held henv hheld])
  case warm =>
    exact done_of_wf rfl (warmReset_warm hup htrip hservice hpast)
  case early =>
    exact done_of_wf rfl (warmReset_cold hup htrip hboot hkind hco4)
  case course =>
    exact done_of_wf (decide_eq_true hc) (if_pos ⟨hphase, hwait, by rw [hwarn]; rfl⟩)
  case good =>
    exact done_of_wf (decide_eq_true hc) rfl
  case backoff =>
    exact done_of_wf rfl (if_pos ⟨hphase, hup, by rw [htrip]; rfl⟩)
  case waits =>
    exact fun hn hsouth => enterCo0_waits hn hsouth
  case fails =>
    exact (enterCo0_led hled).trans (runCo0_fails hwhy)
  case passes =>
    exact (enterCo0_led hled).trans (runCo0_passes hpass)
  case idle =>
    exact fun h => done_of_wf rfl (flashTimeout_idle h)
  case handover =>
    exact done_of_wf rfl (flashTimeout_waiting hcast hphase hup)
  case perst =>
    exact done_of_wf (decide_eq_true hp) rfl

end Sys2Proof.Machine
end

section
/-! PROOF. The two anchors and Herus's own bind-off (R415, R454 to R456, R478, R532): each event by the states that choose its case. -/

namespace Sys2Proof.Machine

open Sys2Proof

/-! ## A panel that stops (R455) -/

/-- The end of a freeze changes the dies, the lodestar and the free values drawn. -/
theorem exists_endFreeze_eq (s : State) : ∃ ds n l, endFreeze s = { s with dies := ds, free := n, lode := l } := by
  unfold endFreeze
  split
  · obtain ⟨ds, h⟩ := exists_modDies_eq (liveDies s) (fun x => { x with ref := x.ref + Config.cancelledFreeze s.free }) s
    exact ⟨ds, s.free + 1, _, by dsimp only; rw [h]⟩
  · exact ⟨s.dies, s.free, s.lode, rfl⟩

/-- A panel that stops keeps its committed pattern, its memory, its sessions and its flash. -/
theorem panelDead_kept (s : State) :
    (panelDead s).pat.committed = s.pat.committed ∧ (panelDead s).pmem = s.pmem ∧ (panelDead s).sess = s.sess ∧
      (panelDead s).flash = s.flash := by
  obtain ⟨ds, n, l, h⟩ := exists_endFreeze_eq (modBoot (fun b => { b with dead := true, cast := none }) s)
  simp only [panelDead, cancelHold, h]
  exact ⟨rfl, rfl, rfl, rfl⟩

/-- A panel without an anchor has no duties. -/
theorem duties_of_dead {s : State} (h : s.boot.dead = true) : duties s = s := by
  rw [duties, h, Bool.or_true, Bool.true_or, if_pos rfl]

theorem not_anchorUp_of_dead {s : State} (h : s.boot.dead = true) : anchorUp s = false := by
  rw [anchorUp, h, Bool.not_true, Bool.and_false, Bool.false_and]

/-! ## Takeovers (R454 to R456) -/

section

variable {s : State}

/-- A takeover needs ANC-N in the lead. -/
theorem anchorTakeover_idle (h : s.grid.anchorS = true ∨ anchorUp s = false) : anchorTakeover s = s := by
  refine if_pos ?_
  obtain h | h := h
  · rw [h, Bool.true_or]
  · rw [h, Bool.not_false, Bool.or_true]

section

variable (hsouth : s.grid.anchorS = false) (hup : anchorUp s = true)

include hsouth hup

theorem anchorTakeover_alone (halone : s.boot.nostby = true) : anchorTakeover s = panelDead s := by
  rw [anchorTakeover, hsouth, hup, if_neg (by decide), halone, if_pos rfl]

theorem anchorTakeover_castOn (hstby : s.boot.nostby = false) (hboot : s.boot.pstate = 0) (hphase : s.boot.phase = 1) {env : CastOnEnv}
    (hcast : s.boot.cast = some env) : anchorTakeover s = enterCo1 env (castHandover s) := by
  rw [anchorTakeover, hsouth, hup, if_neg (by decide), hstby, if_neg Bool.false_ne_true, if_pos hboot, if_pos hphase, hcast]

theorem anchorTakeover_service (hstby : s.boot.nostby = false) (hboot : s.boot.pstate ≠ 0) : anchorTakeover s = takeover s := by
  rw [anchorTakeover, hsouth, hup, if_neg (by decide), hstby, if_neg Bool.false_ne_true, if_neg hboot]

end

/-- The failure of the only anchor stops the panel. -/
theorem soleFails_eq (h : s.grid.anchorS = true ∨ s.boot.nostby = true) : soleFails s = panelDead s :=
  if_pos (Bool.or_eq_true_iff.2 h)

/-! ## Herus's bind-off (R478, R532) -/

/-- A warning that has lasted binds a ready panel off. -/
theorem herusBindOff_ready (hwarn : s.pwr.warn = true) (hfirst : s.pwr.warnDone = false) (hup : herusUp s = true)
    (htrip : s.boot.trip = false) (hready : s.boot.pstate = 1) :
    herusBindOff s = beginBind 0 1 (eventPf 7 0 { s with pwr := { s.pwr with warnDone := true } }) := by
  have hdue : (s.pwr.warn && !s.pwr.warnDone && herusUp s && !s.boot.trip && (s.boot.pstate == 1 || s.boot.pstate == 5)) = true := by
    rw [hwarn, hfirst, hup, htrip, hready]
    rfl
  rw [herusBindOff, if_pos hdue]
  exact if_pos hready

/-- Without a warning, and once for each, nothing is done. -/
theorem herusBindOff_idle (h : s.pwr.warn = false ∨ s.pwr.warnDone = true) : herusBindOff s = s := by
  refine if_neg ?_
  obtain h | h := h <;> simp [h]

end

/-- Settles O54: each event is the case of its operation that the panel's state selects.  A takeover answers every request that has been taken
up (log entry 102). -/
theorem anchorEvents : Obligations.AnchorEvents := by
  intro s
  refine ⟨fun c hsouth hup hstby hboot => ?service, fun c env hsouth hup hstby hboot hphase hcast => ?castOn, fun c hidle => ?idle,
    fun c hsouth hup halone => ?alone, done_of_wf rfl rfl, fun hsole => ?sole, fun hwarn hfirst hup htrip hready => ?bind,
    fun hidle => ?noBind⟩
  case service =>
    exact done_of_wf rfl (congrArg duties (anchorTakeover_service hsouth hup hstby hboot))
  case castOn =>
    exact done_of_wf rfl (congrArg duties (anchorTakeover_castOn hsouth hup hstby hboot hphase hcast))
  case idle =>
    exact done_of_wf rfl (congrArg duties (anchorTakeover_idle hidle))
  case alone =>
    obtain ⟨hdead, hpat, hrnd⟩ := panelDead_stops s
    obtain ⟨hcommitted, -⟩ := panelDead_kept s
    have hnext : duties (anchorTakeover s) = panelDead s := by rw [anchorTakeover_alone hsouth hup halone, duties_of_dead hdead]
    exact ⟨panelDead s, done_of_wf rfl hnext, hdead, not_anchorUp_of_dead hdead, hpat, hrnd, hcommitted⟩
  case sole =>
    obtain ⟨hdead, hpat, hrnd⟩ := panelDead_stops s
    obtain ⟨-, hpmem, hsess, hflash⟩ := panelDead_kept s
    exact ⟨panelDead s, done_of_wf rfl (soleFails_eq hsole), hdead, hpat, hrnd, hpmem, hsess, hflash⟩
  case bind =>
    exact done_of_wf rfl (congrArg duties (herusBindOff_ready hwarn hfirst hup htrip hready))
  case noBind =>
    exact done_of_wf rfl (congrArg duties (herusBindOff_idle hidle))

end Sys2Proof.Machine
end

section
/-! PROOF. Resets of functions and host ports, and the number of VFs (R374, R376, R394, R414, R580). -/

namespace Sys2Proof.Machine

open Sys2Proof

section

variable {s : State}

/-- A function whose mailbox holds no long command keeps the contents of its two areas (R414). -/
theorem resetFn_without_long {f : Nat} (h : (fnOf s f).mb.long = none) :
    resetFn f s = modFn f (fun _ => { mb := { req := (fnOf s f).mb.req, rsp := (fnOf s f).mb.rsp } }) s := by
  simp only [resetFn, h]

theorem vfEnable_number {n : Nat} (hup : portUp s 0 = true) (hnone : s.pins.numVfs = 0) :
    vfEnable true n s = { s with pins := { s.pins with numVfs := n } } := by
  rw [vfEnable, hup, if_neg (by decide), if_pos rfl, if_pos hnone]

theorem vfEnable_off {n : Nat} (hup : portUp s 0 = true) : vfEnable false n s = disableVfs s := by
  rw [vfEnable, hup, if_neg (by decide), if_neg Bool.false_ne_true]

/-- The reset of port 0 that asserts no PERST_N. -/
theorem portReset_tenants {kind : PortReset} (h : kind ≠ .perst) : portReset 0 kind s = resetTenantFn 0 (disableVfs s) := by
  rw [portReset, if_neg h, if_pos rfl]

/-- The reset of port 1 that asserts no PERST_N. -/
theorem portReset_intake {kind : PortReset} (h : kind ≠ .perst) :
    portReset 1 kind s = { resetFn 64 s with intake := { s.intake with open_ := false } } := by
  rw [portReset, if_neg h, if_neg (by decide)]

end

/-- Settles O36: each reset is the case of its operation that the port and the kind of reset select.  What a function keeps rests on log entry
94; that a reset of port 0 disables the VFs, and that one of port 1 closes the intake, on entry 78. -/
theorem functionResets : Obligations.FunctionResets := by
  intro s cleared
  refine ⟨fun f hlong => resetFn_without_long hlong, fun _ => rfl, fun f hlo hhi hreach => ?flr, fun kind hkind => ?port0, done_of_wf rfl rfl,
    fun kind hkind => ?port1, ?perst1, fun hup => ⟨?off, fun n hn hnone => ?number⟩⟩
  case flr =>
    have hwf : (Instr.vfFlr f).wf = true := by rw [Instr.wf, decide_eq_true hlo, decide_eq_true hhi, Bool.and_self]
    exact done_of_wf hwf (congrArg duties (if_pos hreach))
  case port0 =>
    exact done_of_wf rfl (congrArg duties (portReset_tenants hkind))
  case port1 =>
    exact done_of_wf rfl (congrArg duties (portReset_intake hkind))
  case perst1 =>
    exact done_of_wf rfl (congrArg duties (portReset_intake (s := { s with pins := _ }) (kind := .linkDown) (by decide)))
  case off =>
    exact done_of_wf rfl (congrArg duties (vfEnable_off hup))
  case number =>
    exact done_of_wf (decide_eq_true hn) (congrArg duties (vfEnable_number hup hnone))

end Sys2Proof.Machine
end

section
/-! PROOF. The weight-intake aperture (R396 to R398): an access within one unit, and what it stores, discards and reads. -/

namespace Sys2Proof.Machine

open Sys2Proof

section

variable {u : Nat} {s : State}

/-! ## Accesses within one unit -/

/-- An access from the start of a unit that stays within it has one part. -/
theorem apertureParts_unit {n : Nat} (hpos : 1 ≤ n) (hlen : n ≤ 256) : apertureParts (256 * u) n = [(u, 0, n)] := by
  have hfirst : 256 * u / 256 = u := Nat.mul_div_cancel_left u (by omega)
  have hlast : (256 * u + n - 1) / 256 = u := by omega
  have hend : min (256 * u + n) (256 * u + 256) = 256 * u + n := by omega
  simp [apertureParts, hfirst, hlast, hend]

theorem apertureOk_unit {n : Nat} (hu : u < 2 ^ 24) (hpos : 1 ≤ n) (hlen : n ≤ 256) : apertureOk (256 * u) n = true := by
  have hlimit : n ≤ 4096 := by omega
  have hwindow : 256 * u + n ≤ 2 ^ 32 := by omega
  rw [apertureOk, decide_eq_true hpos, decide_eq_true hlimit, decide_eq_true hwindow, Bool.and_self, Bool.and_self]

/-! ## Writes (R396) -/

/-- A write within one unit is the write of its one part. -/
theorem apertureStore_unit {data : List Byte} (hpos : 1 ≤ data.length) (hlen : data.length ≤ 256) :
    apertureStore (256 * u) data s = aperturePart u 0 data s := by
  have hall : (data.drop (256 * u + 0 - 256 * u)).take data.length = data := by
    rw [Nat.add_zero, Nat.sub_self, List.drop_zero, List.take_length]
  rw [apertureStore, apertureParts_unit hpos hlen, List.foldl_cons, List.foldl_nil, hall]

/-- A whole unit that is mapped is written after the earlier operations on it. -/
theorem aperturePart_whole {a : Nat} {data : List Byte} (hlen : data.length = 256) (hmap : apertureUnit s u = some a) :
    aperturePart u 0 data s = { writeAfter a 0xF data s with
      intake := { (writeAfter a 0xF data s).intake with sectors := (writeAfter a 0xF data s).intake.sectors + 4 } } := by
  have hwhole : wholeSectors 0 256 = [0, 1, 2, 3] := by decide
  have hmask : BitVec.ofNat 4 (([0, 1, 2, 3].map fun k => 2 ^ k).sum) = 0xF := by decide
  have hnone : BitVec.ofNat 64 (256 - 64 * [0, 1, 2, 3].length) = 0#64 := by decide
  simp only [aperturePart, hmap, hlen, hwhole, hmask, hnone, List.isEmpty_cons, Bool.false_eq_true, if_false, List.replicate_zero,
    List.nil_append, BitVec.add_zero]
  rfl

/-- Bytes that are not mapped are discarded. -/
theorem aperturePart_unmapped {o : Nat} {data : List Byte} (hmap : apertureUnit s u = none) :
    aperturePart u o data s = { s with intake := { s.intake with discMap := s.intake.discMap + BitVec.ofNat 64 data.length } } := by
  rw [aperturePart, hmap]

theorem exec_apertureWrite {off : Nat} {data : List Byte} (hport : portUp s 1 = true) (hok : apertureOk off data.length = true) :
    exec (.apertureWrite off data) s = .next (apertureStore off data s) :=
  done_of_wf hok (if_pos hport)

/-! ## Reads (R398) -/

theorem apertureLoad_mapped {a n : Nat} (hpos : 1 ≤ n) (hlen : n ≤ 256) (hmap : apertureUnit s u = some a) :
    apertureLoad (256 * u) n s = apertureTouch a (emit (.apertureData (256 * u) ((readBytes s a).take n)) s) := by
  simp only [apertureLoad, apertureReads, apertureBytes, apertureParts_unit hpos hlen, List.filterMap_cons, List.filterMap_nil,
    List.flatMap_cons, List.flatMap_nil, hmap, List.foldl_cons, List.foldl_nil, List.drop_zero, List.append_nil]

theorem apertureLoad_unmapped {n : Nat} (hpos : 1 ≤ n) (hlen : n ≤ 256) (hmap : apertureUnit s u = none) :
    apertureLoad (256 * u) n s = emit (.apertureData (256 * u) (List.replicate n 0)) s := by
  simp only [apertureLoad, apertureReads, apertureBytes, apertureParts_unit hpos hlen, List.filterMap_cons, List.filterMap_nil,
    List.flatMap_cons, List.flatMap_nil, hmap, List.foldl_nil, List.append_nil]

theorem exec_apertureRead {off n : Nat} (hport : portUp s 1 = true) (hok : apertureOk off n = true) :
    exec (.apertureRead off n) s = .next (duties (apertureLoad off n s)) :=
  done_of_wf hok (if_pos hport)

end

/-- Settles O37: an access within one unit has one part, and the open target decides whether it is stored and read.  The units mapped are those
of the target (log entry 76). -/
theorem apertureAccesses : Obligations.ApertureAccesses := by
  intro u s hu hport
  refine ⟨fun a data hlen hmap => ?stored, fun data hpos hlen hmap => ?discarded, fun off data hok => exec_apertureWrite hport hok,
    fun a n hpos hlen hmap => ⟨?read, readBytes_unitBytes⟩, fun n hpos hlen hmap => ?zeros⟩
  case stored =>
    have hpos : 1 ≤ data.length := by omega
    have hle : data.length ≤ 256 := by omega
    rw [exec_apertureWrite hport (apertureOk_unit hu hpos hle), apertureStore_unit hpos hle, aperturePart_whole hlen hmap]
  case discarded =>
    rw [exec_apertureWrite hport (apertureOk_unit hu hpos hlen), apertureStore_unit hpos hlen, aperturePart_unmapped hmap]
  case read =>
    rw [exec_apertureRead hport (apertureOk_unit hu hpos hlen), apertureLoad_mapped hpos hlen hmap]
  case zeros =>
    rw [exec_apertureRead hport (apertureOk_unit hu hpos hlen), apertureLoad_unmapped hpos hlen hmap]

end Sys2Proof.Machine
end

section
/-! PROOF. Doorbells, token arrays, bus mastering and host read failures (R351, R377 to R379, R382, R384): each event by the states that choose
its case. -/

namespace Sys2Proof.Machine

open Sys2Proof

section

variable {t i : Nat} {s : State}

/-! ## Doorbells (R351, R379, R382) -/

/-- The tail that a doorbell leaves, with the tail from before the present stitch (R351). -/
theorem moveTail_eq (now : BitVec 48) (tail : Nat) (q : RingPair) :
    moveTail now tail q = { q with
      sqTail := tail, tailWas := if q.tailAt = some now then q.tailWas else q.sqTail, tailAt := some now } := by
  have hwas : snapTail q now = if q.tailAt = some now then q.tailWas else q.sqTail := if_congr beq_iff_eq rfl rfl
  rw [moveTail, hwas]

/-- A pair that is disabled, or whose tenant is under reset, counts a doorbell and ignores it. -/
theorem doorbell_ignored {tail head : Option W16} (h : ¬((ringOf s t i).en = true ∧ (tenOf s t).resetting = false)) :
    doorbell t i tail head s = fnCount t 0x10010 1 s := by
  refine if_pos ?_
  cases hen : (ringOf s t i).en with
  | false => rfl
  | true => simpa [hen] using h

section

variable (hen : (ringOf s t i).en = true) (hlive : (tenOf s t).resetting = false)

include hen hlive

theorem doorbell_head (h : W16) : doorbell t i none (some h) s = modRing t i (returnCq h.toNat) s := by
  simp only [doorbell, hen, hlive, Bool.not_true, Bool.or_self, Bool.false_eq_true, if_false]

theorem doorbell_none : doorbell t i none none s = s := by
  simp only [doorbell, hen, hlive, Bool.not_true, Bool.or_self, Bool.false_eq_true, if_false]

/-- A tail outside the ring stops it (R379). -/
theorem doorbell_bad_tail {x : W16} (hbad : tailOk (ringOf s t i) x.toNat = false) : doorbell t i (some x) none s = stopRing t i 2 s := by
  simp only [doorbell, hen, hlive, hbad, Bool.not_true, Bool.or_self, Bool.false_eq_true, if_false]

/-- A head and a tail in one doorbell: the entries return first. -/
theorem doorbell_both (h : W16) {x : W16} (hok : tailOk (ringOf s t i) x.toNat = true) :
    doorbell t i (some x) (some h) s =
      modRing t i (fun q => moveTail (stitchNow s) (x.toNat % 2 ^ q.k) q) (modRing t i (returnCq h.toNat) s) := by
  have hring : ringOf (modRing t i (returnCq h.toNat) s) t i = returnCq h.toNat (ringOf s t i) :=
    ringOf_modRing (ring_ne_default (show (returnCq h.toNat (ringOf s t i)).en = true from hen))
  have hfits : tailOk (ringOf (modRing t i (returnCq h.toNat) s) t i) x.toNat = true := (congrArg (tailOk · x.toNat) hring).trans hok
  simp only [doorbell, hen, hlive, hfits, Bool.not_true, Bool.or_self, Bool.false_eq_true, if_false, if_true]

end

/-- A doorbell that reaches a tenant's ring pair past cast-on. -/
theorem exec_doorbellWrite {tail head : Option W16} (hfn : fnOk t = true) (hi : i < 8) (ht : t < 64) (hreach : fnReached s t = true)
    (hup : s.boot.pstate ≠ 0) : exec (.doorbellWrite t i tail head) s = .next (duties (doorbell t i tail head s)) := by
  have hwf : (Instr.doorbellWrite t i tail head).wf = true := by rw [Instr.wf, hfn, decide_eq_true hi, Bool.and_self]
  exact done_of_wf hwf (congrArg duties ((access_of_reached _ _ hreach).trans (ringBell_of_tenant _ _ ht hi hup)))

/-! ## Token arrays (R384) -/

section

variable {tag : W64} {r : Req} (hfound : awaitingToks s t tag = some r)

include hfound

theorem tokensArrive_found (l : List W32) :
    tokensArrive t tag l s = modReq r.id (fun x => { x with toks := some (fitToks x.left l) }) s := by
  rw [tokensArrive, hfound]

theorem tokensFail_found : tokensFail t tag s = modReq r.id (fun x => { x with toks := some [], d := { x.d with arg := 1 } }) s := by
  rw [tokensFail, hfound]

end

/-! ## Bus mastering (R377) -/

theorem busMaster_of_reached {f : Nat} (en : Bool) (h : fnReached s f = true) :
    busMaster f en s =
      if en then releaseHeld f (modFn f (fun x => { x with bme := en }) s) else modFn f (fun x => { x with bme := en }) s :=
  if_neg (by rw [h]; decide)

end

/-- Settles O34: each event is the case of its operation that the ring and the waiting requests select.  That a token array whose read fails
leaves its request malformed rests on log entry 92. -/
theorem ringEvents : Obligations.RingEvents := by
  intro s moved
  have hmoved : ∀ x : W16, (fun q => moveTail (stitchNow s) (x.toNat % 2 ^ q.k) q) = moved x.toNat :=
    fun x => funext fun q => moveTail_eq _ _ q
  refine ⟨?doorbells, fun t tag l r ht hfound => ⟨?arrived, ?failed⟩,
    fun f hfn hreach => ⟨?off, ?on⟩, fun r hring hlive => ?descriptor⟩
  case doorbells =>
    intro f i tail head hfn hi ht hreach hup q out live
    have hout : ∀ u : State, doorbell f i tail head s = u → out u :=
      fun u hu => (exec_doorbellWrite hfn hi ht hreach hup).trans (by rw [hu])
    refine ⟨fun hdead => hout _ (doorbell_ignored hdead), ?head, ?tail, ?badTail, ?both, ?none⟩
    case head =>
      rintro h ⟨hen, hlive⟩ rfl rfl
      exact hout _ (doorbell_head hen hlive h)
    case tail =>
      rintro x ⟨hen, hlive⟩ rfl rfl hok
      exact hout _ (hmoved x ▸ doorbell_takes_tail hen hlive hok)
    case badTail =>
      rintro x ⟨hen, hlive⟩ rfl rfl hbad
      exact hout _ (doorbell_bad_tail hen hlive hbad)
    case both =>
      rintro h x ⟨hen, hlive⟩ rfl rfl hok
      exact hout _ (hmoved x ▸ doorbell_both hen hlive h hok)
    case none =>
      rintro ⟨hen, hlive⟩ rfl rfl
      exact hout _ (doorbell_none hen hlive)
  case arrived =>
    exact done_of_wf (decide_eq_true ht) (congrArg duties (tokensArrive_found hfound l))
  case failed =>
    exact done_of_wf (decide_eq_true ht) (congrArg duties (tokensFail_found hfound))
  case off =>
    exact done_of_wf hfn (congrArg duties (busMaster_of_reached false hreach))
  case on =>
    exact done_of_wf hfn (congrArg duties (busMaster_of_reached true hreach))
  case descriptor =>
    exact done_of_wf hring (congrArg duties (if_pos hlive))

end Sys2Proof.Machine
end

section
/-! PROOF. Mailbox commands that only read: identity, licence and time (R431, R432, R446), and status, sets, links, sessions, memory and the fault
log (R432, R435, R437, R439, R441, R442, R444, R447). -/

namespace Sys2Proof.Machine

open Sys2Proof

/-- An accepted command that only reads answers its response, and leaves the state in which it is taken up. -/
theorem exec_of_read {op : Nat} {q : MbReq} {l : List (Nat × List Byte)} {c : Instr} {s : State}
    {f : MbReq → List Byte → State → Rsp} {r : Rsp}
    (hexec : exec c s = done (fnOk q.fn) (request op q l s)) (hbody : runBody op = answer op (reads f)) (hpos : 0 < op) (h : op < 2 ^ 16)
    (hfn : fnOk q.fn = true) (ha : accepted op q l s) (hrsp : f q (params l) (takenUp op q l s) = r) :
    exec c s = answers op q r (takenUp op q l s) :=
  exec_of_accepted (f := reads f) hexec hbody hpos h hfn ha (Prod.ext hrsp rfl)

/-! ## Identity, licence and time -/

section

variable (q : MbReq) (p : List Byte) {s : State}

/-- TIME_READ once the lodestar has started. -/
theorem timeRsp_started (h : s.boot.co3Done = true) :
    timeRsp q p s = okRsp [(0, timeBytes s), (8, natLe 8 s.lode.startRef.toNat), (0x10, natLe 8 s.lode.stretched.toNat),
      (0x18, natLe 8 s.lode.added.toNat)] := by
  rw [timeRsp, h]
  rfl

/-- TIME_READ before the lodestar has started. -/
theorem timeRsp_before (h : s.boot.co3Done = false) : timeRsp q p s = okRsp [] := by
  rw [timeRsp, h]
  rfl

end

/-- TIME_READ reads nothing that take-up changes. -/
theorem timeRsp_takenUp (op : Nat) (q : MbReq) (l : List (Nat × List Byte)) (p : List Byte) (s : State) :
    timeRsp q p (takenUp op q l s) = timeRsp q p s := apply_takenUp (timeRsp q p) op q l s fun _ _ _ => rfl

/-- Settles O18: each command reads the state in which it is taken up, which differs in the mailbox alone. -/
theorem mailboxIdentity : Obligations.MailboxIdentity := by
  intro q s hfn lic
  refine ⟨fun ha => ?identify, fun ha => ?caps, fun ha => ?licence, fun ha hstarted => ?time, fun ha hbefore => ?noTime⟩
  case identify => exact exec_of_read (f := identifyRsp) rfl rfl (by omega) (by omega) hfn ha rfl
  case caps => exact exec_of_read (f := capsRsp) rfl rfl (by omega) (by omega) hfn ha rfl
  case licence => exact exec_of_read (f := licenceRsp) rfl rfl (by omega) (by omega) hfn ha rfl
  case time =>
    exact exec_of_read (f := timeRsp) rfl rfl (by omega) (by omega) hfn ha
      ((timeRsp_takenUp ..).trans (timeRsp_started q _ hstarted))
  case noTime =>
    exact exec_of_read (f := timeRsp) rfl rfl (by omega) (by omega) hfn ha
      ((timeRsp_takenUp ..).trans (timeRsp_before q _ hbefore))

/-! ## Status, cooling, darn map, flags and memory -/

section

variable (op : Nat) (q : MbReq) (l : List (Nat × List Byte)) (s : State) (p : List Byte)

theorem statusRsp_takenUp : statusRsp q p (takenUp op q l s) = statusRsp q p s := by
  have hstate : pstateOf (takenUp op q l s) = pstateOf s := apply_takenUp pstateOf op q l s fun _ _ _ => rfl
  have htime : timeBytes (takenUp op q l s) = timeBytes s := apply_takenUp timeBytes op q l s fun _ _ _ => rfl
  have hpf : statusPf (takenUp op q l s) = statusPf s := apply_takenUp statusPf op q l s fun _ _ _ => rfl
  have hsess : tenantSessions (takenUp op q l s) q.fn = tenantSessions s q.fn := apply_takenUp (tenantSessions · q.fn) op q l s fun _ _ _ => rfl
  have hten : tenOf (takenUp op q l s) q.fn = tenOf s q.fn := apply_takenUp (tenOf · q.fn) op q l s fun _ _ _ => rfl
  have hlode : (takenUp op q l s).lode = s.lode := apply_takenUp State.lode op q l s fun _ _ _ => rfl
  have hrnd : (takenUp op q l s).rnd = s.rnd := apply_takenUp State.rnd op q l s fun _ _ _ => rfl
  simp only [statusRsp, hstate, htime, hpf, hsess, hten, hlode, hrnd]

theorem thermalRsp_takenUp : thermalRsp q p (takenUp op q l s) = thermalRsp q p s :=
  apply_takenUp (thermalRsp q p) op q l s fun _ _ _ => rfl

theorem darnRsp_takenUp : darnRsp q p (takenUp op q l s) = darnRsp q p s := apply_takenUp (darnRsp q p) op q l s fun _ _ _ => rfl

theorem flagsReadRsp_takenUp : flagsReadRsp q p (takenUp op q l s) = flagsReadRsp q p s := by
  have hdies : siteDies (takenUp op q l s) = siteDies s := apply_takenUp siteDies op q l s fun _ _ _ => rfl
  have hdie : ∀ d, dieOf (takenUp op q l s) d = dieOf s d := fun d => apply_takenUp (dieOf · d) op q l s fun _ _ _ => rfl
  have hgrid : (takenUp op q l s).grid = s.grid := apply_takenUp State.grid op q l s fun _ _ _ => rfl
  have hrnd : (takenUp op q l s).rnd = s.rnd := apply_takenUp State.rnd op q l s fun _ _ _ => rfl
  simp only [flagsReadRsp, hdies, hdie, hgrid, hrnd]

theorem memoryStatusRsp_takenUp : memoryStatusRsp q p (takenUp op q l s) = memoryStatusRsp q p s :=
  apply_takenUp (memoryStatusRsp q p) op q l s fun _ _ _ => rfl

end

/-! ## Fault log, sets, links and tail logs -/

section

variable (q : MbReq) {p : List Byte} (s : State)

/-- FAULT_LOG_READ by its parameters (R441). -/
theorem faultLogRsp_eq {a n : Nat} (hfirst : par p 0 8 = a) (hmost : par p 8 4 = n) :
    let next := s.flog.next.toNat
    let oldest := next - s.flog.recs.length
    let recs := (s.flog.recs.drop (clampTo oldest next a - oldest)).take (clampTo 1 4096 n)
    faultLogRsp q p s = { applied (clampTo oldest next a == a && clampTo 1 4096 n == n)
        [(0, natLe 8 oldest), (8, natLe 8 next), (0x10, natLe 4 (if q.bulkv then min recs.length (q.blen.toNat / 32) else 0)),
          (0x14, natLe 4 oldest)] with bulk := some (recs.flatMap faultBytes) } := by
  simp only [faultLogRsp, hfirst, hmost]

/-- The die that SET_READ reads: the anchor die for the panel scope (R435). -/
def setReadDie (s : State) (die : W16) : Nat := if die = 0xFFFF then anchorDie s else die.toNat

/-- The set that SET_READ reads. -/
def setReadSet (s : State) (d : Nat) (which : Byte) : CfgSet := if which = 0 then (dieOf s d).active else (dieOf s d).shadow

/-- SET_READ of an item that the die holds (R435). -/
theorem setReadRsp_eq {die : W16} {which item : Byte} (hdie : par p 0 2 = die.toNat) (hwhich : par p 2 1 = which.toNat)
    (hitem : par p 3 1 = item.toNat) (hset : which.toNat ≤ 1) (hfirst : 1 ≤ item.toNat) (hlast : item.toNat ≤ 4)
    (hscope : die.toNat < numDies ∨ die = 0xFFFF ∧ 3 ≤ item.toNat) :
    let d := setReadDie s die
    let c := setReadSet s d which
    let held := entriesHeld d item.toNat c
    setReadRsp q p s = { okRsp [(0, natLe 1 (b2n ((dieOf s d).arm == .armed))), (1, natLe 1 held.length),
        (4, natLe 4 (Config.setChecksum ((List.range 4).flatMap fun i => (entriesHeld d (i + 1) c).flatten)).toNat),
        (8, natLe 8 (dieOf s d).lastSwap.toNat), (0x10, (held.take 8).flatten)] with bulk := some held.flatten } := by
  have hpanel : die.toNat = 0xFFFF ↔ die = 0xFFFF := BitVec.toNat_inj (y := 0xFFFF#16)
  have hactive : which.toNat = 0 ↔ which = 0 := BitVec.toNat_inj (y := 0#8)
  have hthere : ¬(numDies ≤ die.toNat ∧ ¬die = 0xFFFF) := fun ⟨hno, hone⟩ => hscope.elim (by omega) fun h => hone h.1
  have hholds : ¬(die = 0xFFFF ∧ item.toNat ≤ 2) := by
    rintro ⟨hpan, hfew⟩
    obtain h | ⟨-, h⟩ := hscope
    · have hwide : numDies ≤ 0xFFFF := by decide
      have := hpanel.2 hpan
      omega
    · omega
  have hset' : ¬1 < which.toNat := by omega
  have hitem' : ¬(item.toNat = 0 ∨ 4 < item.toNat) := by omega
  simp only [setReadRsp, setReadDie, setReadSet, hdie, hwhich, hitem, ne_eq, hpanel, hactive, hthere, hset', hitem', hholds, if_false]

/-- LINK_READ of ports that have links (R447). -/
theorem linkReadRsp_eq {d port : Nat} (hdie : par p 0 2 = d) (hport : par p 2 1 = port) (hd : d < numDies)
    (hsome : (endsOf d).filter (fun e => port == 0xFF || e.2 == port) ≠ []) :
    let ends := (endsOf d).filter fun e => port == 0xFF || e.2 == port
    linkReadRsp q p s = { okRsp [(0, natLe 1 ends.length),
        (4, (List.range 6).flatMap fun i => natLe 4 (if ends.contains (d, i) then linkWord s d i (linkOf s d i) else 0))] with
        bulk := some (ends.flatMap fun e => endRecord s e.1 e.2) } := by
  have hthere : ¬numDies ≤ d := by omega
  have hnonempty : ((endsOf d).filter fun e => port == 0xFF || e.2 == port).isEmpty = false :=
    Bool.eq_false_iff.2 fun h => hsome (List.isEmpty_iff.1 h)
  simp only [linkReadRsp, hdie, hport, hthere, hnonempty, Bool.false_eq_true, if_false]

/-- TAIL_LOG_READ of a session that the function may name (R444). -/
theorem tailLogRsp_eq {handle first : W32} {i : Nat} (hhandle : par p 0 4 = handle.toNat) (hfirst : par p 4 4 = first.toNat)
    (hsess : sessionFor s q.fn handle = some i) :
    let pos := (sessOf s i).tailpos
    let held := min pos.toNat (layNow s).tailLen
    let back := (pos - first).toNat
    let n := min held back
    tailLogRsp q p s = { okRsp [(0, natLe 4 pos.toNat), (4, natLe 4 (if q.bulkv then min n (q.blen.toNat / 64) else 0))] with
        clamped := decide (held < back)
        bulk := some ((List.range n).map fun k => pmRead s (tailAddr s i (pos - BitVec.ofNat 32 (n - k))) 64).flatten } := by
  simp only [tailLogRsp, hhandle, hfirst, BitVec.ofNat_toNat, BitVec.setWidth_eq, hsess]

/-- Take-up changes the backlog alone of health, so that the record of an end of a link reads as before. -/
theorem endRecord_takenUp (op : Nat) (l : List (Nat × List Byte)) (d n : Nat) : endRecord (takenUp op q l s) d n = endRecord s d n := by
  have hscore : ∀ k, scoreOf (takenUp op q l s) k = scoreOf s k := fun _ => rfl
  have hni : niOf (takenUp op q l s) d = niOf s d := apply_takenUp (niOf · d) op q l s fun _ _ _ => rfl
  have hgrid : (takenUp op q l s).grid = s.grid := apply_takenUp State.grid op q l s fun _ _ _ => rfl
  simp only [endRecord, linkOf_takenUp, hscore, hni, hgrid]

theorem linkReadRsp_takenUp (op : Nat) (l : List (Nat × List Byte)) : linkReadRsp q p (takenUp op q l s) = linkReadRsp q p s := by
  have hword : ∀ d n x, linkWord (takenUp op q l s) d n x = linkWord s d n x := fun d n x =>
    apply_takenUp (linkWord · d n x) op q l s fun _ _ _ => rfl
  simp only [linkReadRsp, linkOf_takenUp, hword, endRecord_takenUp]

end

/-- Settles O19: each command reads the state in which it is taken up, which differs in the mailbox alone.  The layout of SET_READ's answer is
R435's, and its panel scope rests on log entry 84; a rail without power reads 0 mV (log entry 82), and the row that a rebuild has reached is a
free value (log entry 26). -/
theorem mailboxReads : Obligations.MailboxReads := by
  intro q s hfn
  refine ⟨fun ha => ?status, fun ha => ?thermal, fun ha => ?darn, fun ha => ?flags, fun ha => ?memory, ?faults, ?sets, ?links, ?tail⟩
  case status => exact exec_of_read (f := statusRsp) rfl rfl (by omega) (by omega) hfn ha (statusRsp_takenUp ..)
  case thermal => exact exec_of_read (f := thermalRsp) rfl rfl (by omega) (by omega) hfn ha (thermalRsp_takenUp ..)
  case darn => exact exec_of_read (f := darnRsp) rfl rfl (by omega) (by omega) hfn ha (darnRsp_takenUp ..)
  case flags => exact exec_of_read (f := flagsReadRsp) rfl rfl (by omega) (by omega) hfn ha (flagsReadRsp_takenUp ..)
  case memory => exact exec_of_read (f := memoryStatusRsp) rfl rfl (by omega) (by omega) hfn ha (memoryStatusRsp_takenUp ..)
  case faults =>
    intro first max l next oldest a m recs ha
    have hfirst : par (params l) 0 8 = first.toNat := par_params (by simp [l]) (by simp [l]) (by simp [l]) first.isLt
    have hmost : par (params l) 8 4 = max.toNat := par_params (by simp [l]) (by simp [l]) (by simp [l]) max.isLt
    have hread : faultLogRsp q (params l) (takenUp 0x54 q l s) = faultLogRsp q (params l) s :=
      apply_takenUp (faultLogRsp q (params l)) _ q l s fun _ _ _ => rfl
    exact exec_of_read (f := faultLogRsp) rfl rfl (by omega) (by omega) hfn ha (hread.trans (faultLogRsp_eq q s hfirst hmost))
  case sets =>
    intro die which item l d c held ha hset hlo hhi hscope
    have hdie : par (params l) 0 2 = die.toNat := par_params (by simp [l]) (by simp [l]) (by simp [l]) die.isLt
    have hwhich : par (params l) 2 1 = which.toNat := par_params (by simp [l]) (by simp [l]) (by simp [l]) which.isLt
    have hitem : par (params l) 3 1 = item.toNat := par_params (by simp [l]) (by simp [l]) (by simp [l]) item.isLt
    have hread : setReadRsp q (params l) (takenUp 0x32 q l s) = setReadRsp q (params l) s :=
      apply_takenUp (setReadRsp q (params l)) _ q l s fun _ _ _ => rfl
    exact exec_of_read (f := setReadRsp) rfl rfl (by omega) (by omega) hfn ha
      (hread.trans (setReadRsp_eq q s hdie hwhich hitem hset hlo hhi hscope))
  case links =>
    intro die port l ends ha hd hsome
    have hdie : par (params l) 0 2 = die.toNat := par_params (by simp [l]) (by simp [l]) (by simp [l]) die.isLt
    have hport : par (params l) 2 1 = port.toNat := par_params (by simp [l]) (by simp [l]) (by simp [l]) port.isLt
    exact exec_of_read (f := linkReadRsp) rfl rfl (by omega) (by omega) hfn ha
      ((linkReadRsp_takenUp ..).trans (linkReadRsp_eq q s hdie hport hd hsome))
  case tail =>
    intro handle first i l pos held back n ha hsess
    have hhandle : par (params l) 0 4 = handle.toNat := par_params (by simp [l]) (by simp [l]) (by simp [l]) handle.isLt
    have hfirst : par (params l) 4 4 = first.toNat := par_params (by simp [l]) (by simp [l]) (by simp [l]) first.isLt
    have hread : tailLogRsp q (params l) (takenUp 0x72 q l s) = tailLogRsp q (params l) s :=
      apply_takenUp (tailLogRsp q (params l)) _ q l s fun _ _ _ => rfl
    exact exec_of_read (f := tailLogRsp) rfl rfl (by omega) (by omega) hfn ha
      (hread.trans (tailLogRsp_eq q s hhandle hfirst hsess))

end Sys2Proof.Machine
end

section
/-! PROOF. Mailbox commands of tenants and the round fence (R388, R394, R443, R444, R560): what an accepted command does, by its parameters. -/

namespace Sys2Proof.Machine

open Sys2Proof

/-! ## TENANT_CONFIGURE (R388, R443) -/

/-- A request of TENANT_CONFIGURE that passes every field check and of which no part is refused. -/
structure CfgTaken (s : State) (c : TenantCfg) : Prop where
  tenant : c.tenant.toNat ≤ 63
  stripe : c.which.getLsbD 2 = true → c.wstripe.toNat ≤ 5
  enables : ((ringsOf c).all fun x => decide (x.2.en.toNat ≤ 1)) = true
  rings : ringsRefused s c = []
  window : winRefused s c = false

/-- Whether a request changes a window that a running pattern must take (R222). -/
def cfgMoves (s : State) (c : TenantCfg) : Bool :=
  c.which.getLsbD 2 && cfgWin c != (tenOf s c.tenant.toNat).win && s.pat.running.isSome

section

variable {q : MbReq} {p : List Byte} {s : State} {c : TenantCfg}

theorem cfgMoves_false (h : c.which.getLsbD 2 = false ∨ cfgWin c = (tenOf s c.tenant.toNat).win ∨ s.pat.running = none) :
    cfgMoves s c = false := by
  unfold cfgMoves
  obtain h | h | h := h
  · rw [h, Bool.false_and, Bool.false_and]
  · rw [h, bne_self_eq_false, Bool.and_false, Bool.false_and]
  · rw [h, Option.isSome_none, Bool.and_false]

theorem cfgMoves_true (hsel : c.which.getLsbD 2 = true) (hwin : cfgWin c ≠ (tenOf s c.tenant.toNat).win)
    (hrun : s.pat.running.isSome = true) : cfgMoves s c = true := by
  rw [cfgMoves, hsel, bne_iff_ne.2 hwin, hrun, Bool.and_self, Bool.and_self]

/-- What is selected of a request that passes its checks is decided by whether a running pattern must take its window. -/
theorem tenantConfigureCmd_taken (hc : c = cfgApplied s.boot.lic (cfgOf p)) (h : CfgTaken s c) :
    tenantConfigureCmd q p s =
      match cfgMoves s c, s.swp with
      | true, some w => respond 0x60 q (rspRefused 4 (swapHolder w)) s
      | true, none => armSwap q (.window c.tenant.toNat (cfgOf p)) { kind := .window c.tenant.toNat, fn := q.fn } (applyParts c s)
      | false, _ => respond 0x60 q (cfgRsp s (cfgOf p))
          (if c.which.getLsbD 2 then modTen c.tenant.toNat (fun x => { x with win := cfgWin c }) (applyParts c s) else applyParts c s) := by
  subst hc
  obtain ⟨htenant, hstripe, henables, hrings, hwindow⟩ := h
  have hthere : ¬63 < (cfgApplied s.boot.lic (cfgOf p)).tenant.toNat := by omega
  have hplace : ¬((cfgApplied s.boot.lic (cfgOf p)).which.getLsbD 2 && decide (5 < (cfgApplied s.boot.lic (cfgOf p)).wstripe.toNat)) = true := by
    rw [Bool.and_eq_true, decide_eq_true_eq]
    exact fun ⟨hsel, hbad⟩ => by have := hstripe hsel; omega
  have hgood : (ringsOf (cfgApplied s.boot.lic (cfgOf p))).find? (fun x => decide (1 < x.2.en.toNat)) = none := by
    refine List.find?_eq_none.2 fun x hx => ?_
    have hen : x.2.en.toNat ≤ 1 := of_decide_eq_true (List.all_eq_true.1 henables x hx)
    rw [decide_eq_true_eq]
    omega
  simp only [tenantConfigureCmd, hthere, hplace, hgood, hwindow, hrings, List.isEmpty_nil, Bool.not_true, Bool.or_self, Bool.false_eq_true, if_false]
  rfl

end

/-- What TENANT_CONFIGURE checks is the same after take-up. -/
theorem CfgTaken.takenUp {s : State} {c : TenantCfg} (h : CfgTaken s c) (op : Nat) (q : MbReq) (l : List (Nat × List Byte)) :
    CfgTaken (takenUp op q l s) c :=
  have hrings : ringsRefused (Machine.takenUp op q l s) c = ringsRefused s c := apply_takenUp (ringsRefused · c) op q l s fun _ _ _ => rfl
  have hwin : winRefused (Machine.takenUp op q l s) c = winRefused s c := apply_takenUp (winRefused · c) op q l s fun _ _ _ => rfl
  { h with rings := hrings.trans h.rings, window := hwin.trans h.window }

/-! ## TENANT_RESET and ROUND_FENCE (R394, R560) -/

section

variable (q : MbReq) {p : List Byte} {s : State}

theorem tenantResetCmd_eq {t : Nat} (hpar : par p 0 1 = t) (ht : t ≤ 63) :
    tenantResetCmd q p s = beginReset t (hold q (.tenantReset t 0) s) := by
  have hthere : ¬63 < t := by omega
  simp only [tenantResetCmd, hpar, hthere, if_false]

theorem beginReset_first {t : Nat} (h : (tenOf s t).resetting = false) :
    beginReset t s = modTen t (fun x => { x with resetting := true, epoch := x.epoch + 1 }) s := by
  rw [beginReset, h, if_neg Bool.false_ne_true]

theorem tenOf_hold (op : LongOp) (t : Nat) : tenOf (hold q op s) t = tenOf s t := rfl

/-- A second reset joins the first. -/
theorem beginReset_again {t : Nat} (h : (tenOf s t).resetting = true) : beginReset t s = s := if_pos h

theorem roundFenceCmd_read (h : par p 0 1 = 0) : roundFenceCmd q p s = respond 0x73 q (fenceRsp s) s := by
  rw [roundFenceCmd, h]
  rfl

theorem roundFenceCmd_close (h : par p 0 1 = 1) :
    roundFenceCmd q p s = if s.rnd.fence then respond 0x73 q (fenceRsp s) s
      else hold q .fence { s with rnd := { s.rnd with fence := true, fenceSess := [] } } := by
  rw [roundFenceCmd, h]
  rfl

theorem roundFenceCmd_open (h : par p 0 1 = 2) (hclosed : s.rnd.fence = true) :
    roundFenceCmd q p s = respond 0x73 q (okRsp [(0, natLe 1 (b2n false)), (8, natLe 8 s.rnd.last.toNat)])
      { s with rnd := { s.rnd with fence := false, fenceSess := [], freshOpen := true } } := by
  rw [roundFenceCmd, h]
  simp only [hclosed, if_true]
  rfl

/-- Opening a fence that is open does nothing. -/
theorem roundFenceCmd_open_again (h : par p 0 1 = 2) (hopen : s.rnd.fence = false) :
    roundFenceCmd q p s = respond 0x73 q (fenceRsp s) s := by
  rw [roundFenceCmd, h]
  simp only [hopen, Bool.false_eq_true, if_false]

end

/-- Settles O26: each command is its body in the state in which it is taken up.  The window that waits for a round boundary, and the parts that
apply at acceptance, rest on log entry 71; that WSTRIPE is checked whatever WLEN is, on entry 72. -/
theorem mailboxTenants : Obligations.MailboxTenants := by
  intro q s hfn
  refine ⟨?configure, ?reset, ?fence⟩
  case configure =>
    intro cfg l raw c k t ha htenant hstripe henables hrings hwindow
    have htaken : CfgTaken t c := CfgTaken.takenUp ⟨htenant, hstripe, henables, hrings, hwindow⟩ 0x60 q l
    have hboot : t.boot = s.boot := apply_takenUp State.boot 0x60 q l s fun _ _ _ => rfl
    have hc : c = cfgApplied t.boot.lic (cfgOf (params l)) := by rw [hboot]
    have hsame : cfgMoves t c = cfgMoves s c := apply_takenUp (cfgMoves · c) 0x60 q l s fun _ _ _ => rfl
    refine ⟨fun hstay => ?now, fun hsel hwin hrun hfree => ?later⟩
    case now =>
      refine exec_of_body (body := tenantConfigureCmd) rfl rfl (by omega) (by omega) hfn ha ?_
      have hmoves : cfgMoves t c = false := hsame.trans (cfgMoves_false hstay)
      rw [tenantConfigureCmd_taken hc htaken, hmoves]
      rfl
    case later =>
      refine exec_of_body (body := tenantConfigureCmd) rfl rfl (by omega) (by omega) hfn ha ?_
      have hmoves : cfgMoves t c = true := hsame.trans (cfgMoves_true hsel hwin hrun)
      have hswp : t.swp = none := (apply_takenUp State.swp 0x60 q l s fun _ _ _ => rfl).trans hfree
      rw [tenantConfigureCmd_taken hc htaken, hmoves, hswp]
  case reset =>
    intro tenant l u ha htenant
    have hpar : par (params l) 0 1 = tenant.toNat := par_params (by simp [l]) (by simp [l]) (by simp [l]) tenant.isLt
    have hten : tenOf u tenant.toNat = tenOf s tenant.toNat :=
      (tenOf_hold ..).trans (apply_takenUp (tenOf · tenant.toNat) 0x61 q l s fun _ _ _ => rfl)
    refine ⟨fun hfirst => ?first, fun hagain => ?again⟩
    case first =>
      exact exec_of_body (body := tenantResetCmd) rfl rfl (by omega) (by omega) hfn ha
        ((tenantResetCmd_eq q hpar htenant).trans (beginReset_first ((congrArg Tenant.resetting hten).trans hfirst)))
    case again =>
      exact exec_of_body (body := tenantResetCmd) rfl rfl (by omega) (by omega) hfn ha
        ((tenantResetCmd_eq q hpar htenant).trans (beginReset_again ((congrArg Tenant.resetting hten).trans hagain)))
  case fence =>
    intro action l t rsp ha
    have hpar : par (params l) 0 1 = action.toNat := par_params (by simp [l]) (by simp [l]) (by simp [l]) action.isLt
    have hrnd : t.rnd = s.rnd := apply_takenUp State.rnd 0x73 q l s fun _ _ _ => rfl
    have hfence : ∀ {b : Bool}, s.rnd.fence = b → t.rnd.fence = b ∧ fenceRsp t = rsp b := by
      rintro b rfl
      simp only [fenceRsp, hrnd, rsp, and_self]
    have hdone : ∀ {u : State}, roundFenceCmd q (params l) t = u → exec (.roundFence q action) s = .next (duties u) :=
      exec_of_body (body := roundFenceCmd) rfl rfl (by omega) (by omega) hfn ha
    refine ⟨?read, ?closed, ?close, ?opened, ?again⟩
    case read =>
      rintro rfl
      obtain ⟨-, hrsp⟩ := hfence rfl
      exact hdone ((roundFenceCmd_read q hpar).trans (by rw [hrsp]))
    case closed =>
      rintro rfl hclosed
      obtain ⟨hshut, hrsp⟩ := hfence hclosed
      exact hdone ((roundFenceCmd_close q hpar).trans ((if_pos hshut).trans (by rw [hrsp])))
    case close =>
      rintro rfl hopen
      obtain ⟨hleft, -⟩ := hfence hopen
      exact hdone ((roundFenceCmd_close q hpar).trans (if_neg (Bool.eq_false_iff.1 hleft)))
    case opened =>
      rintro rfl hclosed
      obtain ⟨hshut, -⟩ := hfence hclosed
      exact hdone ((roundFenceCmd_open q hpar hshut).trans (by rw [hrnd]))
    case again =>
      rintro rfl hopen
      obtain ⟨hleft, hrsp⟩ := hfence hopen
      exact hdone ((roundFenceCmd_open_again q hpar hleft).trans (by rw [hrsp]))

end Sys2Proof.Machine
end

section
/-! PROOF. Cooling (R537, R538, R542 to R546): measurements, the alert, the trip and what it takes down, and thermal cycles. -/

namespace Sys2Proof.Machine

open Sys2Proof

/-! ## Measurements and the alert (R537, R538, R542) -/

section

variable {s : State}

/-- What the measurement of both zones leaves of the means (R538). -/
theorem resistanceMeasure_eq (pc pm hc hm : Nat) (sc sm : Bool) (hup : herusUp s = true) (htrip : s.boot.trip = false) :
    resistanceMeasure pc pm hc hm sc sm s = reportCap (setCaps { s with thm := { s.thm with
      rc := if 2150 ≤ pc ∧ sc then (measured hc s.thm.tcmp pc :: s.thm.rc).take 16 else s.thm.rc
      rm := if 725 ≤ pm ∧ sm then (measured hm s.thm.tmem pm :: s.thm.rm).take 16 else s.thm.rm } }) := by
  simp only [resistanceMeasure, accept, modThm, hup, htrip, Bool.not_true, Bool.or_self, Bool.false_eq_true, if_false, Bool.and_eq_true,
    decide_eq_true_eq]

theorem alertChange_eq (env : AlertEnv) (hup : anchorUp s = true) :
    alertChange env s = { s with thm := { s.thm with
      alert := env.dieHot || env.stackHot || plateAlert s || (s.thm.alert && !env.heldOneSecond) } } := by
  rw [alertChange, hup]
  rfl

/-! ## Thermal cycles (R545, R546) -/

theorem cycleSample_eq (temps : List (Nat × Nat)) (hup : herusUp s = true) :
    cycleSample temps s = { s with thm := { s.thm with
      cycles := (List.range numDies).foldl (fun c d => tabMod {} c d (cycleStep (sampleTemp temps s d))) s.thm.cycles } } := by
  rw [cycleSample, hup]
  rfl

end

section

variable (t : Nat) (c : Cycles)

/-- A sample counts hot time and the highest temperature, whatever half cycle it falls in. -/
theorem cycleStep_counts : (cycleStep t c).most = max c.most t ∧ (cycleStep t c).hot = c.hot + if 95 ≤ t then 1 else 0 := by
  have hhot : (if 95 ≤ t then c.hot + 1 else c.hot) = c.hot + if 95 ≤ t then 1 else 0 := by split <;> rfl
  unfold cycleStep
  dsimp only
  split
  · split <;> exact ⟨rfl, hhot⟩
  · split <;> exact ⟨rfl, hhot⟩

/-- A fall of 20 K from the highest sample ends a rising half cycle. -/
theorem cycleStep_falls (hup : c.up = true) (hfall : t + 20 ≤ c.hi) :
    (cycleStep t c).up = false ∧ (cycleStep t c).lo = t ∧ (cycleStep t c).half = c.half + 1 := by
  have hmax : t + 20 ≤ max c.hi t := by omega
  simp only [cycleStep, hup, hmax, if_true, and_self]

theorem cycleStep_stays_up (hup : c.up = true) (hstay : c.hi < t + 20) :
    (cycleStep t c).up = true ∧ (cycleStep t c).hi = max c.hi t ∧ (cycleStep t c).half = c.half := by
  have hmax : ¬t + 20 ≤ max c.hi t := by omega
  simp only [cycleStep, hup, hmax, if_true, if_false, and_self]

/-- A rise of 20 K from the lowest sample ends a falling half cycle. -/
theorem cycleStep_rises (hdown : c.up = false) (hrise : c.lo + 20 ≤ t) :
    (cycleStep t c).up = true ∧ (cycleStep t c).hi = t ∧ (cycleStep t c).half = c.half + 1 := by
  have hmin : min c.lo t + 20 ≤ t := by omega
  simp only [cycleStep, hdown, hmin, Bool.false_eq_true, if_true, if_false, and_self]

theorem cycleStep_stays_down (hdown : c.up = false) (hstay : t < c.lo + 20) :
    (cycleStep t c).up = false ∧ (cycleStep t c).lo = min c.lo t ∧ (cycleStep t c).half = c.half := by
  have hmin : ¬min c.lo t + 20 ≤ t := by omega
  simp only [cycleStep, hdown, hmin, Bool.false_eq_true, if_false, and_self]

end

/-! ## Links that a trip takes down (R543) -/

/-- A link that carries nothing. -/
def LinkStopped (l : Link) : Prop := l.state = .down ∨ l.state = .disabled

/-- A trip takes a link down that repair has not disabled. -/
def stopLink (s : State) (e : Nat × Nat) : State :=
  if (linkOf s e.1 e.2).state = .disabled then s else modLink e.1 e.2 (fun l => { l with state := .down }) s

section

variable {s : State} (hwf : tabWf {} s.links = true)

include hwf

theorem tabWf_modLink (d p : Nat) (g : Link → Link) : tabWf {} (modLink d p g s).links = true := tabWf_tabMod _ _ _ _ hwf

omit hwf in
/-- A change of one link is not seen at another. -/
theorem linkOf_modLink_ne {d p a b : Nat} (g : Link → Link) (h : linkKey d p ≠ linkKey a b) : linkOf (modLink a b g s) d p = linkOf s d p :=
  tabGet_tabMod_ne _ _ _ h

theorem tabWf_stopLink (e : Nat × Nat) : tabWf {} (stopLink s e).links = true := by
  unfold stopLink
  split
  · exact hwf
  · exact tabWf_modLink hwf _ _ _

theorem linkStopped_stopLink (e : Nat × Nat) : LinkStopped (linkOf (stopLink s e) e.1 e.2) := by
  unfold stopLink
  split
  next hdisabled => exact .inr hdisabled
  next =>
    rw [linkOf_modLink _ _ _ _ hwf]
    exact .inl rfl

/-- A link that carries nothing still carries nothing when another, or the same, is taken down. -/
theorem LinkStopped.stopLink {d p : Nat} (h : LinkStopped (linkOf s d p)) (e : Nat × Nat) : LinkStopped (linkOf (stopLink s e) d p) := by
  by_cases hkey : linkKey d p = linkKey e.1 e.2
  · have hsame : ∀ t : State, linkOf t d p = linkOf t e.1 e.2 := fun _ => by rw [linkOf, hkey, linkOf]
    rw [hsame]
    exact linkStopped_stopLink hwf e
  · unfold Machine.stopLink
    split
    · exact h
    · rw [linkOf_modLink_ne _ hkey]
      exact h

omit hwf in
/-- Every link of a list that is taken down carries nothing afterwards, and no other link begins to. -/
theorem linkStopped_foldl (l : List (Nat × Nat)) (s : State) (hwf : tabWf {} s.links = true) (d p : Nat)
    (h : (d, p) ∈ l ∨ LinkStopped (linkOf s d p)) : LinkStopped (linkOf (l.foldl Machine.stopLink s) d p) := by
  induction l generalizing s with
  | nil => exact h.resolve_left List.not_mem_nil
  | cons e l ih =>
    refine ih _ (tabWf_stopLink hwf e) ?_
    obtain hmem | hstopped := h
    · obtain rfl | hlater := List.mem_cons.1 hmem
      · exact .inr (linkStopped_stopLink hwf (d, p))
      · exact .inl hlater
    · exact .inr (hstopped.stopLink hwf e)

end

/-! ## What a trip leaves (R543, R544) -/

/-- A fold whose steps change links alone changes links alone. -/
theorem exists_foldl_links {g : State → Nat × Nat → State} (hg : ∀ t e, ∃ ls, g t e = { t with links := ls }) (l : List (Nat × Nat))
    (s : State) : ∃ ls, l.foldl g s = { s with links := ls } := by
  induction l generalizing s with
  | nil => exact ⟨s.links, rfl⟩
  | cons e l ih =>
    obtain ⟨ls, h⟩ := hg s e
    obtain ⟨ls', h'⟩ := ih { s with links := ls }
    exact ⟨ls', by rw [List.foldl_cons, h, h']⟩

/-- The link at one place of the field goes down with the field, unless repair has disabled it. -/
def fieldLinkDown (s : State) (e : Nat × Nat) : State :=
  if fieldLink e && (linkOf s e.1 e.2).state != .disabled then modLink e.1 e.2 (fun l => { l with state := .down }) s else s

theorem exists_fieldLinkDown_eq (s : State) (e : Nat × Nat) : ∃ ls, fieldLinkDown s e = { s with links := ls } := by
  unfold fieldLinkDown
  split
  · exact ⟨_, rfl⟩
  · exact ⟨s.links, rfl⟩

theorem tabWf_fieldLinkDown {s : State} (hwf : tabWf {} s.links = true) (e : Nat × Nat) : tabWf {} (fieldLinkDown s e).links = true := by
  unfold fieldLinkDown
  split
  · exact tabWf_modLink hwf _ _ _
  · exact hwf

theorem fieldDown_eq (s : State) :
    fieldDown s = { allLinks.foldl fieldLinkDown (drainFabric s) with
      clus := tabMap {} unpowered (allLinks.foldl fieldLinkDown (drainFabric s)).clus } := by
  unfold fieldDown
  generalize allLinks = l
  rfl

theorem tabWf_foldl_fieldLinkDown (l : List (Nat × Nat)) {s : State} (hwf : tabWf {} s.links = true) :
    tabWf {} (l.foldl fieldLinkDown s).links = true :=
  List.foldlRecOn (motive := fun t => tabWf {} t.links = true) l fieldLinkDown hwf fun _ ht e _ => tabWf_fieldLinkDown ht e

/-- Powering the compute field down changes interfaces, links and clusters; a canonical table of links stays canonical. -/
theorem exists_fieldDown_eq (s : State) : ∃ ns ls cs, fieldDown s = { s with nis := ns, links := ls, clus := cs } ∧
    (tabWf {} s.links = true → tabWf {} ls = true) := by
  obtain ⟨ls, h⟩ := exists_foldl_links exists_fieldLinkDown_eq allLinks (drainFabric s)
  refine ⟨_, ls, _, by rw [fieldDown_eq, h]; rfl, fun hwf => ?_⟩
  have hfold := tabWf_foldl_fieldLinkDown allLinks (s := drainFabric s) hwf
  rwa [h] at hfold

/-- What a trip does in hardware, with the links that it takes down. -/
theorem tripHardware_eq (s : State) :
    let u := allLinks.foldl stopLink (fieldDown (cancelHold s))
    tripHardware s = { u with
      pat := { staged := u.pat.staged, committed := u.pat.committed }
      rnd := { u.rnd with active := false, parts := [] }
      pmem := { u.pmem with data := [], poison := [], rebuild := none }
      boot := { u.boot with trip := true, binding := none, cast := none, pstate := 7, phase := 12 } } := by
  unfold tripHardware
  generalize allLinks = l
  rfl

theorem exists_stopLink_eq (s : State) (e : Nat × Nat) : ∃ ls, stopLink s e = { s with links := ls } := by
  unfold stopLink
  split
  · exact ⟨s.links, rfl⟩
  · exact ⟨_, rfl⟩

/-- A trip changes the dies, the lodestar and the free values as the end of a freeze does, and the interfaces, links and clusters of the field;
no pattern and no round runs, panel memory is lost, and the panel is out of service. In a canonical table no link carries anything. -/
theorem exists_tripHardware_eq (s : State) : ∃ ds n lo ns ls cs, tripHardware s = { s with
      dies := ds, free := n, lode := lo, nis := ns, links := ls, clus := cs
      pat := { staged := s.pat.staged, committed := s.pat.committed }
      rnd := { s.rnd with active := false, parts := [] }
      pmem := { s.pmem with data := [], poison := [], rebuild := none }
      boot := { s.boot with trip := true, binding := none, cast := none, pstate := 7, phase := 12 } } ∧
    (tabWf {} s.links = true → ∀ e ∈ allLinks, LinkStopped (tabGet {} ls (linkKey e.1 e.2))) := by
  obtain ⟨ds, n, lo, hfreeze⟩ := exists_endFreeze_eq s
  obtain ⟨ns, ls, cs, hfield, hwf⟩ := exists_fieldDown_eq (cancelHold s)
  obtain ⟨ls', hlinks⟩ := exists_foldl_links exists_stopLink_eq allLinks (fieldDown (cancelHold s))
  refine ⟨ds, n, _, ns, ls', cs, by rw [tripHardware_eq, hlinks, hfield, cancelHold, hfreeze], fun hs e he => ?_⟩
  have hheld : (cancelHold s).links = s.links := by rw [cancelHold, hfreeze]
  have hdown : tabWf {} (fieldDown (cancelHold s)).links = true := by
    rw [hfield]
    exact hwf (hheld ▸ hs)
  have hstopped := linkStopped_foldl allLinks (fieldDown (cancelHold s)) hdown e.1 e.2 (.inl he)
  rwa [hlinks] at hstopped

theorem tripRecord_code (d temp : Nat) (s : State) : (tripRecord d temp s).code = 0x60 := by
  unfold tripRecord siteFields
  split <;> rfl

/-- A record of a code from 0x50 on raises no vector 2. -/
theorem logPush_quiet {r : FaultRec} (h : ¬r.code.toNat < 0x50) (s : State) :
    logPush r s = { s with flog := { recs := (s.flog.recs ++ [r]).drop ((s.flog.recs ++ [r]).length - 4096), next := s.flog.next + 1 } } := by
  simp only [logPush, h, if_false]

/-- A logged trip answers the long commands that wait, and writes the record and the health flash. -/
theorem exists_logged_eq {r : FaultRec} (h : ¬r.code.toNat < 0x50) (s : State) :
    ∃ fl th fns out, finishLongs (fun _ => true) (fun _ _ => rspState) (healthWrite (logPush r s)) =
      { s with flog := fl, thm := th, fns := fns, out := out } := by
  obtain ⟨fns, out, hhosts⟩ := onlyHosts_finishLongs (fun _ => true) (fun _ _ => rspState) (healthWrite (logPush r s))
  exact ⟨_, _, fns, out, by rw [hhosts, logPush_quiet h, healthWrite]⟩

/-- A trip beyond the hardware's part: with a compute die or a stack the anchors log it, and with a ring die or an anchor they stop. -/
theorem exists_thermalTrip_eq {d temp : Nat} {s u : State} (hu : tripHardware s = u) (htrip : s.boot.trip = false)
    (hheld : s.boot.heldRst = false) (hsupply : s.boot.supplyLost = false) : ∃ b fl th fns out, thermalTrip d temp s = { u with
      boot := { u.boot with tripRec := some (tripRecord d temp s), dead := b }, flog := fl, thm := th, fns := fns, out := out } ∧
      (216 ≤ d → b = true ∧ fl = u.flog) := by
  have hloud : ¬(tripRecord d temp s).code.toNat < 0x50 := by
    rw [tripRecord_code]
    decide
  unfold thermalTrip
  rw [htrip, hheld, hsupply, Bool.or_self, Bool.or_self, if_neg Bool.false_ne_true]
  dsimp only
  rw [hu]
  split
  next hlogged =>
    obtain ⟨fl, th, fns, out, hlog⟩ := exists_logged_eq hloud (modBoot (fun b => { b with tripRec := some (tripRecord d temp s) }) u)
    exact ⟨u.boot.dead, fl, th, fns, out, hlog, fun h => absurd hlogged.1 (by omega)⟩
  next => exact ⟨true, u.flog, u.thm, u.fns, u.out, rfl, fun _ => ⟨rfl, rfl⟩⟩

/-- No compute die and no stack is live after a trip. -/
theorem not_dieLive_of_trip {s : State} {e : Nat} (h : s.boot.trip = true) (he : e < 216) : dieLive s e = false := by
  simp only [dieLive, h, he, Bool.not_true, Bool.and_false, if_true, ite_self]

/-- Settles O57: each event is the case of its operation that the panel's state selects; of a trip, its hardware part is computed first, and the
record and the anchors' part on top of it.  PHASE 12 and the missing completion records of a trip rest on log entry 97, and the thermal cycle
counters on entry 108. -/
theorem coolingEvents : Obligations.CoolingEvents := by
  refine ⟨fun pc pm hc hm sc sm s hup htrip => ?measure, fun env s hup => ?alert, fun d temp s hd htrip hheld hsupply => ?trip,
    fun d temp s htrip hd => ?tripped, fun temps s hup => ?sample, ?step, fun s hup => ?flash⟩
  case measure =>
    exact done_of_wf rfl (resistanceMeasure_eq pc pm hc hm sc sm hup htrip)
  case alert =>
    exact done_of_wf rfl (alertChange_eq env hup)
  case trip =>
    obtain ⟨ds, n, lo, ns, ls, cs, hhard, hlinks⟩ := exists_tripHardware_eq s
    obtain ⟨b, fl, th, fns, out, htripped, hring⟩ := exists_thermalTrip_eq (d := d) (temp := temp) hhard htrip hheld hsupply
    refine ⟨_, done_of_wf hd htripped, rfl, rfl, rfl, rfl, rfl, rfl, rfl, hlinks, fun e he => not_dieLive_of_trip rfl he, hring, ?_, rfl⟩
    exact congrArg some (tripRecord_code d temp s)
  case tripped =>
    have hdone : thermalTrip d temp s = s := by
      rw [thermalTrip, htrip, Bool.true_or, Bool.true_or, if_pos rfl]
    exact done_of_wf hd hdone
  case sample =>
    exact done_of_wf rfl (cycleSample_eq temps hup)
  case step =>
    intro t c r
    obtain ⟨hmost, hhot⟩ := cycleStep_counts t c
    exact ⟨hmost, hhot, cycleStep_falls t c, cycleStep_stays_up t c, cycleStep_rises t c, cycleStep_stays_down t c⟩
  case flash =>
    exact done_of_wf rfl (if_pos hup)

end Sys2Proof.Machine
end

section
/-! PROOF. Session images (R444, R549 to R553): what SESSION_EXPORT and SESSION_IMPORT do, once accepted, by their parameters. -/

namespace Sys2Proof.Machine

open Sys2Proof

/-! ## SESSION_EXPORT (R550, R551) -/

section

variable {q : MbReq} {p : List Byte} {s : State} {handle : W32} {i : Nat}

/-- A session that is committed and at rest is exported. -/
theorem sessionExportImm_eq (hhandle : par p 0 4 = handle.toNat) (hsess : sessionFor s q.fn handle = some i)
    (hsound : (sessOf s i).state ≠ .failed) (hhere : (sessOf s i).state ≠ .unparking)
    (hlive : (tenOf s (sessOf s i).tenant).resetting = false)
    (hrest : s.rnd.active = false ∨ (s.rnd.parts.all fun y => y.index != i) = true) :
    sessionExportImm q p s = ({ okRsp [(0, natLe 8 (sessionImage s i).length), (8, natLe 4 (sessOf s i).len),
        (0xC, natLe 4 (sessOf s i).step.toNat), (0x10, natLe 8 (sessOf s i).lastRound.toNat)] with
        bulk := some (sessionImage s i), unit := 256 }, { s with free := s.free + 80 + ceilDiv (sessOf s i).len 256 * 6 * 2 ^ 33 }) := by
  have hidle : (s.rnd.parts.any (fun y => y.index == i) && s.rnd.active) = false := by
    obtain h | h := hrest
    · rw [h, Bool.and_false]
    · have hnone : s.rnd.parts.any (fun y => y.index == i) = false := by
        simpa only [List.any_eq_false, List.all_eq_true, bne_iff_ne, beq_iff_eq] using h
      rw [hnone, Bool.false_and]
  simp only [sessionExportImm, hhandle, BitVec.ofNat_toNat, BitVec.setWidth_eq, hsess, hsound, hhere, hlive, hidle, decide_false, Bool.or_self,
    Bool.false_eq_true, if_false]

end

/-- SESSION_EXPORT reads the sessions, the layout, the park images and panel memory, none of which take-up changes. -/
theorem sessionExport_takenUp (op : Nat) (q : MbReq) (l : List (Nat × List Byte)) (s : State) (f i t : Nat) (h : W32) :
    sessionFor (takenUp op q l s) f h = sessionFor s f h ∧ sessOf (takenUp op q l s) i = sessOf s i ∧
      tenOf (takenUp op q l s) t = tenOf s t ∧ sessionImage (takenUp op q l s) i = sessionImage s i ∧
      (takenUp op q l s).rnd = s.rnd :=
  ⟨apply_takenUp (sessionFor · f h) op q l s fun _ _ _ => rfl, apply_takenUp (sessOf · i) op q l s fun _ _ _ => rfl,
    apply_takenUp (tenOf · t) op q l s fun _ _ _ => rfl, apply_takenUp (sessionImage · i) op q l s fun _ _ _ => rfl,
    apply_takenUp State.rnd op q l s fun _ _ _ => rfl⟩

/-! ## SESSION_IMPORT (R552, R553) -/

section

variable {q : MbReq} {p : List Byte} {s : State}

/-- An image that passes the checks is imported. -/
theorem sessionImportCmd_passes {t : Nat} (hpar : par p 0 1 = t) (ht : t ≤ 63) (hbulk : q.bulkv = true) (halign : q.baddr.toNat % 64 = 0)
    (hlen : q.blen.toNat ≤ 2 ^ 31) (hread : q.env.readOk = true)
    (hcheck : importCheck s (fitBytes (q.blen.toNat * 256) q.env.bulk) = none) :
    sessionImportCmd q p s = importSession q t (fitBytes (q.blen.toNat * 256) q.env.bulk) s := by
  have hthere : ¬63 < t := by omega
  have hshort : ¬2 ^ 31 < q.blen.toNat := by omega
  simp only [sessionImportCmd, hpar, hthere, hbulk, halign, hshort, hread, hcheck, Bool.not_true, bne_self_eq_false, Bool.or_self,
    Bool.false_eq_true, if_false]

/-- The state in which an imported session is made: a fence that is closed names it (R560). -/
def importFenced (i : Nat) (s : State) : State :=
  if s.rnd.fence then { s with rnd := { s.rnd with fenceSess := setIns i s.rnd.fenceSess } } else s

/-- The session that an image makes, before any rebuild. -/
def importedSession (gen t : Nat) (x : ImageIn) (rebuild : Bool) : Session :=
  { gen := gen, state := .active, tenant := t, seed := BitVec.ofNat 64 x.seed, step := BitVec.ofNat 32 x.step
    len := if rebuild then 0 else x.len, npage := x.npage, rebuild := rebuild }

/-- Where an index is free and the quota and the pool allow, the image's kind and length decide whether the session is rebuilt. -/
theorem importSession_eq {t i : Nat} {b : List Byte} {s1 : State} (hindex : takeIndex s = some (i, s1))
    (hquota : (tenantSessions s t).length < (tenOf s t).quota) (hpool : canGrow s {} (imageIn b).npage = true) :
    let x := imageIn b
    let rebuild := x.kind == 1 && decide (1 ≤ x.len)
    let u := putSess i (importedSession (sessOf s i).gen t x rebuild) (importFenced i s1)
    let v := tailImport i (layPages i (imagePages b x) ((growTo i x.npage u).getD u))
    importSession q t b s = if rebuild then
        hold q (.import_ i) { u with rnd := { u.rnd with
          nextId := u.rnd.nextId + 1, reqs := u.rnd.reqs ++ [rebuildReq u t q.fn i x.toks] } }
      else respond 0x71 q (okRsp [(0, natLe 4 (handleOf v i).toNat), (4, natLe 4 x.len)]) v := by
  have hallowed : ¬((tenOf s t).quota ≤ (tenantSessions s t).length ∨ (!canGrow s {} (imageIn b).npage) = true) := by
    rw [hpool]
    simpa using hquota
  rw [importSession]
  simp only [hindex, hallowed, if_false]
  rfl

end

/-- Settles O27: each command is its body in the state in which it is taken up.  That both complete at take-up or at the rebuild rests on log
entry 87, and the bytes of an image that have no defined value are free values (log entry 6). -/
theorem mailboxSessions : Obligations.MailboxSessions := by
  intro q s hfn
  refine ⟨?exports, ?imports⟩
  case exports =>
    intro handle i l t x ha hsess hsound hhere hlive hrest
    have hhandle : par (params l) 0 4 = handle.toNat := par_params (by simp [l]) (by simp [l]) (by simp [l]) handle.isLt
    obtain ⟨hfor, hsame, hten, himage, hrnd⟩ := sessionExport_takenUp 0x70 q l s q.fn i x.tenant handle
    have himm := sessionExportImm_eq (q := q) (s := t) (i := i) hhandle (hfor.trans hsess)
    have hfree : t.free = s.free := free_takenUp ..
    rw [hsame, himage, hfree] at himm
    have hlive' : (tenOf t x.tenant).resetting = false := (congrArg Tenant.resetting hten).trans hlive
    have hrest' : t.rnd.active = false ∨ (t.rnd.parts.all fun y => y.index != i) = true := hrnd.symm ▸ hrest
    have hdone := himm hsound hhere hlive' hrest'
    exact exec_of_accepted (f := sessionExportImm) rfl rfl (by omega) (by omega) hfn ha hdone
  case imports =>
    intro tenant i s1 l t b x ha ht hbulk halign hlen hread hcheck hindex hquota hpool fenced
    have hpar : par (params l) 0 1 = tenant.toNat := par_params (by simp [l]) (by simp [l]) (by simp [l]) tenant.isLt
    have hcheck' : importCheck t b = none := (apply_takenUp (importCheck · b) 0x71 q l s fun _ _ _ => rfl).trans hcheck
    have hsess : tenantSessions t tenant.toNat = tenantSessions s tenant.toNat :=
      apply_takenUp (tenantSessions · tenant.toNat) 0x71 q l s fun _ _ _ => rfl
    have hten : tenOf t tenant.toNat = tenOf s tenant.toNat := apply_takenUp (tenOf · tenant.toNat) 0x71 q l s fun _ _ _ => rfl
    have himport := (sessionImportCmd_passes (s := t) hpar ht hbulk halign hlen hread hcheck').trans
      (importSession_eq hindex (by rw [hsess, hten]; exact hquota) hpool)
    refine ⟨fun hkind hlong => ?rebuilt, fun hplain => ?active⟩
    case rebuilt =>
      have hrebuild : (x.kind == 1 && decide (1 ≤ x.len)) = true := by rw [hkind, decide_eq_true hlong]; rfl
      have hheld := himport.trans (if_pos hrebuild)
      rw [hrebuild] at hheld
      exact exec_of_body (body := sessionImportCmd) rfl rfl (by omega) (by omega) hfn ha hheld
    case active =>
      have hrebuild : (x.kind == 1 && decide (1 ≤ x.len)) = false := by
        obtain h | h := hplain <;> simp [h]
      have hdone := himport.trans (if_neg (Bool.eq_false_iff.1 hrebuild))
      rw [hrebuild] at hdone
      exact exec_of_body (body := sessionImportCmd) rfl rfl (by omega) (by omega) hfn ha hdone

end Sys2Proof.Machine
end
